-- ==== Sys2Proof/Word.lean ====
section
/-! DEFINITION. The plain data types that commands, state and field accessors share: bytes, the
physical functions and leaves of the module, transfer references and the mailbox command. -/

namespace Sys2Proof

/-- One byte. -/
abbrev Byte := BitVec 8

/-- The three physical functions of the endpoint (R29). -/
inductive FnId where
  | f0 | f1 | f2
deriving DecidableEq, Repr, Inhabited

/-- The two render dies (R13). -/
inductive LeafId where
  | a | b
deriving DecidableEq, Repr, Inhabited

/-- The other leaf. -/
def LeafId.other : LeafId → LeafId
  | .a => .b
  | .b => .a

/-- The number of a leaf in records: 0 leaf A, 1 leaf B (R64, R67). -/
def LeafId.num : LeafId → Nat
  | .a => 0
  | .b => 1

/-- The number of a function, 0 to 2 (R41). -/
def FnId.num : FnId → Nat
  | .f0 => 0
  | .f1 => 1
  | .f2 => 2

/-- The variants of R2. -/
inductive Variant where
  | zl4824t | zl4824s | zl4820t | zl4824tn
deriving DecidableEq, Repr, Inhabited

/-- The variant code of R2. -/
def Variant.code : Variant → Nat
  | .zl4824t => 1
  | .zl4824s => 2
  | .zl4820t => 3
  | .zl4824tn => 4

/-- Leaf B and the tie link are present (R2). -/
def Variant.hasB : Variant → Bool
  | .zl4824s => false
  | _ => true

/-- The voice engine is present (R2). -/
def Variant.hasVoice : Variant → Bool
  | .zl4820t => false
  | _ => true

/-- The coping is present (R2). -/
def Variant.hasCoping : Variant → Bool
  | .zl4824tn => false
  | _ => true

/-- A transfer reference (R78). -/
structure XferRef where
  addr : Nat := 0
  len : Nat := 0
deriving DecidableEq, Repr, Inhabited

/-- A mailbox command: the envelope header of R48 and the body bytes, with the function and the
slot it was written to and its place in the acceptance order (R49). -/
structure Cmd where
  fn : FnId := .f0
  slot : Nat := 0
  op : Nat := 0
  tag : Nat := 0
  flags : Nat := 0
  bodyLen : Nat := 0
  hdrVer : Nat := 1
  target : Nat := 0
  rsv12 : Nat := 0
  when_ : Nat := 0
  rsv24 : Nat := 0
  body : List Byte := []
  acc : Nat := 0
deriving DecidableEq, Repr, Inhabited

end Sys2Proof
end

