-- ==== Sys2Proof/Syntax.lean ====
section
/-! DEFINITION. The commands of the module, one constructor for each row of the opcode table: host
register accesses, mailbox commands and the steps that devices and the environment bring about.
An operand that a step measures outside the module (a received frame, an offset sample, a count) is
an operand of its constructor. -/

namespace Sys2Proof

/-- A position or direction, x right, y front, z up, in metres (R11). -/
structure V3 where
  x : Rat := 0
  y : Rat := 0
  z : Rat := 0
deriving DecidableEq, Repr, Inhabited

/-- One audio object of an assembled serial ADM frame with the elements and attributes that R140
honours: `a`, `b`, `c` are azimuth, elevation and distance, or X, Y and Z of a Cartesian position;
times are in nanoseconds; `track` is the `trackID`. -/
structure AdmObj where
  id : Nat := 0
  typeDef : Nat := 3
  track : Nat := 1
  cartesian : Bool := false
  a : Rat := 0
  b : Rat := 0
  c : Rat := 1
  rtime : Nat := 0
  duration : Nat := 0
  jump : Bool := false
  interp : Nat := 0
  gain : Rat := 1
  gainDb : Bool := false
  width : Rat := 0
  height : Rat := 0
  depth : Rat := 0
  diffuse : Rat := 0
  importance : Nat := 10
  lfeLabel : Bool := false
  lowPass : Option Rat := none
deriving DecidableEq, Repr, Inhabited

/-- An assembled serial ADM frame: uncompressed XML or not (R334), a full frame or not (R139), for a map
of the restored scene or of the leaf's own (R424), and the media time of the audio sample that its start
addresses, in nanoseconds of the leaf's time base (R140). -/
structure AdmFrame where
  good : Bool := true
  full : Bool := true
  guest : Bool := false
  time : Nat := 0
  objs : List AdmObj := []
deriving DecidableEq, Repr, Inhabited

/-- The data set of a received Announce message (R347). -/
structure PtpAnnounce where
  prio1 : Nat := 128
  clockClass : Nat := 248
  accuracy : Nat := 254
  variance : Nat := 65535
  prio2 : Nat := 128
  gm : Nat := 0
  steps : Nat := 0
deriving DecidableEq, Repr, Inhabited

/-- A write to a bank that reaches its merge buffer's word: a narrow side-port write with fewer than
8 strobes, or, with `owner` set, a full write by the bank's owner (R439, R440). -/
structure NarrowWrite where
  row : Nat := 0
  slot : Nat := 0
  strobes : BitVec 8 := 0
  data : BitVec 64 := 0
  owner : Bool := false
deriving DecidableEq, Repr, Inhabited

/-- A request at a DRAM channel (R450, R459): a write or a read, its bank, row and burst of 64 bytes in
that row, and its master's QoS. -/
structure DramReq where
  write : Bool := false
  bank : Nat := 0
  row : Nat := 0
  col : Nat := 0
  qos : Nat := 0
deriving DecidableEq, Repr, Inhabited

/-- What firmware threads do at a scheduler decision: the thread a core runs blocks on an event queue,
sleeps until a tick or exits, or a thread is cancelled (R472, R476, R479). -/
inductive SchedAct where
  | block (core queue : Nat)
  | sleep (core wake : Nat)
  | leave (core : Nat)
  | cancel (thread : Nat)
deriving DecidableEq, Repr, Inhabited

/-- A memory word that a march finds failing (R493): its bank (48 on for program memory, 255 for
DRAM), row, slot, DRAM address and failing bits. -/
structure TestWord where
  bank : Nat := 0
  row : Nat := 0
  slot : Nat := 0
  address : Nat := 0
  bits : BitVec 64 := 0
deriving DecidableEq, Repr, Inhabited

/-- What a test finds in the silicon (R492, R498): logic BIST signatures of the blocks in their bit
order, failing words in the order found, the first and last passing delay setting per lane and direction
as far as the steps have come, and the time taken in microseconds. -/
structure TestResult where
  sigs : List (Nat × Nat × Nat) := []
  words : List TestWord := []
  lanes : List (Nat × Nat) := []
  took : Nat := 0
deriving DecidableEq, Repr, Inhabited

/-- The commands. -/
inductive Instr where
  /-- `DOORBELL` (R49). A host write to DOORBELL rings a command slot; the plinth accepts it in arrival order or discards it for a busy slot or illegal value. -/
  | doorbell (fn : FnId) (v : BitVec 32)
  /-- `TB_SNAP_LO` (R42). A read of TB_SNAP_LO captures the render time base and latches TB_SNAP_HI and TICK_SNAP. -/
  | tbSnapLo (fn : FnId) (cycles : Nat)
  /-- `CQ_CONS` (R43). A host write of the completion ring consumer index frees entries, or is discarded and sets DB_ERR.BAD_VALUE if out of range. -/
  | cqCons (fn : FnId) (v : BitVec 32)
  /-- `EQ_CONS` (R43). A host write of the event ring consumer index frees entries, or is discarded if out of range. -/
  | eqCons (fn : FnId) (v : BitVec 32)
  /-- `POS_COMMIT` (R72). A host write to POS_COMMIT makes a position buffer pending, or is discarded if that buffer is already pending. -/
  | posCommit (fn : FnId) (v : BitVec 32)
  /-- `CLEAR_HALT` (R82). A write of DMA_CTRL.CLEAR_HALT clears a halted bulk-transfer channel. -/
  | clearHalt (fn : FnId) (v : BitVec 32)
  /-- `MOD_RESET_MODULE` (R28). MOD_RESET.MODULE with the key resets both leaves, the tie link and the coping together. -/
  | modResetModule (v : BitVec 32)
  /-- `MOD_RESET_LEAF` (R45). MOD_RESET.LEAF_A or LEAF_B with the key resets one leaf, as a failure in twin and split mode. -/
  | modResetLeaf (v : BitVec 32)
  /-- `MOD_RESET_COPING` (R484). MOD_RESET.COPING with the key resets the coping and clamps its outputs. -/
  | modResetCoping (v : BitVec 32)
  /-- `REGISTER_WRITE` (R40). A host write to a BAR0 or BAR2 register or region without behaviour of its own, including W1C, mask, vector and slot writes. -/
  | registerWrite (fn : FnId) (bar2 : Bool) (off : Nat) (bytes : List Byte)
  /-- `SYS_CAPS` (R3). Returns the capabilities and releases the function from the BAD_STATE lockout after reset. -/
  | sysCaps (c : Cmd)
  /-- `SYS_CANCEL` (R63). Withdraws pending timed commands of the function with a given tag. -/
  | sysCancel (c : Cmd)
  /-- `SYS_BOOT_LOAD` (R488). Delivers a host boot image to a leaf waiting in host boot. -/
  | sysBootLoad (c : Cmd)
  /-- `SYS_FW_UPDATE` (R495). Writes and verifies a firmware image into the slot not booted. -/
  | sysFwUpdate (c : Cmd)
  /-- `SCN_CONFIG` (R144). Sets slot limit, folding, bed radius and ADM scaling of the scene. -/
  | scnConfig (c : Cmd)
  /-- `SCN_CLEAR` (R143). Fades every object out and returns objects, beds and ADM maps to their defaults. -/
  | scnClear (c : Cmd)
  /-- `OBJ_CONFIG` (R144). Sets one object's parameters. -/
  | objConfig (c : Cmd)
  /-- `OBJ_ENABLE` (R144). Enables or disables a range of objects with a fade. -/
  | objEnable (c : Cmd)
  /-- `OBJ_SET_POS` (R123). Applies one timed point, gain or spread to an object. -/
  | objSetPos (c : Cmd)
  /-- `OBJ_BED` (R128). Creates or removes a channel bed. -/
  | objBed (c : Cmd)
  /-- `OBJ_ADM_MAP` (R138). Creates, replaces or removes an ADM map. -/
  | objAdmMap (c : Cmd)
  /-- `OBJ_QUERY` (R144). Returns one object's state. -/
  | objQuery (c : Cmd)
  /-- `LAY_SPEAKER` (R175). Writes a run of speakers into the layout edit buffer. -/
  | laySpeaker (c : Cmd)
  /-- `LAY_SEGMENT` (R175). Writes or removes an array segment in the edit buffer. -/
  | laySegment (c : Cmd)
  /-- `LAY_COMMIT` (R151). Builds the hull and puts the edit buffer in force. -/
  | layCommit (c : Cmd)
  /-- `LAY_QUERY` (R175). Returns the layout in force. -/
  | layQuery (c : Cmd)
  /-- `RND_CONFIG` (R175). Sets speed of sound and distance models. -/
  | rndConfig (c : Cmd)
  /-- `RND_OBJ_QUERY` (R175). Returns one object's rendering. -/
  | rndObjQuery (c : Cmd)
  /-- `OUT_FEED_CONFIG` (R197). Sets alignment, dynamics, limiter, slew and dither of a range of feeds. -/
  | outFeedConfig (c : Cmd)
  /-- `OUT_BANK_LOAD` (R197). Stages a coefficient bank or empties one not in force. -/
  | outBankLoad (c : Cmd)
  /-- `OUT_BANK_SWAP` (R193). Installs or releases a bank with a swap fade. -/
  | outBankSwap (c : Cmd)
  /-- `OUT_SWAP_RESERVE` (R191). Sets the swap reserve Q. -/
  | outSwapReserve (c : Cmd)
  /-- `OUT_SCENE_DELAY` (R186). Sets the equalisation floor and optionally recomputes E. -/
  | outSceneDelay (c : Cmd)
  /-- `OUT_FEED_QUERY` (R197). Returns one feed's chain state. -/
  | outFeedQuery (c : Cmd)
  /-- `OUT_BANK_QUERY` (R197). Returns one bank and the tap accounts. -/
  | outBankQuery (c : Cmd)
  /-- `MEAS_TARGET` (R220). Sets a target curve. -/
  | measTarget (c : Cmd)
  /-- `MEAS_START` (R199). Starts a calibration run. -/
  | measStart (c : Cmd)
  /-- `MEAS_ABORT` (R208). Ends the calibration run in progress. -/
  | measAbort (c : Cmd)
  /-- `MEAS_QUERY` (R220). Returns the run's progress. -/
  | measQuery (c : Cmd)
  /-- `MEAS_RESULT` (R220). Transfers a calibration result to the host. -/
  | measResult (c : Cmd)
  /-- `TRK_CONFIG` (R217). Configures in-show tracking. -/
  | trkConfig (c : Cmd)
  /-- `TRK_BASELINE` (R213). Takes a tracking baseline. -/
  | trkBaseline (c : Cmd)
  /-- `TRK_QUERY` (R220). Returns tracking state. -/
  | trkQuery (c : Cmd)
  /-- `VOX_CONFIG` (R256). Sets the tuning reference. -/
  | voxConfig (c : Cmd)
  /-- `VOX_POOL` (R251). Sets a voice pool's size, policy, fade and mode. -/
  | voxPool (c : Cmd)
  /-- `VOX_GROUP` (R234). Binds, configures or unbinds a voice group. -/
  | voxGroup (c : Cmd)
  /-- `VOX_PATCH_LOAD` (R238). Loads a run of patches. -/
  | voxPatchLoad (c : Cmd)
  /-- `VOX_WAVE_LOAD` (R239). Loads or empties a wave slot. -/
  | voxWaveLoad (c : Cmd)
  /-- `NOTE_EVENTS` (R242). Delivers timed note event records. -/
  | noteEvents (c : Cmd)
  /-- `NOTE_UMP` (R245). Delivers timed MIDI 2.0 packets. -/
  | noteUmp (c : Cmd)
  /-- `VOX_CHANNEL_MAP` (R256). Maps a packet group and channel to a voice group. -/
  | voxChannelMap (c : Cmd)
  /-- `VOX_QUERY` (R256). Returns engine and pool state. -/
  | voxQuery (c : Cmd)
  /-- `CLIP_LOAD` (R285). Loads one part of a clip or empties it. -/
  | clipLoad (c : Cmd)
  /-- `CLIP_CUE` (R285). Cues a clip on a player or returns it to idle. -/
  | clipCue (c : Cmd)
  /-- `CLIP_PLAY` (R282). Plays or resumes a player. -/
  | clipPlay (c : Cmd)
  /-- `CLIP_PAUSE` (R282). Pauses a playing player. -/
  | clipPause (c : Cmd)
  /-- `CLIP_STOP` (R282). Stops a player to its cue point. -/
  | clipStop (c : Cmd)
  /-- `CLIP_QUERY` (R285). Returns a player and the store. -/
  | clipQuery (c : Cmd)
  /-- `RTE_DOMAIN` (R272). Sets a domain's rate and time base, restarting the render for domain 0. -/
  | rteDomain (c : Cmd)
  /-- `RTE_SOURCE` (R265). Selects object sources with a cross-fade. -/
  | rteSource (c : Cmd)
  /-- `RTE_EGRESS` (R265). Selects egress stream channels or coping outputs. -/
  | rteEgress (c : Cmd)
  /-- `RTE_BUS` (R268). Selects monitor bus inputs and sets gains. -/
  | rteBus (c : Cmd)
  /-- `RTE_BRIDGE` (R274). Sets bridge channels and their inputs. -/
  | rteBridge (c : Cmd)
  /-- `RTE_QUERY` (R288). Returns a selection point or a domain. -/
  | rteQuery (c : Cmd)
  /-- `MTR_CONFIG` (R288). Sets meter ballistics from the next frame boundary. -/
  | mtrConfig (c : Cmd)
  /-- `MTR_READ` (R270). Transfers the latest meter frame. -/
  | mtrRead (c : Cmd)
  /-- `UC_LOAD` (R307). Validates and loads a user microcode program slot. -/
  | ucLoad (c : Cmd)
  /-- `UC_ATTACH` (R310). Attaches or detaches a program at an insert point. -/
  | ucAttach (c : Cmd)
  /-- `UC_PARAM` (R309). Stages a parameter page and flips to it at its sample. -/
  | ucParam (c : Cmd)
  /-- `UC_QUERY` (R313). Returns an attachment and the pool. -/
  | ucQuery (c : Cmd)
  /-- `NET_PORT` (R341). Sets a port's mode, flow control, VLAN and addresses. -/
  | netPort (c : Cmd)
  /-- `NET_RING` (R323). Sets up or stops a host ring. -/
  | netRing (c : Cmd)
  /-- `NET_FILTER` (R341). Sets a host receive filter. -/
  | netFilter (c : Cmd)
  /-- `NET_RX_STREAM` (R333). Configures, enables or disables an ingress stream. -/
  | netRxStream (c : Cmd)
  /-- `NET_TX_STREAM` (R337). Configures, enables or disables an egress stream. -/
  | netTxStream (c : Cmd)
  /-- `NET_QUERY` (R341). Returns a port's state and counters. -/
  | netQuery (c : Cmd)
  /-- `NET_STREAM_QUERY` (R341). Returns a stream's state and counters. -/
  | netStreamQuery (c : Cmd)
  /-- `CLK_TB_SOURCE` (R343). Sets a time base's source and PTP settings. -/
  | clkTbSource (c : Cmd)
  /-- `CLK_SERVO` (R372). Sets a time base's servo, thresholds and re-acquisition policy. -/
  | clkServo (c : Cmd)
  /-- `CLK_TB_ACTION` (R372). Resolves a pending discontinuity by step, slew or holdover. -/
  | clkTbAction (c : Cmd)
  /-- `CLK_VCXO` (R372). Sets VCXO fitting and steering of one family. -/
  | clkVcxo (c : Cmd)
  /-- `CLK_PLL` (R370). Sets spread spectrum or relocks one PLL. -/
  | clkPll (c : Cmd)
  /-- `CLK_TB_QUERY` (R372). Returns a time base's state. -/
  | clkTbQuery (c : Cmd)
  /-- `CLK_PLL_QUERY` (R372). Returns the PLLs and VCXO servo state. -/
  | clkPllQuery (c : Cmd)
  /-- `MIC_CLOCK` (R375). Enables a PDM clock and sets its divider and ratio. -/
  | micClock (c : Cmd)
  /-- `MIC_ENABLE` (R384). Sets a clock's channel mask. -/
  | micEnable (c : Cmd)
  /-- `MIC_CONFIG` (R385). Sets delay, DC blocker and ring of a range of channels. -/
  | micConfig (c : Cmd)
  /-- `MIC_READ` (R389). Transfers ring blocks to the host. -/
  | micRead (c : Cmd)
  /-- `MIC_QUERY` (R389). Returns one microphone channel's state. -/
  | micQuery (c : Cmd)
  /-- `COP_OUT_CONFIG` (R404). Sets span, slew and monitoring of coping audio outputs. -/
  | copOutConfig (c : Cmd)
  /-- `COP_CV_CONFIG` (R404). Sets span and slew of one control output. -/
  | copCvConfig (c : Cmd)
  /-- `COP_MUTE` (R402). Mutes or unmutes coping audio outputs with a fade. -/
  | copMute (c : Cmd)
  /-- `COP_QUERY` (R404). Returns one coping output's monitoring state. -/
  | copQuery (c : Cmd)
  /-- `RED_MODE` (R406). Changes between independent, twin and split mode. -/
  | redMode (c : Cmd)
  /-- `RED_RESTORE` (R428). Brings back a leaf at claim 0. -/
  | redRestore (c : Cmd)
  /-- `RED_SWAP` (R431). Swaps twin roles or forces a split takeover. -/
  | redSwap (c : Cmd)
  /-- `RED_CONFIG` (R410). Sets claim numbers and demotion mode. -/
  | redConfig (c : Cmd)
  /-- `RED_QUERY` (R431). Returns redundancy state. -/
  | redQuery (c : Cmd)
  /-- `TST_BIST` (R492). Runs logic BIST on selected blocks. -/
  | tstBist (c : Cmd)
  /-- `TST_MARCH` (R492). Runs a memory march. -/
  | tstMarch (c : Cmd)
  /-- `TST_DRAM_SWEEP` (R468). Runs the DRAM delay sweep. -/
  | tstDramSweep (c : Cmd)
  /-- `TST_DRAM_FREQ` (R467). Changes the DRAM to normal or test frequency. -/
  | tstDramFreq (c : Cmd)
  /-- `DIAG_CONFIG` (R498). Sets repair mode and trace mask. -/
  | diagConfig (c : Cmd)
  /-- `DIAG_REPAIR` (R498). Orders a field repair of a weak word. -/
  | diagRepair (c : Cmd)
  /-- `DIAG_TRACE_READ` (R498). Transfers trace records. -/
  | diagTraceRead (c : Cmd)
  /-- `DIAG_MEM_QUERY` (R498). Returns memory error and repair counts. -/
  | diagMemQuery (c : Cmd)
  /-- `COMMAND_VALIDATED` (R52). Validation of an accepted command ends, giving a final or interim completion or a queued effect. -/
  | commandValidated (fn : FnId)
  /-- `TIMED_COMMAND_APPLY` (R55). A queued or deferred command, or a journalled internal command, reaches its effect meridian and its state checks and effect run. -/
  | timedCommandApply (fn : FnId)
  /-- `NOTE_EVENT_APPLY` (R243). Note events reach their sample and are allocated and applied. -/
  | noteEventApply (l : LeafId)
  /-- `COMPLETION_POST` (R51). A waiting completion record is posted once the completion ring has a free entry. -/
  | completionPost (fn : FnId)
  /-- `EVENTS_LOST` (R68). The first record posted after the host frees event-ring room reports discarded events. -/
  | eventsLost (fn : FnId)
  /-- `INT_MODERATION_TIMER` (R44). The moderation delay expires and the MSI-X message is sent. -/
  | intModerationTimer (fn : FnId)
  /-- `RATE_LIMITED_REPORT` (R519). An interval of a once-per-interval event expires with counted cases, and the count is reported. -/
  | rateLimitedReport (fn : FnId) (code : Nat) (subject : Nat) (key : Nat)
  /-- `FUNCTION_LEVEL_RESET` (R33). A function-level reset clears that function's mailbox state. -/
  | functionLevelReset (fn : FnId)
  /-- `LINK_HOT_RESET` (R34). A hot reset or PERST# acts as a function-level reset of every function. -/
  | linkHotReset
  /-- `BUS_MASTER_DISABLE` (R31). Clearing Bus Master Enable halts the bulk channel and stops host rings and MSI-X. -/
  | busMasterDisable (fn : FnId)
  /-- `POWER_STATE_CHANGE` (R32). A function enters D3hot or returns to D0, holding or sending pending interrupts. -/
  | powerStateChange (fn : FnId) (d3 : Bool)
  /-- `DMA_TRANSFER_DONE` (R79). A bulk transfer reference finishes and the next queued one starts. -/
  | dmaTransferDone (fn : FnId) (data : List Byte)
  /-- `DMA_HALT` (R82). An uncorrectable error or host completion error halts the bulk-transfer channel. -/
  | dmaHalt (fn : FnId) (cause : Nat)
  /-- `MERIDIAN` (R89). The render tick arrives: yield, ingress commit, keystone pass, hand-off and collector drain of one sample. -/
  | meridian (l : LeafId) (overruns : List (Nat × Nat)) (residues : List (Nat × Nat × Nat))
  /-- `POS_COMMIT_APPLY` (R73). A pending position commit is applied at its sample. -/
  | posCommitApply (fn : FnId)
  /-- `GAIN_SOLVER_BLOCK` (R153). Every 16 samples the gain solver recomputes targets, cluster centroids and delay glides. -/
  | gainSolverBlock (l : LeafId)
  /-- `OBJ_XFADE_END` (R122). An object's mode cross-fade ends and any waiting change starts. -/
  | objXfadeEnd (l : LeafId) (obj : Nat)
  /-- `SCN_CLEAR_RETURN` (R143). At sample n plus fade, every object returns to defaults. -/
  | scnClearReturn (l : LeafId)
  /-- `BED_REMOVE_END` (R144). A removed bed's fade ends and its objects return to defaults. -/
  | bedRemoveEnd (l : LeafId) (base : Nat)
  /-- `ADM_FRAME` (R139). A serial ADM frame is assembled and its objects are assigned, released and positioned. -/
  | admFrame (l : LeafId) (map : Nat) (frame : AdmFrame)
  /-- `SWAP_FADE_END` (R193). A swap fade ends; the old path stops, banks change state and a queued swap starts. -/
  | swapFadeEnd (l : LeafId) (bank : Nat)
  /-- `DELAY_FADE_END` (R184). A delay fade ends and a waiting delay change is applied. -/
  | delayFadeEnd (l : LeafId) (feed : Nat)
  /-- `FEED_SLEW_UPDATE` (R189). The feed slew limiter updates at samples that are multiples of its interval. -/
  | feedSlewUpdate (l : LeafId) (feed : Nat) (w : Int)
  /-- `SELECTION_FADE_END` (R267). A selection cross-fade ends and the waiting change starts. -/
  | selectionFadeEnd (l : LeafId) (kind : Nat) (point : Nat)
  /-- `METER_FRAME_END` (R270). A meter frame ends every fs/50 samples and replaces the previous one. -/
  | meterFrameEnd (l : LeafId)
  /-- `RENDER_SILENCE_START` (R272). At n plus 64 of a render restart the leaf stops rendering and switches rate. -/
  | renderSilenceStart (l : LeafId)
  /-- `RENDER_RESTART` (R272). The render resumes at the new rate with cleared states and fades in. -/
  | renderRestart (l : LeafId) (cycles : Nat)
  /-- `BRIDGE_RATIO_WINDOW` (R276). A 100 ms bridge ratio window ends and the servo adjusts. -/
  | bridgeRatioWindow (l : LeafId) (ch : Nat) (ratio : Rat) (fill : Int)
  /-- `CLIP_LOOP_END` (R283). A player reaches loop end and loops or continues. -/
  | clipLoopEnd (l : LeafId) (player : Nat)
  /-- `CLIP_END_PASSED` (R283). A player passes the clip's last frame and becomes cued. -/
  | clipEndPassed (l : LeafId) (player : Nat)
  /-- `CLIP_FADE_END` (R282). A pause or stop fade ends and the player becomes paused or cued. -/
  | clipFadeEnd (l : LeafId) (player : Nat)
  /-- `VOICE_MATRIX_EVAL` (R231). Every 16 samples each voice evaluates its modulation matrix. -/
  | voiceMatrixEval (l : LeafId)
  /-- `VOICE_END` (R229). A voice ends after envelope 0 finishes release. -/
  | voiceEnd (l : LeafId) (voice : Nat)
  /-- `STEAL_MIGRATE` (R249). A steal fade ends and the note moves from the shadow voice into the stolen voice. -/
  | stealMigrate (l : LeafId) (shadow : Nat)
  /-- `UC_FADE_END` (R310). An attach or detach fade ends and a detached attachment frees its resources. -/
  | ucFadeEnd (l : LeafId) (att : Nat)
  /-- `UC_PASS_ABANDON` (R307). A user microcode pass fails to reach END within its cycles and is abandoned. -/
  | ucPassAbandon (l : LeafId) (att : Nat) (course : Nat) (pass : Nat)
  /-- `MEAS_SLOT_END` (R199). A calibration feed slot ends and its analysis begins. -/
  | measSlotEnd (l : LeafId)
  /-- `MEAS_ANALYSIS_DONE` (R203). Analysis of a feed's pairs finishes once its charge is paid. -/
  | measAnalysisDone (l : LeafId)
  /-- `MEAS_RETURN_END` (R208). The return fade ends and the run completes or proceeds to design. -/
  | measReturnEnd (l : LeafId)
  /-- `MEAS_DESIGN_DONE` (R205). Correction design finishes and the bank is staged. -/
  | measDesignDone (l : LeafId)
  /-- `MEAS_INSTALL_SWAP` (R207). At the first meridian after staging the run issues its swap and alignments. -/
  | measInstallSwap (l : LeafId)
  /-- `TRACKING_UPDATE` (R218). At each update period tracking analyses pairs and moves offsets and c. -/
  | trackingUpdate (l : LeafId) (errs : List Rat)
  /-- `TRK_STARVED` (R221). No pair has been valid for 60 s. -/
  | trkStarved (l : LeafId)
  /-- `NET_RX_FRAME` (R321). A received frame is checked and classified into a receive ring. -/
  | netRxFrame (l : LeafId) (port : Nat) (frame : List Byte) (fcsOk : Bool) (coded : Bool) (stamp : Nat)
  /-- `HOST_RING_POLL` (R323). The leaf re-reads a host-owned descriptor no sooner than 10 µs later. -/
  | hostRingPoll (l : LeafId) (ring : Nat) (desc : List Byte)
  /-- `NET_TX_FRAME` (R325). A host transmit frame is sent and its descriptors returned. -/
  | netTxFrame (l : LeafId) (ring : Nat) (frame : List Byte)
  /-- `NET_RING_PENDING` (R327). The event interval of a ring expires with descriptors returned. -/
  | netRingPending (l : LeafId) (ring : Nat)
  /-- `NET_LINK_CHANGE` (R318). Block lock is gained or lost on a port. -/
  | netLinkChange (l : LeafId) (port : Nat) (up : Bool)
  /-- `SFP_LOS` (R507). LOS goes high and the port's link goes down at once. -/
  | sfpLos (l : LeafId) (port : Nat)
  /-- `SFP_MODABS` (R507). MODABS falls and the firmware reads the SFP identity page. -/
  | sfpModabs (l : LeafId) (port : Nat) (page : List Byte)
  /-- `NET_FEC_FALLBACK` (R315). In mode 4, 2 s without block lock switches between RS-FEC and 10GBASE-R. -/
  | netFecFallback (l : LeafId) (port : Nat)
  /-- `NET_LEG_LOST` (R329). An ingress leg delivers no packet for 10 packet times or 10 ms. -/
  | netLegLost (l : LeafId) (stream : Nat) (leg : Nat)
  /-- `ARP_RESOLVED` (R337). ARP resolves a unicast egress destination and the stream starts sending. -/
  | arpResolved (l : LeafId) (stream : Nat) (leg : Nat) (mac : Nat)
  /-- `MEDIA_TX_DISCARD` (R320). A media packet waits 1 ms under PAUSE and is discarded. -/
  | mediaTxDiscard (l : LeafId) (port : Nat)
  /-- `EGRESS_PACKET_COMPLETE` (R337). An egress packet's last sample is finished and it goes to the gate or queue. -/
  | egressPacketComplete (l : LeafId) (stream : Nat)
  /-- `HEARTBEAT_RX` (R18). A class-0 message from the peer leaf becomes readable. -/
  | heartbeatRx (l : LeafId)
  /-- `TWIN_VERDICT` (R414). In twin mode the leaf compares digests and self-flags and releases or withholds the sample. -/
  | twinVerdict (l : LeafId)
  /-- `GATE_DEADLINE` (R415). The egress gate deadline passes without the peer's message and the leaf releases on its own flag. -/
  | gateDeadline (l : LeafId)
  /-- `TIE_FLIT_CRC_FAIL` (R18). A tie-link flit fails its CRC twice and the link is marked down. -/
  | tieFlitCrcFail (l : LeafId)
  /-- `HEARTBEAT_MISSING` (R18). No heartbeat arrives within one tick plus 4 µs. -/
  | heartbeatMissing (l : LeafId)
  /-- `TIE_LINK_UP` (R19). The tie link comes back. -/
  | tieLinkUp
  /-- `LIVENESS_MISSING` (R418). A leaf's liveness pulse is missing and the module controller withdraws its claim and starts takeover. -/
  | livenessMissing (l : LeafId)
  /-- `CLAIM_GRANT` (R20). A granted claim change takes effect at the leaf's next meridian. -/
  | claimGrant (l : LeafId)
  /-- `CHECKPOINT_SEND` (R421). Every 100 ms in split mode a leaf checkpoints its scene to its peer. -/
  | checkpointSend (l : LeafId)
  /-- `JOURNAL_ENTRY` (R422). An accepted command or commit is journalled to the peer and acknowledged. -/
  | journalEntry (l : LeafId)
  /-- `SPLIT_TAKEOVER_RESTORE` (R423). The survivor finishes rebuilding the lost scene and starts it at the restore meridian. -/
  | splitTakeoverRestore (l : LeafId)
  /-- `TWIN_COPY_DONE` (R408). The state and store copy of twin entry or restore ends and the joint restart is set. -/
  | twinCopyDone
  /-- `TWIN_RESTART` (R409). Both leaves restart at the same sample and enter lockstep. -/
  | twinRestart (cycles : Nat)
  /-- `SERVO_SAMPLE` (R350). A PTP Sync or word-clock offset sample updates or is refused by the servo. -/
  | servoSample (l : LeafId) (tb : Nat) (theta : Int)
  /-- `PTP_ANNOUNCE_TIMEOUT` (R353). Announce receipt timeout puts the time base into holdover. -/
  | ptpAnnounceTimeout (l : LeafId) (tb : Nat)
  /-- `PTP_SYNC_TIMEOUT` (R353). No Sync for 4 sync intervals puts the time base into holdover. -/
  | ptpSyncTimeout (l : LeafId) (tb : Nat)
  /-- `CLK_DISCONTINUITY_DECISION` (R355). At the first meridian after the eighth refusal the policy steps, slews or waits. -/
  | clkDiscontinuityDecision (l : LeafId) (tb : Nat)
  /-- `WCLK_SAMPLE` (R359). Each 1 ms the word-clock edges form a servo sample. -/
  | wclkSample (l : LeafId) (tb : Nat) (theta : Int)
  /-- `WCLK_STOP` (R360). No accepted word-clock edge for 2 periods puts the time base into holdover. -/
  | wclkStop (l : LeafId) (tb : Nat)
  /-- `WCLK_RATE_WINDOW` (R361). A 100 ms edge-count window ends and may declare a rate change. -/
  | wclkRateWindow (l : LeafId) (tb : Nat) (edges : Nat)
  /-- `VCXO_UPDATE` (R364). Every U the VCXO servo measures phase and issues a demand code. -/
  | vcxoUpdate (l : LeafId) (family : Nat) (phase : Int)
  /-- `PLL_LOCK_WINDOW` (R368). A 1 024-cycle PLL count window ends, declaring lock, loss of lock or reference loss. -/
  | pllLockWindow (l : LeafId) (pll : Nat) (diff : Nat) (refOk : Bool)
  /-- `PLL_GATE_END` (R369). A gated PLL locks and its output is ungated after 64 reference cycles. -/
  | pllGateEnd (l : LeafId) (pll : Nat)
  /-- `MIC_FRAME_END` (R381). A PDM decimation frame ends and is written to its ring. -/
  | micFrameEnd (l : LeafId) (ch : Nat) (bits : List Bool)
  /-- `COPING_LOAD_STROBE` (R22). The coping loads all audio outputs through claim selection, slew and fades. -/
  | copingLoadStrobe
  /-- `COP_SLEW_UPDATE` (R394). The coping slew limiter updates at ticks that are multiples of its interval. -/
  | copSlewUpdate (out : Nat)
  /-- `COP_SPAN_FADE_END` (R396). A span fade reaches zero and the reference switches, or a waiting change starts. -/
  | copSpanFadeEnd (out : Nat)
  /-- `COP_STROBE_LOSS` (R395). No load strobe for 2 periods moves the coping to its backup clock and fades to zero. -/
  | copStrobeLoss
  /-- `COP_MONITOR_WINDOW` (R399). A 256 µs read-back window ends and its output is compared. -/
  | copMonitorWindow (out : Nat) (dc : Int) (rms : Int) (ohms : Nat) (limit : Bool)
  /-- `SUPPLY_GOOD` (R482). VIN stays above 10.6 V for 10 ms and the module controller sequences the rails. -/
  | supplyGood
  /-- `SUPPLY_FAIL` (R482). VIN falls below 10.2 V for 10 µs and the module resets. -/
  | supplyFail
  /-- `LEAF_RAIL_FAULT` (R16). Overcurrent, undervoltage or overtemperature switches off one leaf's rails. -/
  | leafRailFault (l : LeafId) (cause : Nat)
  /-- `PLINTH_OVERTEMP` (R513). The plinth reaches 125 °C and resets the module. -/
  | plinthOvertemp
  /-- `LEAF_RESET_RELEASE` (R485). A leaf's reset is released, its straps sampled and its boot begins. -/
  | leafResetRelease (l : LeafId)
  /-- `BOOT_READY` (R489). A leaf finishes booting and reports READY. -/
  | bootReady (l : LeafId) (ms : Nat) (fails : List TestWord)
  /-- `SYS_BOOT_FAIL` (R490). A boot step fails and the leaf stays in reset. -/
  | sysBootFail (l : LeafId) (step : Nat) (cause : Nat)
  /-- `ECC_CORRECTION` (R444). A single-bit ashlar error is corrected and counted in the repeat table. -/
  | eccCorrection (l : LeafId) (bank : Nat) (row : Nat) (slot : Nat) (pos : Nat)
  /-- `ECC_SCRUB` (R445). The firmware scrubs a word after a hit. -/
  | eccScrub (l : LeafId)
  /-- `ECC_UNCORRECTABLE` (R442). An uncorrectable error is found and handled by access type. -/
  | eccUncorrectable (l : LeafId) (access : Nat) (course : Nat) (bank : Nat) (row : Nat) (slot : Nat) (feeds : List Nat) (again : Bool)
  /-- `COURSE_RESTART` (R442). The firmware reloads and restarts a course halted by a program-fetch error. -/
  | courseRestart (l : LeafId) (course : Nat)
  /-- `REPEAT_ENTRY_EXPIRE` (R446). A single-hit repeat-table entry with no hit for 60 s is freed. -/
  | repeatEntryExpire (l : LeafId) (entry : Nat)
  /-- `FIELD_REPAIR_WRITE` (R447). A field-repair entry for a weak word is written to boot flash. -/
  | fieldRepairWrite (l : LeafId)
  /-- `BANK_HANDOVER` (R435). An ashlar bank handover takes effect after the old owner drains. -/
  | bankHandover (l : LeafId) (bank : Nat) (owner : Nat)
  /-- `ALIAS_WRITE` (R438). A side-port bit-set or bit-clear alias write is applied atomically. -/
  | aliasWrite (l : LeafId) (bank : Nat) (row : Nat) (slot : Nat) (set : Bool) (strobes : BitVec 8) (mask : BitVec 64) (bad : Bool)
  /-- `MERGE_ENTRY_FLUSH` (R439). A merge-buffer entry is written to its bank. -/
  | mergeEntryFlush (l : LeafId) (bank : Nat) (entry : Nat) (writes : List NarrowWrite) (bad : Bool)
  /-- `BUS_DECERR` (R453). A transaction to an unmapped address receives DECERR. -/
  | busDecerr (l : LeafId) (master : Nat) (unit : Nat) (addr : Nat)
  /-- `DRAM_REFRESH` (R461). A refresh interval falls due and a refresh is issued or postponed. -/
  | dramRefresh (l : LeafId) (ch : Nat) (busy : Bool)
  /-- `DRAM_TEMP_POLL` (R462). Every 1 ms MR4 is read and the refresh rate may change. -/
  | dramTempPoll (l : LeafId) (ch : Nat) (mr4 : Nat) (above : Bool) (beyond : Bool)
  /-- `DRAM_WRITE_DRAIN` (R459). Writes drain when 24 bursts are held or a write has waited 2 µs. -/
  | dramWriteDrain (l : LeafId) (ch : Nat) (reqs : List DramReq) (issues : Option Nat)
  /-- `DRAM_THROTTLE` (R464). A row reaches 4 096 activates in a window and its master is throttled. -/
  | dramThrottle (l : LeafId) (ch : Nat) (bank : Nat) (row : Nat) (master : Nat) (unit : Nat)
  /-- `DRAM_ECC` (R465). A DRAM read finds an uncorrectable error handled by master. -/
  | dramEcc (l : LeafId) (master : Nat) (unit : Nat) (ch : Nat) (addr : Nat) (users : List (Nat × Nat))
  /-- `THREAD_READY` (R472). A thread becomes ready and is dispatched or preempts a running thread. -/
  | threadReady (l : LeafId) (thread : Nat) (prio : Nat) (only : Option Nat) (cancelled : Bool) (acts : List SchedAct)
  /-- `TIMESLICE_EXPIRE` (R472). A 100 µs quantum expires among equal-priority threads. -/
  | timesliceExpire (l : LeafId) (core : Nat)
  /-- `DELAY_TICK` (R476). The 10 µs scheduler tick wakes delayed threads. -/
  | delayTick (l : LeafId) (acts : List SchedAct)
  /-- `EVENT_POST` (R477). A producer posts to an event queue, or is back-pressured or refused. -/
  | eventPost (l : LeafId) (queue : Nat) (word : Nat) (hw : Bool) (acts : List SchedAct)
  /-- `SCHED_QUEUE_FULL` (R477). A queue refusal persists for 1 ms. -/
  | schedQueueFull (l : LeafId) (queue : Nat)
  /-- `BUS_MASTER_ENABLE` (R31). Setting a function's Bus Master Enable bit again resumes its MSI-X messages and host rings, while a halted bulk channel stays halted until CLEAR_HALT. -/
  | busMasterEnable (fn : FnId)
  /-- `PCIE_LINK_DOWN` (R34). The PCIe link goes down or the host is lost, and the scene renders on while completions and events collect in the rings. -/
  | pcieLinkDown
  /-- `COPING_RAIL_FAULT` (R401). Loss of the coping rails clamps every audio and control output within 1 µs and clears MOD_STATUS.COPING_PG. -/
  | copingRailFault
  /-- `COPING_RESET_RELEASE` (R489). The coping leaves reset once its rails are good, with the claim selector on leaf A and the outputs clamped until the first load strobe. -/
  | copingResetRelease
  /-- `COPING_FOLD_BACK` (R511). The coping junction reaching 125 °C folds the current limit of shorted outputs back to 20 mA, and falling below 110 °C restores 60 mA. -/
  | copingFoldBack (hot : Bool)
  /-- `PTP_ANNOUNCE_RX` (R347). A received Announce message runs the best master clock algorithm and may move the PTP instance into or out of SLAVE or MASTER. -/
  | ptpAnnounceRx (l : LeafId) (tb : Nat) (msg : PtpAnnounce)
  /-- `PTP_DELAY_RESP_RX` (R350). A Delay_Resp or peer-delay response completes a path-delay measurement, updating the mean path delay with the asymmetry of R349. -/
  | ptpDelayRespRx (l : LeafId) (tb : Nat) (path : Nat)
  /-- `PTP_MESSAGE_INTERVAL` (R347). A PTP instance's message interval expires and it sends Sync and Announce as master, or Delay_Req or Pdelay_Req as slave. -/
  | ptpMessageInterval (l : LeafId) (tb : Nat)
  /-- `WCLK_RETURN` (R360). Sixteen consecutive accepted word-clock edges after a stop make the time base re-acquire under R354. -/
  | wclkReturn (l : LeafId) (tb : Nat)
  /-- `PAUSE_QUANTA_EXPIRE` (R320). The pause time given by a received PAUSE or PFC frame runs out and the stopped transmit queues resume. -/
  | pauseQuantaExpire (l : LeafId) (port : Nat)
  /-- `CHECKPOINT_RECEIVED` (R421). A complete split-mode checkpoint reaches the peer leaf and becomes the latest checkpoint for takeover, as the first ones do for split-mode entry. -/
  | checkpointReceived (l : LeafId)
  /-- `DRAM_ACTIVATE_WINDOW_END` (R464). A 32 ms row-activation window ends, resetting the activation counts and lifting any throttle. -/
  | dramActivateWindowEnd (l : LeafId) (ch : Nat)
  /-- `ECC_OPERAND_REWRITE` (R442). Within 1 ms of an uncorrectable operand fetch the firmware rewrites the word from its DRAM source copy or to zero, after which the word is clean or hard-faulted. -/
  | eccOperandRewrite (l : LeafId) (bank : Nat) (row : Nat) (slot : Nat) (hard : Bool)
  /-- `TEST_COMPLETE` (R492). A logic BIST, march, delay sweep or DRAM frequency change finishes, posts its result and returns the memory or leaf to use. -/
  | testComplete (l : LeafId) (res : TestResult)
  /-- `FW_SLOT_VERIFIED` (R495). SYS_FW_UPDATE finishes writing and verifying the slot not booted, within 40 s, leaving it valid or invalid. -/
  | fwSlotVerified (l : LeafId)
  /-- `SFP_MODABS_HIGH` (R507). MODABS goes high when an SFP module is removed and the port's TXDIS is driven high. -/
  | sfpModabsHigh (l : LeafId) (port : Nat)
deriving DecidableEq, Repr

end Sys2Proof
end

