-- ==== Sys2Proof/Decode.lean ====
section
/-! DEFINITION. The commands of this block have no binary encoding of their own: no row of the opcode
table gives bits, so no word spells a command. What the host writes into a slot is read by `parseSlot`. -/

namespace Sys2Proof

/-- The command that a word spells by the table's bits: none, since no row gives bits
(DESIGN CHOICE, log entry 16). -/
def decodeTableWord (_nbits _w : Nat) : Option Instr := none

end Sys2Proof
end

