-- ==== Sys2Proof/Config.lean ====
section
/-! DEFINITION. What the spec leaves to the implementation or leaves open: opaque constants without
a body, so that nothing can be proved of their values beyond their types. What an implementation or
the factory fixes: log entry 20. Irrational numbers of the manual's formulas, which a device holds in
a rounding the manual does not give: log entry 8. Free values: log entry 3. Signals and bytes whose
exact form the manual leaves open: log entry 19. All are DESIGN CHOICE marks of how an open value is
held; none fixes a value. -/

namespace Sys2Proof.Config

/-- Firmware version register of a leaf, or of the module controller (R41: from the image). -/
opaque fwVer : Option LeafId → BitVec 32
/-- Module serial number, set at the factory (R41). -/
opaque serial : BitVec 64
/-- Silicon stepping (R41). -/
opaque step : BitVec 8
/-- A fresh unspecified number: the use's name and the count of free values taken so far
(log entry 3). -/
opaque free : String → Nat → Nat
/-- An unspecified number that depends on operands: the use's name and the operands (log entries 3,
8 and 19). -/
opaque of : String → List Rat → Rat
/-- Unspecified bytes that depend on operands (log entry 19). -/
opaque bytesOf : String → List Byte → List Byte
/-- Factory MAC address of a port, in wire order as a number (R317): a factory value. -/
opaque factoryMac : LeafId → Nat → BitVec 48
/-- A check of an image that a leaf makes (R487): 0 the hash of its public key equals the fused one,
1 its header's signature verifies, 2 every segment's hash matches the manifest. -/
opaque imageCheck : Nat → List Byte → Bool
/-- Security version in an image's header (R486, R487). -/
opaque imageVersion : List Byte → Nat
/-- Where a leaf keeps a stored item in DRAM, in MiB: the kind of store, the slot and the byte
(R492; the manual gives no layout). -/
opaque dramPlace : Nat → Nat → Nat → Nat

end Sys2Proof.Config
end

