-- ==== Sys2Proof/Machine/Bits.lean ====
section
/-! DEFINITION. Field accessors of R47 over byte lists, the little-endian order of R9, binary32
values, roundings, and the generic operations on sparse tables. -/

namespace Sys2Proof.Machine

/-- Byte `i` of a body; bytes beyond its end read as zero. -/
def u8 (b : List Byte) (i : Nat) : Nat := (b.getD i 0).toNat

/-- Unsigned 16-bit field, little-endian (R9, R47). -/
def u16 (b : List Byte) (i : Nat) : Nat := u8 b i + 256 * u8 b (i + 1)

/-- Unsigned 32-bit field. -/
def u32 (b : List Byte) (i : Nat) : Nat := u16 b i + 65536 * u16 b (i + 2)

/-- Unsigned 64-bit field. -/
def u64 (b : List Byte) (i : Nat) : Nat := u32 b i + 4294967296 * u32 b (i + 4)

/-- Two's-complement reading of an unsigned value of `w` bits. -/
def signed (w n : Nat) : Int := if n < 2 ^ (w - 1) then (n : Int) else (n : Int) - (2 : Int) ^ w

/-- Signed 8-bit field. -/
def s8 (b : List Byte) (i : Nat) : Int := signed 8 (u8 b i)

/-- Signed 16-bit field; a `cdb` field has this type (R47). -/
def s16 (b : List Byte) (i : Nat) : Int := signed 16 (u16 b i)

/-- Signed 32-bit field. -/
def s32 (b : List Byte) (i : Nat) : Int := signed 32 (u32 b i)

/-- Signed 64-bit field. -/
def s64 (b : List Byte) (i : Nat) : Int := signed 64 (u64 b i)

/-- Bits `hi` down to `lo` of a number. -/
def bits (n hi lo : Nat) : Nat := n / 2 ^ lo % 2 ^ (hi + 1 - lo)

/-- Bit `i` of a number. -/
def bit (n i : Nat) : Bool := n / 2 ^ i % 2 == 1

/-- Bit `i` of a 128-bit mask at a body offset (R220). -/
def maskBit (b : List Byte) (off i : Nat) : Bool := bit (u8 b (off + i / 8)) (i % 8)

/-- One for true. -/
def b2n (b : Bool) : Nat := if b then 1 else 0

/-- The `n` little-endian bytes of a value. -/
def leBytes : Nat → Nat → List Byte
  | 0, _ => []
  | n + 1, v => BitVec.ofNat 8 v :: leBytes n (v / 256)

/-- One byte. -/
def le8 (v : Nat) : List Byte := leBytes 1 v
/-- Two bytes. -/
def le16 (v : Nat) : List Byte := leBytes 2 v
/-- Four bytes. -/
def le32 (v : Nat) : List Byte := leBytes 4 v
/-- Eight bytes. -/
def le64 (v : Nat) : List Byte := leBytes 8 v
/-- `n` zero bytes. -/
def zeros (n : Nat) : List Byte := List.replicate n 0
/-- The unsigned number of `w` bits that codes a signed value. -/
def unsigned (w : Nat) (v : Int) : Nat := (v % ((2 : Int) ^ w)).toNat
/-- Two bytes of a signed value. -/
def sle16 (v : Int) : List Byte := le16 (unsigned 16 v)
/-- Four bytes of a signed value. -/
def sle32 (v : Int) : List Byte := le32 (unsigned 32 v)
/-- Eight bytes of a signed value. -/
def sle64 (v : Int) : List Byte := le64 (unsigned 64 v)

/-- The bytes of `b` from offset `i`, `n` of them, padded with zeros. -/
def slice (b : List Byte) (i n : Nat) : List Byte :=
  let t := (b.drop i).take n
  t ++ zeros (n - t.length)

/-- Every byte of the range is zero: a reserved field as R10 requires it. -/
def allZero (b : List Byte) (i n : Nat) : Bool := (slice b i n).all (· == 0)

/-- The list cut or padded with zero bytes to `n`. -/
def padTo (n : Nat) (b : List Byte) : List Byte := slice b 0 n

/-! Values. -/

/-- A value lies in a closed range. -/
def within (lo hi v : Int) : Bool := lo ≤ v && v ≤ hi

/-- An integer held in a closed range. -/
def clampI (lo hi v : Int) : Int := if v < lo then lo else if hi < v then hi else v

/-- A rational held in a closed range. -/
def clampQ (lo hi v : Rat) : Rat := if v < lo then lo else if hi < v then hi else v

/-- The lesser of two rationals. -/
def minQ (a b : Rat) : Rat := if b < a then b else a

/-- The greater of two rationals. -/
def maxQ (a b : Rat) : Rat := if a < b then b else a

/-- Magnitude of a rational. -/
def absQ (a : Rat) : Rat := if a < 0 then -a else a

/-- Rounding to the nearest integer, ties to even. -/
def roundEven (q : Rat) : Int :=
  let f := q.floor
  let r := q - f
  if r < 1 / 2 then f else if 1 / 2 < r then f + 1 else if f % 2 = 0 then f else f + 1

/-- Two to an integer power. -/
def pow2 (e : Int) : Rat := if 0 ≤ e then (2 : Rat) ^ e.toNat else 1 / (2 : Rat) ^ (-e).toNat

/-- The value of a binary32 pattern; none for a NaN or an infinity, which R47 refuses. -/
def f32Val (n : Nat) : Option Rat :=
  let e := bits n 30 23
  let m := bits n 22 0
  if e = 255 then none else
    let v : Rat := if e = 0 then (m : Rat) * pow2 (-149) else ((m : Rat) + 8388608) * pow2 ((e : Int) - 150)
    some (if bit n 31 then -v else v)

/-- The binary32 field at an offset. -/
def f32 (b : List Byte) (i : Nat) : Option Rat := f32Val (u32 b i)

/-- The binary32 field at an offset where its finiteness has been checked. -/
def f32D (b : List Byte) (i : Nat) : Rat := (f32 b i).getD 0

/-- A finite binary32 field lies in a closed range. -/
def f32In (b : List Byte) (i : Nat) (lo hi : Rat) : Bool :=
  match f32 b i with
  | none => false
  | some v => decide (lo ≤ v) && decide (v ≤ hi)

/-- The exponent `e` with `2^e ≤ q < 2^(e+1)` for a positive rational. -/
def expo (q : Rat) : Int :=
  let e : Int := (Nat.log2 q.num.natAbs : Int) - (Nat.log2 q.den : Int)
  if q < pow2 e then e - 1 else if pow2 (e + 1) ≤ q then e + 1 else e

/-- The binary32 pattern nearest a rational, ties to even; used where a response reports an f32. -/
def f32Bits (q : Rat) : Nat :=
  if q = 0 then 0 else
    let s := if q < 0 then 2147483648 else 0
    let a := absQ q
    let e := if expo a < -126 then (-126 : Int) else expo a
    let m := (roundEven (a / pow2 (e - 23))).toNat
    s + if m < 8388608 then m
        else if m < 16777216 then ((e + 127).toNat) * 8388608 + (m - 8388608)
        else ((e + 128).toNat) * 8388608

/-- A rational rounded to binary32. -/
def toF32 (q : Rat) : Rat := (f32Val (f32Bits q)).getD q

/-- The four bytes of an f32 field. -/
def f32le (q : Rat) : List Byte := le32 (f32Bits q)

/-! Sparse tables: sorted lists of index and value, an index that is not listed at the default. -/

/-- The entry at an index. -/
def tget {α : Type} (t : List (Nat × α)) (k : Nat) (d : α) : α :=
  match t with
  | [] => d
  | (i, v) :: r => if i = k then v else tget r k d

/-- The listed entry at an index. -/
def tfind {α : Type} (t : List (Nat × α)) (k : Nat) : Option α :=
  match t with
  | [] => none
  | (i, v) :: r => if i = k then some v else tfind r k

/-- The table without an index. -/
def tdel {α : Type} (t : List (Nat × α)) (k : Nat) : List (Nat × α) :=
  match t with
  | [] => []
  | (i, v) :: r => if i = k then tdel r k else (i, v) :: tdel r k

/-- The table with an index listed at a value, in rising order. -/
def tins {α : Type} (t : List (Nat × α)) (k : Nat) (v : α) : List (Nat × α) :=
  match t with
  | [] => [(k, v)]
  | (i, w) :: r => if k < i then (k, v) :: (i, w) :: r
                   else if i = k then (k, v) :: r else (i, w) :: tins r k v

/-- The table with an index set: an entry equal to the default is not listed. -/
def tset {α : Type} [DecidableEq α] (t : List (Nat × α)) (k : Nat) (v d : α) : List (Nat × α) :=
  if v = d then tdel t k else tins t k v

/-- The table with one entry changed by a function. -/
def tmod {α : Type} [DecidableEq α] (t : List (Nat × α)) (k : Nat) (d : α) (f : α → α) :
    List (Nat × α) := tset t k (f (tget t k d)) d

/-- The numbers `a`, `a + 1`, …, `n` of them. -/
def span (a n : Nat) : List Nat := (List.range n).map (a + ·)

/-- Sum of a list of integers. -/
def sumI (l : List Int) : Int := l.foldl (· + ·) 0

/-- Sum of a list of rationals. -/
def sumQ (l : List Rat) : Rat := l.foldl (· + ·) 0

/-- The first `n` entries with a new one in front: a history, newest first. -/
def push {α : Type} (n : Nat) (x : α) (l : List α) : List α := (x :: l).take n

/-- Replace the entries of a list that a test picks. -/
def mapIf {α : Type} (p : α → Bool) (f : α → α) (l : List α) : List α :=
  l.map fun x => if p x then f x else x

/-! Network order and the frame check sequence. -/

/-- A big-endian number. -/
def be (b : List Byte) : Nat := b.foldl (fun a x => a * 256 + x.toNat) 0

/-- A big-endian field of `n` bytes at an offset. -/
def beAt (b : List Byte) (i n : Nat) : Nat := be (slice b i n)

/-- The `n` big-endian bytes of a value. -/
def beBytes (n v : Nat) : List Byte := (leBytes n v).reverse

/-- One byte through the reflected CRC-32 of IEEE 802.3
(PRESUMED, log entry 12). -/
def crcByte (c : Nat) (b : Byte) : Nat :=
  (List.range 8).foldl (fun c _ => if c % 2 = 1 then (c / 2) ^^^ 0xEDB88320 else c / 2) (c ^^^ b.toNat)

/-- The CRC-32 of IEEE 802.3 (PRESUMED, log entry 12). -/
def crc32 (b : List Byte) : Nat := (b.foldl crcByte 0xFFFFFFFF) ^^^ 0xFFFFFFFF

/-- The one's-complement checksum of IPv4 and UDP over big-endian words
(PRESUMED, log entry 12). -/
def inetSum : List Byte → Nat → Nat
  | [], a => 65535 - (let f := a / 65536 + a % 65536; f / 65536 + f % 65536)
  | [x], a => inetSum [] (a + 256 * x.toNat)
  | x :: y :: r, a => inetSum r (a + 256 * x.toNat + y.toNat)

end Sys2Proof.Machine
end

