-- ==== Sys2Proof/Machine/Real.lean ====
section
/-! DEFINITION. The real functions that the manual's formulas take: roots, exponentials, logarithms and
angles. A value that is rational is exact. Any other is computed here to some 2⁻⁹⁰ of itself, and the
device holds it to within 2⁻⁶⁰ of itself, the rest being open (DESIGN CHOICE, log entry 8). -/

namespace Sys2Proof.Machine

/-- A real value of the manual's formulas as the device holds it: within 2⁻⁶⁰ of itself, the error open
(DESIGN CHOICE, log entry 8). -/
def held (name : String) (key : List Rat) (v : Rat) : Rat :=
  v + v * clampQ (-1) 1 (Config.of name key) / (2 : Rat) ^ 60

/-- A working value cut to 2⁻¹²⁸. -/
def fine (q : Rat) : Rat := ((q * (2 : Rat) ^ 128).floor : Rat) / (2 : Rat) ^ 128

/-- The sum of `n` terms of a power series: each term is the one before times `r k`. -/
def series (n : Nat) (t : Rat) (r : Nat → Rat) : Rat :=
  ((List.range n).foldl (fun (a : Rat × Rat) k => (a.1 + a.2, fine (a.2 * r k))) (0, t)).1

/-- The ratio of a circle's circumference to its diameter, to 50 decimals. -/
def piDec : Rat := 314159265358979323846264338327950288419716939937510 / 10 ^ 50

/-- The ratio of a circle's circumference to its diameter, as the device holds it
(DESIGN CHOICE, log entry 8). -/
def piQ : Rat := held "pi" [] piDec

/-! Roots. -/

/-- Integer square root, by the bits of the result. -/
def isqrt (n : Nat) : Nat :=
  (List.range (Nat.log2 n / 2 + 2)).reverse.foldl
    (fun r i => if (r + 2 ^ i) * (r + 2 ^ i) ≤ n then r + 2 ^ i else r) 0

/-- A square root to some 2⁻⁹⁰ of itself, from below. -/
def sqrtNear (q : Rat) : Rat :=
  let k : Nat := 100 + (Nat.log2 q.den - Nat.log2 q.num.toNat) / 2
  (isqrt (q * (4 : Rat) ^ k).floor.toNat : Rat) / (2 : Rat) ^ k

/-- A square root as a working value: exact where the operand is the square of a rational, else to some
2⁻⁹⁰ of itself. What is computed with it is held or rounded where it becomes a value of the machine
(DESIGN CHOICE, log entry 8). -/
def rootQ (q : Rat) : Rat :=
  let a := isqrt q.num.toNat
  let b := isqrt q.den
  if q ≤ 0 then 0
  else if a * a = q.num.toNat ∧ b * b = q.den then (a : Rat) / (b : Rat) else sqrtNear q

/-- A square root as the device holds it: exact where the operand is the square of a rational
(DESIGN CHOICE, log entry 8). -/
def sqrtQ (q : Rat) : Rat :=
  let r := rootQ q
  if r * r = q then r else held "sqrt" [q] r

/-! Exponentials and logarithms. -/

/-- The natural logarithm of a number from 1 to 2, by the series of the inverse hyperbolic tangent. -/
def lnUnit (m : Rat) : Rat :=
  let z := fine ((m - 1) / (m + 1))
  let z2 := fine (z * z)
  let t := (List.range 40).foldl (fun (a : Rat × Rat) k => (a.1 + a.2 / ((2 * k + 1 : Nat) : Rat), fine (a.2 * z2))) (0, z)
  2 * t.1

/-- The natural logarithm of a positive number. -/
def lnNear (q : Rat) : Rat :=
  let e := expo q
  lnUnit (q / pow2 e) + (e : Rat) * lnUnit 2

/-- The exponential of a number. -/
def expNear (x : Rat) : Rat :=
  let k := (x / lnUnit 2 + 1 / 2).floor
  let r := fine (x - (k : Rat) * lnUnit 2)
  series 30 1 (fun j => r / ((j + 1 : Nat) : Rat)) * pow2 k

/-- The natural exponential
(DESIGN CHOICE, log entry 8). -/
def expQ (x : Rat) : Rat := if x = 0 then 1 else held "exp" [x] (expNear (fine x))

/-- Two to a power
(DESIGN CHOICE, log entry 8). -/
def exp2 (q : Rat) : Rat := if q.den = 1 then pow2 q.num else held "exp2" [q] (expNear (fine (q * lnUnit 2)))

/-- A positive number to a power: exact for whole powers
(DESIGN CHOICE, log entry 8). -/
def powQ (b e : Rat) : Rat :=
  if b ≤ 0 then 0 else if b = 1 then 1
  else if e.den = 1 then (if 0 ≤ e.num then b ^ e.num.toNat else 1 / b ^ (-e.num).toNat)
  else held "power" [b, e] (expNear (fine (e * lnNear b)))

/-- Ten to a power: exact for whole powers. -/
def pow10 (e : Rat) : Rat := powQ 10 e

/-- The power of ten that a positive number is, where it is one. -/
def tenPower (q : Rat) : Option Int :=
  let k := ((lnNear q) / lnNear 10 + 1 / 2).floor
  if 0 ≤ k ∧ q = (10 : Rat) ^ k.toNat then some k
  else if k < 0 ∧ q * (10 : Rat) ^ (-k).toNat = 1 then some k else none

/-- The common logarithm of a positive number: exact for powers of ten
(DESIGN CHOICE, log entry 8). -/
def log10 (q : Rat) : Rat :=
  match tenPower q with
  | some k => (k : Rat)
  | none => held "log10" [q] (lnNear q / lnNear 10)

/-! Angles. -/

/-- Sine of a number of radians from −1 to 1, by its series. -/
def sinSmall (x : Rat) : Rat :=
  let x2 := fine (x * x)
  series 20 x fun k => -(x2 / (((2 * k + 2) * (2 * k + 3) : Nat) : Rat))

/-- Cosine of a number of radians from −1 to 1, by its series. -/
def cosSmall (x : Rat) : Rat :=
  let x2 := fine (x * x)
  series 20 1 fun k => -(x2 / (((2 * k + 1) * (2 * k + 2) : Nat) : Rat))

/-- Sine of an angle in half turns from 0 to 1/2, not held. -/
def sinQuarter (x : Rat) : Rat :=
  if x ≤ 1 / 4 then sinSmall (fine (piDec * x)) else cosSmall (fine (piDec * (1 / 2 - x)))

/-- Sine of an angle in half turns: π x. Multiples of a quarter turn and of 30° are exact
(DESIGN CHOICE, log entry 8). -/
def sinPi (x : Rat) : Rat :=
  let y := x - 2 * ((x / 2).floor : Rat)
  let s : Rat := if 1 ≤ y then -1 else 1
  let y := if 1 ≤ y then y - 1 else y
  let y := if 1 / 2 < y then 1 - y else y
  if y = 0 then 0 else if y = 1 / 2 then s else if y = 1 / 6 then s / 2
  else clampQ (-1) 1 (held "sin" [s * y] (s * sinQuarter y))

/-- Cosine of an angle in half turns. -/
def cosPi (x : Rat) : Rat := sinPi (x + 1 / 2)

/-- Sine of an angle in degrees. -/
def sinDeg (d : Rat) : Rat := sinPi (d / 180)
/-- Cosine of an angle in degrees. -/
def cosDeg (d : Rat) : Rat := cosPi (d / 180)

/-- Tangent of an angle in half turns below 1/2
(DESIGN CHOICE, log entry 8). -/
def tanPi (x : Rat) : Rat :=
  if x = 0 then 0 else if x = 1 / 4 then 1 else held "tan" [x] (sinQuarter x / sinQuarter (1 / 2 - x))

/-- Hyperbolic tangent
(DESIGN CHOICE, log entry 8). -/
def tanhQ (x : Rat) : Rat :=
  if x = 0 then 0
  else if 64 < absQ x then (if x < 0 then -1 else 1) * clampQ 0 1 (held "tanh" [x] (1 - 1 / (2 : Rat) ^ 90))
  else
    let e := expNear (fine (2 * x))
    clampQ (-1) 1 (held "tanh" [x] ((e - 1) / (e + 1)))

/-- Arc tangent of a number from −1/4 to 1/4 in radians, by its series. -/
def atanSmall (z : Rat) : Rat :=
  let z2 := fine (z * z)
  ((List.range 40).foldl (fun (a : Rat × Rat) k => (a.1 + a.2 / ((2 * k + 1 : Nat) : Rat), fine (-(a.2 * z2)))) (0, z)).1

/-- Arc tangent of a number from 0 to 1 in radians: the nearest of 0, 1/4, 1/2, 3/4, 1 is taken out. -/
def atanUnit (z : Rat) : Rat :=
  let less : Rat → Rat → Rat := fun a b => fine ((a - b) / (1 + a * b))
  let a1 := atanSmall (1 / 4)
  let a2 := a1 + atanSmall (less (1 / 2) (1 / 4))
  let a3 := a2 + atanSmall (less (3 / 4) (1 / 2))
  if z ≤ 1 / 8 then atanSmall (fine z) else if z ≤ 3 / 8 then a1 + atanSmall (less z (1 / 4))
  else if z ≤ 5 / 8 then a2 + atanSmall (less z (1 / 2)) else if z ≤ 7 / 8 then a3 + atanSmall (less z (3 / 4))
  else piDec / 4 + atanSmall (less z 1)

/-- The angle of the point (x, y) from the x axis towards the y axis, in degrees from −180 to 180:
exact on the axes and diagonals, 0 at the origin
(DESIGN CHOICE, log entry 8). -/
def atan2Deg (y x : Rat) : Rat :=
  let ax := absQ x
  let ay := absQ y
  let q : Rat :=
    if ay = 0 then 0 else if ax = 0 then 90 else if ax = ay then 45
    else held "atan" [ay / ax]
      (if ay < ax then 180 / piDec * atanUnit (ay / ax) else 90 - 180 / piDec * atanUnit (ax / ay))
  let q := if x < 0 then 180 - q else q
  if y < 0 then -q else q

/-! Spectra. -/

/-- A complex number. -/
abbrev Cx := Rat × Rat
/-- The product of two complex numbers. -/
def cmul (a b : Cx) : Cx := (a.1 * b.1 - a.2 * b.2, a.1 * b.2 + a.2 * b.1)
/-- The conjugate of a complex number. -/
def conj (a : Cx) : Cx := (a.1, -a.2)
/-- The squared magnitude of a complex number. -/
def cnorm (a : Cx) : Rat := a.1 * a.1 + a.2 * a.2
/-- A complex number at magnitude 1; 0 for 0. -/
def phaseOf (a : Cx) : Cx := if cnorm a = 0 then (0, 0) else let m := rootQ (cnorm a); (a.1 / m, a.2 / m)
/-- The unit number at an angle in turns. -/
def cis (x : Rat) : Cx := (cosPi (2 * x), sinPi (2 * x))

/-- Bin b of the transform of a list over m places. -/
def dft (m : Nat) (h : List Rat) (b : Nat) : Cx :=
  h.zipIdx.foldl (fun a p =>
    let w := cis (-(((b * p.2 : Nat) : Rat) / (m : Rat)))
    (a.1 + p.1 * w.1, a.2 + p.1 * w.2)) (0, 0)

/-- The real part of the inverse transform over m places at a place. -/
def idft (m : Nat) (z : Nat → Cx) (i : Rat) : Rat :=
  sumQ ((List.range m).map fun b => (cmul (z b) (cis ((b : Rat) * i / (m : Rat)))).1) / (m : Rat)

/-! Results in binary32, and levels. -/

/-- A result that the gain solver computes in binary32 in an order of operations that the manual does not
give (R156): a binary32 number within 2⁻²⁰ of the exact value, the same for the same value; 0 and 1 are
exact (DESIGN CHOICE, log entry 11). -/
def f32Solved (q : Rat) : Rat :=
  if q = 0 ∨ q = 1 then q else toF32 (q + q * clampQ (-1) 1 (Config.of "f32Solved" [q]) / (2 : Rat) ^ 20)

/-- Amplitude of a cdb value (R47): 10 to the power v/2000, zero at −32 768. -/
def amp (v : Int) : Rat := if v = -32768 then 0 else pow10 ((v : Rat) / 2000)

/-- A linear gain as a cdb number: hundredths of a decibel, an exact one as it is, any other one of its two
neighbours (DESIGN CHOICE, log entry 11). -/
def cdbOf (g : Rat) : Int :=
  if g ≤ 0 then -32768
  else
    let v := 2000 * log10 g
    if v.den = 1 then v.num else if Config.of "cdbUp" [g] < 0 then v.floor else v.floor + 1

end Sys2Proof.Machine
end

