-- ==== Sys2Proof/Machine/State.lean ====
section
/-! DEFINITION. The state of the module as plain data: every register, ring, store, table and
counter the spec gives it, the queue of waiting commands, and the state right after reset. A
field's docstring names the rule of the spec that gives it. -/

namespace Sys2Proof.Machine

/-- Why a step can stop with a fault. The spec gives every command an effect, so there is no reason. -/
inductive Fault
deriving DecidableEq, Repr

/-- Why a step can refuse a command. -/
inductive Refusal where
  /-- Raised by an arm of `exec` whose command has no meaning yet. Safe: nothing is claimed. -/
  | notModelled (mnemonic : String)
deriving DecidableEq, Repr

/-- A linear trajectory of R517: from a value to a value, by equal steps from sample `first`. -/
structure Ramp where
  /-- value before step 0 (R517). -/
  start : Rat := 0
  /-- value from the last step on (R517). -/
  target : Rat := 0
  /-- sample of step 0 (R517). -/
  first : Nat := 0
  /-- number of steps L (R517). -/
  len : Nat := 0
deriving DecidableEq, Repr, Inhabited

/-- A timed point of a trajectory (R123). -/
structure Point where
  /-- position (R123). -/
  pos : V3 := {}
  /-- time of validity (R123). -/
  t : Nat := 0
  /-- JUMP flag (R124). -/
  jump : Bool := false
deriving DecidableEq, Repr, Inhabited

/-- A selection change that waits behind a fade (R267). -/
structure SelChange where
  /-- source reference (R267). -/
  src : Nat := 0
  /-- its own fade length (R267). -/
  len : Nat := 0
  /-- identity of the command that waits (0 for none) (R267). -/
  seq : Nat := 0
deriving DecidableEq, Repr, Inhabited

/-- A selection point of the signal graph (R258), with its cross-fade (R265). -/
structure Sel where
  /-- source in force (or fading in); none after reset (R262) (R258). -/
  src : Nat := 0
  /-- source fading out (R265). -/
  old : Nat := 0
  /-- sample of fade step 0 (R265). -/
  first : Nat := 0
  /-- fade length, 0 when steady (R265). -/
  len : Nat := 0
  /-- effect sample of the change in progress (R266). -/
  eff : Option Nat := none
  /-- the one waiting change (R267). -/
  waiting : Option SelChange := none
deriving DecidableEq, Repr, Inhabited

/-- A completion record of R64. -/
structure Completion where
  /-- tag (R64). -/
  tag : Nat := 0
  /-- opcode (R64). -/
  opcode : Nat := 0
  /-- status (R64). -/
  status : Nat := 0
  /-- slot (R64). -/
  slot : Nat := 0
  /-- 0 final, 1 interim (R64). -/
  kind : Nat := 0
  /-- resp_len (R64). -/
  respLen : Nat := 0
  /-- detail (R64). -/
  detail : Nat := 0
  /-- applied_at (R64). -/
  appliedAt : Nat := 0
  /-- seq (R64). -/
  seq : Nat := 0
  /-- leaf (R64). -/
  leaf : Nat := 0
deriving DecidableEq, Repr, Inhabited

/-- An event record of R67; the payload is its bytes from offset 32 on. -/
structure Event where
  /-- event code (R67). -/
  code : Nat := 0
  /-- severity (R67). -/
  severity : Nat := 0
  /-- leaf (R67). -/
  leaf : Nat := 0
  /-- autonomy mode or 0xFF (R67). -/
  autonomy : Nat := 255
  /-- [0] ACTED, [1] CLEARED (R67). -/
  flags : Nat := 0
  /-- seq (R67). -/
  seq : Nat := 0
  /-- tag of the causing command (R67). -/
  tag : Nat := 0
  /-- time (R67). -/
  time : Nat := 0
  /-- subject, 0xFFFF_FFFF for none (R67). -/
  subject : Nat := 4294967295
  /-- payload bytes (R67). -/
  payload : List Byte := []
deriving DecidableEq, Repr, Inhabited

/-- A final completion that waits for a ring entry (R51), with the response its slot takes. -/
structure Waiting where
  /-- the record to post (R51). -/
  record : Completion := {}
  /-- response bytes for the slot (R50). -/
  resp : List Byte := []
  /-- its posting frees the slot (R50). -/
  release : Bool := false
  /-- acceptance number of its command (R49). -/
  acc : Nat := 0
  /-- target of its command, for the trace (R48). -/
  unit : Nat := 0
deriving DecidableEq, Repr, Inhabited

/-- A validated command that waits for its effect sample, or for a device condition (R55, R58, R66). -/
structure Pend where
  /-- the command (R55). -/
  cmd : Cmd := {}
  /-- media-clock count of its effect sample; 0 for the next meridian (R55). -/
  count : Nat := 0
  /-- interim posted, slot released (R55). -/
  released : Bool := false
  /-- validated before the previous keystone pass ended (R88). -/
  prepared : Bool := false
  /-- its sample had passed at validation (R59). -/
  late : Bool := false
  /-- the transfer that ran at validation (R312). -/
  data : List Byte := []
deriving DecidableEq, Repr, Inhabited

/-- A once-per-interval report of R519, kept while an interval runs. -/
structure Rep where
  /-- its severity (R67). -/
  sev : Nat := 0
  /-- payload bytes before the count (R67). -/
  front : List Byte := []
  /-- width of the count (R67). -/
  width : Nat := 4
  /-- width of a second count (R67). -/
  width2 : Nat := 0
  /-- a second count since the previous report (R519). -/
  count2 : Nat := 0
  /-- payload bytes behind the count (R67). -/
  extra : List Byte := []
  /-- event code (R519). -/
  code : Nat := 0
  /-- subject (R519). -/
  subject : Nat := 0
  /-- what else the interval is kept for: an address, a master or a leaf (R519). -/
  key : Nat := 0
  /-- cases since the previous report (R519). -/
  count : Nat := 0
  /-- the payload is the first counted case's, not the latest one's (R109). -/
  keep : Bool := false
  /-- leaf whose time the interval runs on (R519). -/
  clock : LeafId := .a
  /-- that leaf's cycles at the previous report (R519). -/
  last : Nat := 0
  /-- its autonomy byte (R67). -/
  autonomy : Nat := 255
  /-- its flags (R67). -/
  flags : Nat := 0
  /-- the interval, one second unless the event's rule gives another (R519). -/
  every : Nat := 1600000000
deriving DecidableEq, Repr, Inhabited

/-- The transfer references of one command on a bulk channel (R79). -/
structure DmaJob where
  /-- the command (R79). -/
  cmd : Cmd := {}
  /-- references not yet finished, the one in transfer first (R78). -/
  refs : List XferRef := []
  /-- bytes received so far (R78). -/
  data : List Byte := []
  /-- bytes still to write to the host (R78). -/
  out : List Byte := []
  /-- direction (R78). -/
  toHost : Bool := false
  /-- detail its completion will carry (R64). -/
  detail : Nat := 0
deriving DecidableEq, Repr, Inhabited

/-- A pending position commit (R72). -/
structure PosCommit where
  /-- buffer (R72). -/
  buf : Nat := 0
  /-- time at which it reached the plinth (R74). -/
  time : Nat := 0
  /-- latest apply_at of the commits that stand before it (R73). -/
  after : Nat := 0
deriving DecidableEq, Repr, Inhabited

/-- The queues, rings and buffers behind one function's registers. -/
structure Mail where
  /-- slots, position buffers and headers, byte addressed (R46). -/
  win : List Host.Cell := []
  /-- MSI-X table bytes (R40). -/
  msix : List Host.Cell := []
  /-- MSI-X pending bits (R40). -/
  pba : BitVec 16 := 0
  /-- completion ring (R46). -/
  cq : List (Nat × Completion) := []
  /-- event ring (R46). -/
  eq : List (Nat × Event) := []
  /-- accepted commands not yet validated, in acceptance order (R49). -/
  accepted : List Cmd := []
  /-- validated commands that wait (R60). -/
  queued : List Pend := []
  /-- completions that wait for the ring (R51). -/
  waiting : List Waiting := []
  /-- acceptance number of the fenced command in progress (R54). -/
  fence : Option Nat := none
  /-- next completion sequence number (R64). -/
  seqC : Nat := 0
  /-- next event sequence number (R67). -/
  seqE : Nat := 0
  /-- commands accepted up to here complete with REPLAYED (R39). -/
  replay : Nat := 0
  /-- acceptance numbers of commands that took effect late and have not completed (R59). -/
  late : List Nat := []
  /-- commands accepted up to here get no completion any more (R33). -/
  floor : Nat := 0
  /-- acceptance number of the latest command (R49). -/
  accNo : Nat := 0
  /-- events discarded since the previous EVENTS_LOST (R69). -/
  lostSince : Nat := 0
  /-- seq of the first of them (R69). -/
  lostFirst : Nat := 0
  /-- the host has freed an entry since a discard (R68). -/
  lostDue : Bool := false
  /-- records posted since the last message (R43). -/
  unsignalled : Nat := 0
  /-- moderation delay running (R43). -/
  modRun : Bool := false
  /-- the unsignalled records hold a completion (R44). -/
  modCq : Bool := false
  /-- the unsignalled records hold an event (R44). -/
  modEq : Bool := false
  /-- running report intervals (R519). -/
  reps : List Rep := []
  /-- pending commits in commit order (R73). -/
  posQ : List PosCommit := []
  /-- the bulk channel, the one in transfer first (R79). -/
  dma : List DmaJob := []
  /-- DMA_STATUS.HALTED (R82). -/
  halted : Bool := false
  /-- Bus Master Enable (R31). -/
  bme : Bool := false
  /-- D3hot (R32). -/
  d3 : Bool := false
deriving DecidableEq, Repr, Inhabited

/-- The mailbox hardware of one PCIe function (R40 to R46). -/
structure Fn where
  /-- SYS_CAPS completed since reset (R3). -/
  capsDone : Bool := false
  /-- TB_SNAP_HI (R42). -/
  tbHi : Nat := 0
  /-- TB_SNAP_LO as last returned (R42). -/
  tbLo : Nat := 0
  /-- TICK_SNAP (R42). -/
  tick : Nat := 0
  /-- SLOT_BUSY (R42). -/
  busy : BitVec 32 := 0
  /-- DB_ERR [3:0] (R42). -/
  dbErr : BitVec 4 := 0
  /-- DB_ERR.LAST_SLOT (R42). -/
  lastSlot : Nat := 0
  /-- CQ_PROD (R42). -/
  cqProd : Nat := 0
  /-- CQ_CONS (R42). -/
  cqCons : Nat := 0
  /-- EQ_PROD (R42). -/
  eqProd : Nat := 0
  /-- EQ_CONS (R42). -/
  eqCons : Nat := 0
  /-- EQ_LOST (R42). -/
  eqLost : Nat := 0
  /-- POS_STATUS.LAST_BUF (R43). -/
  lastBuf : Nat := 0
  /-- POS_STATUS.LATE_LAST (R43). -/
  lateLast : Bool := false
  /-- POS_STATUS.APPLIED (R43). -/
  applied : Nat := 0
  /-- INT_STATUS (R43). -/
  intStatus : BitVec 8 := 0
  /-- INT_MASK (R43). -/
  intMask : BitVec 8 := 255
  /-- INT_VECTOR (R43). -/
  intVector : BitVec 32 := 0
  /-- INT_MODERATE.DELAY (R43). -/
  modDelay : Nat := 0
  /-- INT_MODERATE.COUNT (R43). -/
  modCount : Nat := 0
  /-- the command, ring and transfer state (R46). -/
  mail : Mail := {}
deriving DecidableEq, Repr, Inhabited

/-- A rendering of one object: mode, array segment and bulk delay. -/
structure ObjRend where
  /-- 0 hull, 1 spread, 2 wavefront (R119). -/
  mode : Nat := 0
  /-- array segment (R119). -/
  segment : Nat := 0
  /-- bulk delay D (R119). -/
  bulk : Nat := 0
deriving DecidableEq, Repr, Inhabited

/-- One decorrelator section (R165). -/
structure Allpass where
  /-- inputs, newest first (R165). -/
  xs : List Int := []
  /-- outputs, newest first (R165). -/
  ys : List Int := []
deriving DecidableEq, Repr, Inhabited

/-- One wavefront pair (R166 to R171). -/
structure WavePair where
  /-- speaker (R166). -/
  speaker : Nat := 0
  /-- rendered delay (R170). -/
  delay : Rat := 0
  /-- glide per sample (R170). -/
  step : Rat := 0
  /-- target delay, held in limits (R167). -/
  target : Rat := 0
  /-- unclamped target delay (R168). -/
  raw : Rat := 0
  /-- amplitude (R169). -/
  amp : Ramp := {}
  /-- sample from which a dip's delay holds and its amplitude rises, 0 for none (R171). -/
  dipAt : Nat := 0
  /-- amplitude to which a dip rises (R171). -/
  dipAmp : Rat := 0
  /-- steps of that rise (R171). -/
  dipLen : Nat := 0
  /-- first sample of the glide (R88). -/
  from_ : Nat := 0
  /-- its member was removed (R152). -/
  gone : Bool := false
deriving DecidableEq, Repr, Inhabited

/-- One running rendering of an object or a cluster. -/
structure Rendering where
  /-- mode, segment, bulk delay (R119). -/
  rend : ObjRend := {}
  /-- low-pass output of the previous sample (R162). -/
  lp : Int := 0
  /-- render inputs, newest first (R120). -/
  xs : List Int := []
  /-- source line of a wavefront rendering, newest first (R166). -/
  line : List Int := []
  /-- hull gains by speaker (R153). -/
  gains : List (Nat × Ramp) := []
  /-- virtual sources of a spread rendering with their gains (R164). -/
  srcs : List (List (Nat × Ramp)) := []
  /-- decorrelator sections, key 4k + j (R165). -/
  decor : List (Nat × Allpass) := []
  /-- wavefront pairs (R166). -/
  pairs : List WavePair := []
  /-- virtual sources that the latest solve placed (R164). -/
  vs : Nat := 0
  /-- focused wavefront object (R167). -/
  focused : Bool := false
  /-- it has not been solved yet (R153). -/
  fresh : Bool := true
  /-- a block that begins at this sample or before it is skipped (R154). -/
  skip : Nat := 0
deriving DecidableEq, Repr, Inhabited

/-- An object's mode cross-fade in progress (R122). -/
structure ObjXfade where
  /-- the rendering it fades out of (R122). -/
  old : Rendering := {}
  /-- weight of the new rendering (R122). -/
  level : Ramp := {}
deriving DecidableEq, Repr, Inhabited

/-- One place an object is rendered in during a fold fade (R135). -/
structure Placement where
  /-- 0 its own rendering, else a cluster's identity (R135). -/
  cid : Nat := 0
  /-- weight (R135). -/
  level : Ramp := {}
deriving DecidableEq, Repr, Inhabited

/-- The settings of an object that `OBJ_CONFIG` makes (R119). -/
structure ObjSet where
  /-- priority (R119). -/
  priority : Nat := 128
  /-- gain (R119). -/
  gain : Int := 0
  /-- gain ramp length (R119). -/
  gainRamp : Nat := 64
  /-- cross-fade length (R119). -/
  xfade : Nat := 64
  /-- NO_FOLD, NO_DOPPLER, DIST_GAIN, AIR_ABS, NEAR_FIELD, DYN (R119). -/
  flags : Nat := 0
  /-- dynamics threshold (R119). -/
  dynThr : Int := -2000
  /-- dynamics ratio (R119). -/
  dynRatio : Nat := 400
  /-- dynamics attack (R119). -/
  dynAttack : Nat := 500
  /-- dynamics release (R119). -/
  dynRelease : Nat := 200
deriving DecidableEq, Repr, Inhabited

/-- Signal and solver state of one object. -/
structure ObjRun where
  /-- settings that course work still uses up to a sample, after an unprepared change (R88). -/
  held : Option (Nat × ObjSet) := none
  /-- the trajectory, as anchor and points, that course work still uses up to a sample (R88). -/
  heldT : Option (Nat × Point × List Point) := none
  /-- last direction beyond 1 mm, +y at creation (R126). -/
  dir : V3 := { y := 1 }
  /-- enable fade level (R144). -/
  fade : Ramp := {}
  /-- gain ramp in amplitude (R121). -/
  gainR : Ramp := { start := 1, target := 1 }
  /-- spread ramp in degrees (R121). -/
  spreadR : Ramp := {}
  /-- the rendering in force (R120). -/
  cur : Rendering := {}
  /-- mode cross-fade in progress (R122). -/
  xf : Option ObjXfade := none
  /-- the one waiting change (R122). -/
  change : Option ObjRend := none
  /-- placements; empty for its own rendering alone (R135). -/
  places : List Placement := []
  /-- source samples, newest first (R120). -/
  hist : List Int := []
  /-- air coefficient b (R162). -/
  air : Ramp := {}
  /-- distance gain ramp of a jump or of RND_CONFIG (R163). -/
  dist : Ramp := { start := 1, target := 1 }
  /-- first sample that follows the position again (R163). -/
  distOn : Nat := 0
  /-- dynamics detector (R187). -/
  det : Rat := 0
  /-- detector input of the latest sample, which the course work of the next one takes (R188). -/
  detX : Option Int := none
  /-- dynamics gain (R187). -/
  dynGain : Rat := 1
  /-- render input of the latest sample (R120). -/
  xo : Int := 0
  /-- the preceding 1 024 render inputs (R134). -/
  energy : List Int := []
  /-- muted after a takeover (R137). -/
  muted : Bool := false
  /-- ADM map that owns it (R138). -/
  adm : Option Nat := none
  /-- base of the bed it belongs to (R128). -/
  bed : Option Nat := none
  /-- LFE channel (R129). -/
  lfe : Bool := false
  /-- an overflow member: the assigned unit that it joined (R139). -/
  joins : Option Nat := none
  /-- trajectory position at the latest gain-solver block (R232). -/
  seat : V3 := {}
  /-- position offset of its voice group's lead voice (R237). -/
  off : V3 := {}
deriving DecidableEq, Repr, Inhabited

/-- One render object (R119), every parameter at its default. -/
structure Obj where
  /-- enabled (R119). -/
  enabled : Bool := false
  /-- settings (R119). -/
  set : ObjSet := {}
  /-- mode 0, segment 0, bulk delay 0 (R119). -/
  rend : ObjRend := {}
  /-- spread (R119). -/
  spread : Rat := 0
  /-- anchor point (0, 2, 0) (R119). -/
  anchor : Point := { pos := { y := 2 } }
  /-- pending points by time (R123). -/
  points : List Point := []
  /-- its source (R258). -/
  sel : Sel := {}
  /-- signal and solver state (R120). -/
  run : ObjRun := {}
deriving DecidableEq, Repr, Inhabited

/-- A channel bed (R128). -/
structure Bed where
  /-- first object (R128). -/
  base : Nat := 0
  /-- code 1 to 7 (R128). -/
  system : Nat := 0
  /-- sample at which its removal fade ends (R144). -/
  removing : Option Nat := none
deriving DecidableEq, Repr, Inhabited

/-- One ADM map (R138, R144). -/
structure AdmMap where
  /-- metadata stream (R144). -/
  metaS : Nat := 0
  /-- audio stream (R144). -/
  audio : Nat := 0
  /-- first object (R144). -/
  base : Nat := 0
  /-- objects (R144). -/
  count : Nat := 0
  /-- base priority (R144). -/
  basePrio : Nat := 0
  /-- hull or spread (R144). -/
  mode : Nat := 0
  /-- assignment fade (R144). -/
  fade : Nat := 16
  /-- ADM object to device object (R139). -/
  assigned : List (Nat × Nat) := []
  /-- overflow members: ADM object to an object numbered from 1 024 on, without a slot (R139). -/
  overflow : List (Nat × Nat) := []
  /-- ADM objects already reported unmapped (R139). -/
  reported : List Nat := []
deriving DecidableEq, Repr, Inhabited

/-- A fold cluster (R131, R134). -/
structure Cluster where
  /-- identity (R133). -/
  cid : Nat := 0
  /-- its highest-ranked member (R130). -/
  host : Nat := 0
  /-- members, the host included (R133). -/
  members : List Nat := []
  /-- centroid (R134). -/
  pos : V3 := {}
  /-- last direction beyond 1 mm (R126). -/
  dir : V3 := { y := 1 }
  /-- spread (R134). -/
  spread : Rat := 0
  /-- its rendering (R131). -/
  render : Rendering := {}
  /-- part of the membership in force (R135). -/
  live : Bool := true
deriving DecidableEq, Repr, Inhabited

/-- The objects, beds, folding and ADM state of a scene (chapter 05). -/
structure SceneObjs where
  /-- objects that differ from the default (R117). -/
  objs : List (Nat × Obj) := []
  /-- beds (R118). -/
  beds : List Bed := []
  /-- ADM maps (R118). -/
  maps : List (Nat × AdmMap) := []
  /-- identity of the next cluster (R133). -/
  nextCid : Nat := 1
  /-- clusters in force (R133). -/
  clusters : List Cluster := []
  /-- slot limit S; none for the default, the capacity (R144). -/
  slotLimit : Option Nat := none
  /-- fold mode (R144). -/
  foldMode : Nat := 2
  /-- fold span (R144). -/
  foldSpan : Nat := 64
  /-- fold fade (R144). -/
  foldFade : Nat := 256
  /-- bed radius (R144). -/
  bedRadius : Rat := 2
  /-- ADM radius (R144). -/
  admRadius : Rat := 2
  /-- ADM half extent x (R144). -/
  admX : Rat := 2
  /-- ADM half extent y (R144). -/
  admY : Rat := 2
  /-- ADM half extent z (R144). -/
  admZ : Rat := 2
  /-- first sample of the latest block solved (R153). -/
  solved : Option Nat := none
  /-- after an unprepared SCN_CLEAR without a fade: the sample that still sounds as before, with its objects and clusters (R143). -/
  ghost : Option (Nat × List (Nat × Obj) × List Cluster) := none
  /-- SCN_CLEAR in progress: first sample and sample of the return (R143). -/
  clearing : Option (Nat × Nat) := none
deriving DecidableEq, Repr, Inhabited

/-- One speaker of a layout (R146). -/
structure Speaker where
  /-- 0 absent, 1 full-range, 2 low-frequency (R146). -/
  kind : Nat := 0
  /-- position (R146). -/
  pos : V3 := {}
  /-- orientation as written (R146). -/
  orient : V3 := {}
deriving DecidableEq, Repr, Inhabited

/-- One array segment (R148). -/
structure Segment where
  /-- ordered list; none for a position not written (R148). -/
  members : List (Option Nat) := []
  /-- reference distance (R148). -/
  dRef : Rat := 0
  /-- taper fraction (R148). -/
  taper : Nat := 100
  /-- delay slew bound (R148). -/
  slew : Nat := 128
  /-- 0 power, 1 amplitude (R148). -/
  norm : Nat := 0
deriving DecidableEq, Repr, Inhabited

/-- Speakers and segments: the layout in force or the edit buffer (R147). -/
structure Layout where
  /-- speakers (R147). -/
  speakers : List (Nat × Speaker) := []
  /-- segments (R147). -/
  segments : List (Nat × Segment) := []
deriving DecidableEq, Repr, Inhabited

/-- The hull built at a commit (R150). -/
structure Hull where
  /-- 0 no layout, 2 and 3 dimensions coded 1 and 2 (R175). -/
  dim : Nat := 0
  /-- virtual speakers (R175). -/
  vmask : Nat := 0
  /-- triangles or ring pairs, vertices ascending; virtual vertex v is 1024 + v (R150). -/
  faces : List (List Nat) := []
  /-- real hull vertices (R150). -/
  verts : List Nat := []
deriving DecidableEq, Repr, Inhabited

/-- Layout, hull and rendering parameters of a scene (chapter 06). -/
structure SceneRend where
  /-- layout in force (R147). -/
  lay : Layout := {}
  /-- edit buffer (R147). -/
  edit : Layout := {}
  /-- hull in force (R150). -/
  hull : Hull := {}
  /-- commits since reset (R175). -/
  generation : Nat := 0
  /-- edit buffers taken by commits in validation, by acceptance number (R151). -/
  staged : List (Nat × Layout) := []
  /-- c (R175). -/
  soundSpeed : Rat := 343
  /-- r_ref (R175). -/
  rRef : Rat := 2
  /-- k (R175). -/
  law : Rat := 1
  /-- r_nf (R175). -/
  rNf : Rat := 1
  /-- r_air (R175). -/
  rAir : Rat := 20
deriving DecidableEq, Repr, Inhabited

/-- One filter set of a bank: 16 biquad sections and the taps (R197). -/
structure FilterSet where
  /-- b0 b1 b2 a1 a2 of each section; none is pass-through (R180). -/
  secs : List (List Int) := []
  /-- taps; one tap of 1.0 (R179). -/
  taps : List Int := [4194304]
deriving DecidableEq, Repr, Inhabited

/-- One coefficient bank (R190). -/
structure Bank where
  /-- 0 empty, 1 loading, 2 ready, 3 fading in, 4 installed (R190). -/
  state : Nat := 0
  /-- one set for all feeds (R190). -/
  shared : Bool := false
  /-- FIR length (R190). -/
  n : Nat := 0
  /-- shift s (R190). -/
  shift : Nat := 0
  /-- declared group delay (R190). -/
  g : Nat := 0
  /-- feed list (R190). -/
  feeds : List Nat := []
  /-- filter sets (R190). -/
  sets : List FilterSet := []
  /-- taps of a load under way (R191). -/
  loading : Nat := 0
  /-- a ready bank is being loaded again (R197). -/
  wasReady : Bool := false
  /-- held by a calibration run (R207). -/
  run : Bool := false
  /-- owner of its ashlar rows: 0 none, they are free in the reserve, 1 the bulk-transfer engine, 2 the courses (R192). -/
  rows : Nat := 0
deriving DecidableEq, Repr, Inhabited

/-- State of one biquad section (R180). -/
structure Bq where
  /-- x at n - 1 (R180). -/
  x1 : Int := 0
  /-- x at n - 2 (R180). -/
  x2 : Int := 0
  /-- y at n - 1 (R180). -/
  y1 : Int := 0
  /-- y at n - 2 (R180). -/
  y2 : Int := 0
deriving DecidableEq, Repr, Inhabited

/-- One filter path of a feed (R182). -/
structure Path where
  /-- bank, 0xFF for pass-through (R197). -/
  bank : Nat := 255
  /-- declared group delay in force (R178). -/
  g : Nat := 0
  /-- FIR shift (R179). -/
  shift : Nat := 0
  /-- filters; pass-through (R178). -/
  set : FilterSet := {}
  /-- section states (R180). -/
  bqs : List Bq := []
  /-- alignment delay line, newest first (R183). -/
  line : List Int := []
  /-- equalisation pad p (R185). -/
  pad : Nat := 0
  /-- p + a as rendered, or faded to (R184). -/
  d : Nat := 0
  /-- p + a that a delay fade fades from (R184). -/
  dOld : Nat := 0
deriving DecidableEq, Repr, Inhabited

/-- A swap fade in progress on a bank's feeds (R193 to R195). -/
structure SwapFade where
  /-- bank (R193). -/
  bank : Nat := 0
  /-- 0 install, 1 release (R193). -/
  op : Nat := 0
  /-- 0 linear, 1 equal-power (R194). -/
  curve : Nat := 0
  /-- first fade step (R193). -/
  first : Nat := 0
  /-- L (R193). -/
  len : Nat := 0
  /-- feeds that change filter (R193). -/
  feeds : List Nat := []
  /-- tag of the command (R198). -/
  tag : Nat := 0
  /-- the queued swap (R195). -/
  waiting : Option Pend := none
deriving DecidableEq, Repr, Inhabited

/-- A delay fade of one feed (R184). -/
structure DelayFade where
  /-- weight of the new read (R184). -/
  level : Ramp := {}
  /-- a further change waits (R184). -/
  waiting : Bool := false
deriving DecidableEq, Repr, Inhabited

/-- The settings of a feed that `OUT_FEED_CONFIG` makes (R178, R197). -/
structure FeedSet where
  /-- host alignment a (R178). -/
  align : Nat := 0
  /-- delay fade length (R178). -/
  delayFade : Nat := 64
  /-- dither mode (R178). -/
  dither : Nat := 1
  /-- compressor off (R178). -/
  compMode : Nat := 0
  /-- T_c (R197). -/
  compThr : Int := -2000
  /-- ratio (R197). -/
  compRatio : Nat := 400
  /-- knee (R197). -/
  compKnee : Nat := 0
  /-- attack (R197). -/
  compAttack : Nat := 500
  /-- release (R197). -/
  compRelease : Nat := 200
  /-- link group (R197). -/
  compLink : Nat := 0
  /-- limiter threshold T (R178). -/
  limThr : Int := -10
  /-- limiter release (R178). -/
  limRelease : Nat := 50
  /-- slew limiter off (R178). -/
  slewStep : Nat := 0
  /-- slew interval (R197). -/
  slewInt : Nat := 1
deriving DecidableEq, Repr, Inhabited

/-- Signal state of one feed's chain. -/
structure FeedRun where
  /-- settings that course work still uses up to a sample (R88). -/
  held : Option (Nat × FeedSet) := none
  /-- path in force (R177). -/
  path : Path := {}
  /-- new path of a swap fade (R182). -/
  next : Option Path := none
  /-- chain inputs, newest first (R518). -/
  uHist : List Int := []
  /-- delay fade (R184). -/
  delayF : Option DelayFade := none
  /-- tracking offset as rendered (R184). -/
  glide : Ramp := {}
  /-- compressor detector held at 0 while off (R187). -/
  det : Rat := 0
  /-- compressor gain (R187). -/
  compGain : Rat := 1
  /-- limiter smoothed gain (R111). -/
  s : Rat := 1
  /-- slew state (R189). -/
  z : Int := 0
  /-- latest sample was slew-limited (R197). -/
  slewed : Bool := false
  /-- sample whose slew update has been taken (R189). -/
  slewedAt : Option Nat := none
  /-- finished sample (R177). -/
  out : Int := 0
  /-- finished samples of the tracking window, newest first (R214). -/
  past : List Int := []
  /-- compressor input and limiter gain of the latest sample, which the course work of the next one takes into the detector and the smoothed gain (R187). -/
  seen : Option (Int × Rat) := none
  /-- place of the dither generator in its sequence since it was seeded (R115). -/
  dithers : Nat := 0
  /-- fade-in after a course restart (R442). -/
  mute : Ramp := { start := 1, target := 1 }
  /-- consecutive poisoned samples (R443). -/
  poison : Nat := 0
  /-- cross-fade back after poison (R443). -/
  clean : Ramp := { start := 1, target := 1 }
  /-- held value under poison (R443). -/
  heldOut : Int := 0
deriving DecidableEq, Repr, Inhabited

/-- One speaker feed (R177). -/
structure Feed where
  /-- settings (R178). -/
  set : FeedSet := {}
  /-- tracking offset t (R183). -/
  track : Int := 0
  /-- signal state (R177). -/
  run : FeedRun := {}
deriving DecidableEq, Repr, Inhabited

/-- The output chain and coefficient banks of a scene (chapter 07). -/
structure SceneOut where
  /-- feeds that differ from the default (R178). -/
  feeds : List (Nat × Feed) := []
  /-- banks that are not empty (R190). -/
  banks : List (Nat × Bank) := []
  /-- swap reserve (R178). -/
  q : Nat := 0
  /-- equalisation floor (R178). -/
  eFloor : Nat := 0
  /-- equalised total delay (R185). -/
  e : Nat := 0
  /-- swap fades in progress (R193). -/
  fades : List SwapFade := []
deriving DecidableEq, Repr, Inhabited

/-- One time base (R343). -/
structure TimeBase where
  /-- its time (R343). -/
  t : Nat := 0
  /-- frequency correction in force (R343). -/
  y : Int := 0
  /-- integral term, the held frequency (R350). -/
  yI : Int := 0
  /-- code of R344 (R344). -/
  state : Nat := 3
  /-- 0 free-running, 1 PTP, 2 word clock (R372). -/
  source : Nat := 0
  /-- Ethernet port (R372). -/
  port : Nat := 0
  /-- PTP domain (R372). -/
  domain : Nat := 0
  /-- profile (R372). -/
  profile : Nat := 0
  /-- slave-only (R347). -/
  role : Nat := 0
  /-- delay mechanism (R372). -/
  mech : Nat := 0
  /-- two-step, IEEE 802.3 (R372). -/
  flags : Nat := 0
  /-- priority1 (R372). -/
  prio1 : Nat := 128
  /-- priority2 (R372). -/
  prio2 : Nat := 128
  /-- clockClass announced (R372). -/
  clockClass : Nat := 248
  /-- announce timeout, 0x7F the profile's (R372). -/
  annTimeout : Nat := 127
  /-- log announce interval (R372). -/
  logAnn : Int := 127
  /-- log sync interval (R372). -/
  logSync : Int := 127
  /-- log delay-request interval (R372). -/
  logDelay : Int := 127
  /-- nominal word-clock rate code (R359). -/
  wcRate : Nat := 0
  /-- time base that gives the time of day (R359). -/
  epoch : Nat := 255
  /-- asymmetry (R349). -/
  asym : Int := 0
  /-- re-acquisition policy (R355). -/
  policy : Nat := 2
  /-- loop bandwidth B (R372). -/
  bw : Rat := 1 / 10
  /-- jump threshold (R351). -/
  jump : Nat := 10000
  /-- lock window (R352). -/
  window : Nat := 1000
  /-- slew rate s (R357). -/
  slew : Nat := 10000
  /-- acquiring from a reset or a change of source (R346). -/
  acquiring : Bool := true
  /-- no sample since a reset or a change of source (R346). -/
  fresh : Bool := true
  /-- twin mode: a journalled decision, its action, offset in ns and media-clock count (R358). -/
  plan : Option (Nat × Rat × Nat) := none
  /-- consecutive refusals (R351). -/
  run : Nat := 0
  /-- consecutive accepted samples within the lock window (R352). -/
  inRun : Nat := 0
  /-- consecutive accepted samples beyond it (R352). -/
  outRun : Nat := 0
  /-- consecutive samples within the threshold while a discontinuity is pending (R355). -/
  thrRun : Nat := 0
  /-- discontinuity pending (R355). -/
  pending : Bool := false
  /-- the decision is due at the next meridian (R355). -/
  due : Bool := false
  /-- slewing (R357). -/
  slewing : Bool := false
  /-- the offset still to slew (R357). -/
  rem : Rat := 0
  /-- word-clock rate change (R361). -/
  rateChange : Bool := false
  /-- latest offset sample (R372). -/
  theta : Rat := 0
  /-- samples refused since reset, saturating (R372). -/
  refused : Nat := 0
  /-- leaf cycles at which the present holdover began (R372). -/
  holdStart : Nat := 0
  /-- mean path delay (R350). -/
  path : Rat := 0
  /-- a path delay has been measured (R350). -/
  hasPath : Bool := false
  /-- IEEE 1588 portState, 0 without PTP (R372). -/
  portState : Nat := 0
  /-- the instance had locked (R348). -/
  hadLock : Bool := false
  /-- grandmaster identity (R372). -/
  gm : Nat := 0
  /-- the word clock has stopped (R360). -/
  stopped : Bool := false
  /-- rate code nearest the measured rate (R372). -/
  wcSeen : Nat := 0
  /-- sequence number of the next PTP message sent (R347). -/
  seq : Nat := 0
deriving DecidableEq, Repr, Inhabited

/-- One VCXO family of a leaf (R363 to R366). -/
structure Vcxo where
  /-- fitted; true for the 48 kHz family, false for the other (R372). -/
  fitted : Bool := true
  /-- 0 coping, 1 host; 1 on the ZL-4824TN (R372). -/
  steer : Nat := 0
  /-- polarity (R372). -/
  polarity : Nat := 0
  /-- pull (R372). -/
  pull : Rat := 50
  /-- bandwidth (R372). -/
  bw : Rat := 1 / 2
  /-- update interval; 10 with steer 1 (R372). -/
  update : Nat := 1
  /-- hold code (R372). -/
  hold : Nat := 524288
  /-- D in force (R364). -/
  code : Nat := 524288
  /-- 0 locked, 1 acquiring, 2 railed (R364). -/
  state : Nat := 1
  /-- integral term (R364). -/
  integ : Rat := 0
  /-- y_v (R364). -/
  demand : Rat := 0
  /-- e (R364). -/
  err : Rat := 0
  /-- time the error has stayed within 100 ns (R364). -/
  good : Nat := 0
deriving DecidableEq, Repr, Inhabited

/-- One PLL (R367 to R370). -/
structure Pll where
  /-- locked (R372). -/
  locked : Bool := false
  /-- sticky loss of lock (R370). -/
  lol : Bool := false
  /-- sticky reference loss (R370). -/
  refLoss : Bool := false
  /-- output gated (R369). -/
  gated : Bool := true
  /-- spread setting (R372). -/
  spread : Nat := 0
  /-- band in use (R368). -/
  band : Nat := 0
  /-- consecutive windows within 2 counts (R368). -/
  good : Nat := 0
deriving DecidableEq, Repr, Inhabited

/-- A rate domain of a leaf (R271 to R273, R288). -/
structure Domain where
  /-- rate code, 0 none (R271). -/
  rate : Nat := 0
  /-- time base (R288). -/
  tb : Nat := 0
  /-- sample counter: the latest sample begun (R42). -/
  sample : Nat := 0
  /-- media-clock count of the latest meridian (R362). -/
  count : Nat := 0
  /-- after a step, the earliest time of the next meridian (R356). -/
  minNext : Nat := 0
deriving DecidableEq, Repr, Inhabited

/-- A render restart in progress (R272, R409). -/
structure Restart where
  /-- sample n from which the egress fades (R272). -/
  first : Nat := 0
  /-- new rate (R272). -/
  rate : Nat := 0
  /-- new time base (R272). -/
  tb : Nat := 0
  /-- the silent interval has begun (R272). -/
  silent : Bool := false
  /-- the restart of a twin entry or restore (R409). -/
  joint : Bool := false
deriving DecidableEq, Repr, Inhabited

/-- The clocks of a leaf (chapter 13). -/
structure Clk where
  /-- time bases 0 to 3 (R343). -/
  tbs : List (Nat × TimeBase) := []
  /-- render cycles since reset (R25). -/
  cycles : Nat := 0
  /-- the render domain (R271). -/
  dom : Domain := {}
  /-- side domain 1 (R273). -/
  side1 : Domain := {}
  /-- side domain 2 (R273). -/
  side2 : Domain := {}
  /-- a render restart in progress (R272). -/
  restart : Option Restart := none
  /-- first step of the fade-in after a restart (R272). -/
  fadeIn : Option Nat := none
  /-- 48 kHz family (R363). -/
  v48 : Vcxo := {}
  /-- 44.1 kHz family (R363). -/
  v44 : Vcxo := { fitted := false }
  /-- core PLL (R367). -/
  core : Pll := {}
  /-- DRAM PLL (R367). -/
  dram : Pll := {}
  /-- audio PLL (R367). -/
  audio : Pll := {}
  /-- SerDes PLL of ETH0 (R24). -/
  serdes0 : Pll := {}
  /-- SerDes PLL of ETH1 (R24). -/
  serdes1 : Pll := {}
  /-- tie-link PLL (R367). -/
  tie : Pll := {}
  /-- audio family in use, 0xFF none (R372). -/
  family : Nat := 255
  /-- stored band of the 48 kHz family (R368). -/
  band48 : Nat := 255
  /-- stored band of the 44.1 kHz family (R368). -/
  band44 : Nat := 255
  /-- losses of lock and reference since reset (R372). -/
  lolCount : Nat := 0
  /-- core or audio PLL alarm until relock (R413). -/
  alarm : Bool := false
deriving DecidableEq, Repr, Inhabited

/-- A twin entry or a restore in progress (R408, R428). -/
structure Entry where
  /-- 0 twin entry, 1 restore, 2 hand-back (R432). -/
  op : Nat := 0
  /-- source leaf (R408). -/
  source : LeafId := .a
  /-- requested restart time (R408). -/
  at_ : Nat := 0
  /-- the copy has ended (R408). -/
  copied : Bool := false
  /-- stores are copied (R408). -/
  copyStores : Bool := false
  /-- `at` had passed (R408). -/
  late : Bool := false
  /-- the command (R408). -/
  cmd : Cmd := {}
  /-- bytes copied (R432). -/
  bytes : Nat := 0
deriving DecidableEq, Repr, Inhabited

/-- One journal entry (R422). -/
structure Journal where
  /-- the command (R422). -/
  cmd : Cmd := {}
  /-- the content of a bank, patch or microcode load, carried over class 2 (R422). -/
  data : List Byte := []
  /-- records of a position commit, by object (R422). -/
  recs : List (Nat × List Byte) := []
  /-- buffer of that commit (R422). -/
  buf : Nat := 0
  /-- its meridian (R422). -/
  at_ : Nat := 0
  /-- acknowledged by the peer (R422). -/
  acked : Bool := false
  /-- later than the latest complete checkpoint (R422). -/
  since : Bool := true
deriving DecidableEq, Repr, Inhabited

/-- A claim change granted and not yet in force (R20). -/
structure Grant where
  /-- new claim (R20). -/
  claim : Nat := 0
  /-- cause code (R432). -/
  cause : Nat := 0
  /-- tag of the command that asked for it, 0 for none (R48). -/
  tag : Nat := 0
  /-- the number that it is granted next, where it must first give up the peer's (R20). -/
  after : Option Nat := none
deriving DecidableEq, Repr, Inhabited

/-- A class-0 message (R412). -/
structure Msg where
  /-- sample (R412). -/
  sample : Nat := 0
  /-- meridian stamp (R19). -/
  stamp : Nat := 0
  /-- CRC-32 of each course's collector entries (R412). -/
  crcs : List Nat := []
  /-- CRC-32 of the other egress sources (R412). -/
  other : Nat := 0
  /-- self-flag (R412). -/
  flag : Bool := false
deriving DecidableEq, Repr, Inhabited

/-- A captured slot that waits for its analysis (R199, R203). -/
structure MeasSlot where
  /-- feed (R199). -/
  feed : Nat := 0
  /-- frames by channel with the end of each, oldest first (R202). -/
  caps : List (Nat × List (Nat × Int)) := []
  /-- meridian of its first sample (R202). -/
  at_ : Nat := 0
  /-- group delay by channel (R202). -/
  delays : List (Nat × Rat) := []
  /-- channels whose mask was changed (R202). -/
  dropped : List Nat := []
  /-- sample at which its charge is paid (R203). -/
  due : Nat := 0
deriving DecidableEq, Repr, Inhabited

/-- One pair of feed and microphone channel of a calibration run (R202 to R204). -/
structure MeasPair where
  /-- feed (R204). -/
  feed : Nat := 0
  /-- channel (R204). -/
  mic : Nat := 0
  /-- 0 valid, 1 low SNR, 2 no arrival, 3 clipped, 6 dropped channel (R220). -/
  status : Nat := 0
  /-- arrival (R204). -/
  arrival : Rat := 0
  /-- level (R204). -/
  level : Rat := 0
  /-- SNR (R204). -/
  snr : Rat := 0
  /-- impulse response (R204). -/
  h : List Rat := []
deriving DecidableEq, Repr, Inhabited

/-- The summary of one feed of a run (R220). -/
structure MeasFeed where
  /-- feed (R220). -/
  feed : Nat := 0
  /-- status (R220). -/
  status : Nat := 0
  /-- valid pairs (R220). -/
  mics : Nat := 0
  /-- arrival at ref_mic (R220). -/
  arrival : Rat := 0
  /-- level at ref_mic (R220). -/
  level : Rat := 0
  /-- SNR at ref_mic (R220). -/
  snr : Rat := 0
  /-- largest boost designed (R220). -/
  boost : Nat := 0
  /-- largest cut designed (R220). -/
  cut : Nat := 0
  /-- alignment computed (R220). -/
  align : Nat := 0
  /-- group delay (R220). -/
  g : Nat := 0
  /-- tracking offset the alignment used (R206). -/
  track : Int := 0
  /-- its alignment was clamped (R206). -/
  clamped : Bool := false
deriving DecidableEq, Repr, Inhabited

/-- The calibration run of a scene, in progress or the latest one (R199). -/
structure MeasRun where
  /-- its MEAS_START, whose body holds the settings (R220). -/
  cmd : Cmd := {}
  /-- effect sample (R199). -/
  n0 : Nat := 0
  /-- meridian of n0 (R220). -/
  t0 : Nat := 0
  /-- feeds with a slot (R210). -/
  feeds : List Nat := []
  /-- target curve as it stood at n0 (R205). -/
  curve : List (Rat × Int) := []
  /-- state code of MEAS_QUERY (R220). -/
  phase : Nat := 0
  /-- feeds captured (R220). -/
  captured : Nat := 0
  /-- feeds analysed (R220). -/
  analysed : Nat := 0
  /-- feeds designed (R220). -/
  designed : Nat := 0
  /-- level of programme at the injection point (R199). -/
  fade : Ramp := { start := 1, target := 1 }
  /-- sample at which the stimulus stops (R208). -/
  stop : Option Nat := none
  /-- capture of the slot in progress by channel, each frame with its end (R202). -/
  caps : List (Nat × List (Nat × Int)) := []
  /-- channels whose mask was changed during the run (R202). -/
  dropped : List Nat := []
  /-- captured slots not yet analysed (R203). -/
  slots : List MeasSlot := []
  /-- sample from which the measurement line is free (R203). -/
  lineFree : Nat := 0
  /-- sample at which the design ends (R199). -/
  designDue : Nat := 0
  /-- analysed pairs (R204). -/
  pairs : List MeasPair := []
  /-- analysed feeds (R220). -/
  results : List MeasFeed := []
  /-- designed bank image (R207). -/
  image : List Byte := []
  /-- an image has been designed (R207). -/
  hasImage : Bool := false
  /-- the bank has been staged (R207). -/
  staged : Bool := false
  /-- shift of the designed bank (R205). -/
  shift : Nat := 0
  /-- the return fade has ended (R208). -/
  returned : Bool := false
  /-- 0 not issued, 1 started, 2 refused, 3 queued (R207). -/
  swap : Nat := 0
  /-- an alignment was clamped (R206). -/
  clamped : Bool := false
  /-- clip player that carries the stimulus on the ZL-4820T (R201). -/
  player : Option Nat := none
deriving DecidableEq, Repr, Inhabited

/-- The settings that `TRK_CONFIG` makes (R220). -/
structure TrackSet where
  /-- track_c (R220). -/
  trackC : Bool := false
  /-- P (R220). -/
  period : Nat := 1
  /-- window (R220). -/
  window : Nat := 1000
  /-- energy floor (R220). -/
  floor : Int := -5000
  /-- search (R220). -/
  search : Nat := 10
  /-- pairs for an estimate (R220). -/
  minPairs : Nat := 4
  /-- first tracked feed (R220). -/
  first : Nat := 0
  /-- number of tracked feeds (R220). -/
  count : Nat := 0
  /-- microphone mask (R220). -/
  mask : List Byte := []
  /-- least baseline path (R220). -/
  minPath : Rat := 5
  /-- reject_step (R220). -/
  reject : Nat := 500
  /-- elec_latency (R220). -/
  elec : Nat := 1024
deriving DecidableEq, Repr, Inhabited

/-- Tracking state of one feed (R213 to R216). -/
structure TrackFeed where
  /-- baseline arrival by channel (R213). -/
  base : List (Nat × Rat) := []
  /-- offset when the baseline was taken (R213). -/
  t0 : Int := 0
  /-- latest accepted drift (R214). -/
  drift : Option Rat := none
  /-- consecutive rejected drifts, newest first (R214). -/
  rejected : List Rat := []
  /-- latest tracked arrival by channel (R220). -/
  last : List (Nat × Rat) := []
  /-- t* (R216). -/
  target : Int := 0
  /-- target at the previous TRK_UPDATE (R221). -/
  told : Int := 0
deriving DecidableEq, Repr, Inhabited

/-- An update that is journalled for a coming sample in twin mode (R212). -/
structure TrackStep where
  /-- effect sample (R212). -/
  at_ : Nat := 0
  /-- new offsets by feed (R212). -/
  offsets : List (Nat × Int) := []
  /-- new speed of sound (R212). -/
  c : Rat := 0
  /-- length of the glide (R218). -/
  span : Nat := 0
deriving DecidableEq, Repr, Inhabited

/-- In-show tracking of a scene (R213 to R218). -/
structure Track where
  /-- autonomy mode (R217). -/
  mode : Nat := 1
  /-- settings in force (R220). -/
  set : TrackSet := {}
  /-- settings that take effect at the next update (R220). -/
  next : Option TrackSet := none
  /-- offsets glide to 0 (R217). -/
  clearing : Bool := false
  /-- tracked feeds (R213). -/
  feeds : List (Nat × TrackFeed) := []
  /-- a baseline is held (R213). -/
  hasBase : Bool := false
  /-- speed of sound of the baseline (R213). -/
  cBase : Rat := 0
  /-- latest estimate, 0 for none (R215). -/
  cEst : Rat := 0
  /-- estimate at the previous TRK_UPDATE (R221). -/
  cTold : Rat := 0
  /-- sample of the previous TRK_UPDATE (R221). -/
  toldAt : Option Nat := none
  /-- added latency (R216). -/
  deltaMax : Rat := 0
  /-- feeds with an accepted drift in the latest update (R220). -/
  feedsValid : Nat := 0
  /-- pairs used for the estimate (R220). -/
  pairsValid : Nat := 0
  /-- no feed was above the floor in the latest update (R220). -/
  quiet : Bool := false
  /-- updates since reset (R220). -/
  updates : Nat := 0
  /-- round of the next update (R218). -/
  round : Nat := 0
  /-- sample of the latest valid pair (R221). -/
  lastValid : Nat := 0
  /-- TRK_STARVED has been raised (R221). -/
  starved : Bool := false
  /-- journalled updates (R212). -/
  due : List TrackStep := []
deriving DecidableEq, Repr, Inhabited

/-- Measurement and tracking of a scene (chapter 08). -/
structure SceneMeas where
  /-- target curves; an unlisted one is flat at 0 dB (R220). -/
  curves : List (Nat × List (Rat × Int)) := []
  /-- the run in progress or the latest one (R199). -/
  run : Option MeasRun := none
  /-- tracking (R213). -/
  track : Track := {}
deriving DecidableEq, Repr, Inhabited

/-- One monitor bus input (R258, R268). -/
structure BusIn where
  /-- its source (R258). -/
  sel : Sel := {}
  /-- gain (R262). -/
  gain : Int := 0
  /-- gain ramp (R268). -/
  ramp : Ramp := { start := 1, target := 1 }
  /-- its source's sample n - 1 (R268). -/
  prev : Int := 0
deriving DecidableEq, Repr, Inhabited

/-- One monitor bus (R268). -/
structure Bus where
  /-- bus gain (R288). -/
  gain : Int := 0
  /-- bus gain ramp (R268). -/
  ramp : Ramp := { start := 1, target := 1 }
  /-- inputs (R258). -/
  inputs : List (Nat × BusIn) := []
  /-- bus output of the latest sample (R268). -/
  out : Int := 0
deriving DecidableEq, Repr, Inhabited

/-- One bridge channel (R274 to R277). -/
structure Bridge where
  /-- 0 disabled, 1 inbound, 2 outbound (R262). -/
  op : Nat := 0
  /-- side domain (R274). -/
  domain : Nat := 0
  /-- direction of the signal that it passes or still fades out (R274). -/
  dir : Nat := 0
  /-- its input (R258). -/
  sel : Sel := {}
  /-- output level: it fades to zero when the channel is disabled, and at a re-centring (R274). -/
  level : Ramp := {}
  /-- ratio adopted (R276). -/
  ratio : Rat := 0
  /-- ratio measured in the latest window (R276). -/
  measured : Rat := 0
  /-- FIFO offset from target (R276). -/
  fill : Int := 0
  /-- input samples, newest first (R276). -/
  fifo : List Int := []
  /-- re-centrings since reset (R288). -/
  slips : Nat := 0
  /-- a re-centring in progress, with the ratio it adopts (R277). -/
  adopt : Option Rat := none
deriving DecidableEq, Repr, Inhabited

/-- A selection command whose final completion waits for its points (R267). -/
structure SelWait where
  /-- the command (R267). -/
  cmd : Cmd := {}
  /-- points that have neither started nor been superseded (R267). -/
  left : Nat := 0
  /-- points superseded (R267). -/
  superseded : Nat := 0
  /-- its effect meridian (R267). -/
  at_ : Nat := 0
deriving DecidableEq, Repr, Inhabited

/-- Meter ballistics (R288). -/
structure MeterSet where
  /-- RMS window (R288). -/
  rms : Nat := 300
  /-- hold (R288). -/
  hold : Nat := 2000
  /-- decay (R288). -/
  decay : Nat := 2000
  /-- true peak (R288). -/
  flags : Nat := 0
deriving DecidableEq, Repr, Inhabited

/-- One meter (R269). -/
structure Meter where
  /-- peak of the frame in progress (R269). -/
  peak : Int := 0
  /-- samples of the RMS window, newest first (R269). -/
  sq : List Int := []
  /-- peak hold (R269). -/
  hold : Rat := 0
  /-- time since the peak hold was set (R269). -/
  age : Nat := 0
  /-- limited samples of the frame in progress (R269). -/
  limited : Nat := 0
deriving DecidableEq, Repr, Inhabited

/-- One record of a meter frame (R288), values in cdb. -/
structure MeterRec where
  /-- peak (R288). -/
  peak : Int := -32768
  /-- RMS (R288). -/
  rms : Int := -32768
  /-- true peak (R288). -/
  truePeak : Int := -32768
  /-- peak hold (R288). -/
  hold : Int := -32768
  /-- limited count (R288). -/
  limited : Nat := 0
deriving DecidableEq, Repr, Inhabited

/-- The meters of a leaf's scene (R269, R270). -/
structure Meters where
  /-- ballistics in force (R288). -/
  set : MeterSet := {}
  /-- ballistics from the next frame boundary (R288). -/
  next : Option MeterSet := none
  /-- object taps (R269). -/
  objs : List (Nat × Meter) := []
  /-- feeds (R269). -/
  feeds : List (Nat × Meter) := []
  /-- buses (R269). -/
  buses : List (Nat × Meter) := []
  /-- frames since reset (R288). -/
  seq : Nat := 0
  /-- meridian of the first sample after the frame (R288). -/
  endAt : Nat := 0
  /-- rate code of the frame (R288). -/
  rate : Nat := 0
  /-- true peak valid (R288). -/
  tp : Bool := false
  /-- object records of the latest frame (R270). -/
  recO : List (Nat × MeterRec) := []
  /-- feed records (R270). -/
  recF : List (Nat × MeterRec) := []
  /-- bus records (R270). -/
  recB : List (Nat × MeterRec) := []
deriving DecidableEq, Repr, Inhabited

/-- The signal graph of a scene (chapter 10). -/
structure SceneRoute where
  /-- monitor buses (R262). -/
  buses : List (Nat × Bus) := []
  /-- bridge channels (R262). -/
  bridges : List (Nat × Bridge) := []
  /-- egress stream channels, stream x 64 + channel (R262). -/
  egress : List (Nat × Sel) := []
  /-- coping outputs (R262). -/
  coping : List (Nat × Sel) := []
  /-- commands whose points wait (R267). -/
  waits : List SelWait := []
  /-- meters (R269). -/
  meters : Meters := {}
deriving DecidableEq, Repr, Inhabited

/-- One voice pool (R247, R256). -/
structure Pool where
  /-- voices; 1024 for pool 0 (R256). -/
  size : Nat := 0
  /-- policy (R256). -/
  policy : Nat := 0
  /-- autonomy mode (R250). -/
  mode : Nat := 2
  /-- steal fade (R249). -/
  fade : Nat := 20
  /-- steals since reset (R256). -/
  steals : Nat := 0
  /-- steals made as cuts (R256). -/
  cuts : Nat := 0
  /-- notes dropped (R256). -/
  dropped : Nat := 0
deriving DecidableEq, Repr, Inhabited

/-- What a voice still reads up to a sample after an unprepared event (R88, R242). -/
structure NoteVals where
  /-- the sample (R88). -/
  at_ : Nat := 0
  /-- pressure (R244). -/
  press : Nat := 0
  /-- pitch bend (R244). -/
  bend : Nat := 2147483648
  /-- per-note controllers (R244). -/
  ctrls : List Nat := [0, 0, 0, 0]
deriving DecidableEq, Repr, Inhabited

/-- One voice group (R234). -/
structure VGroup where
  /-- bound (R256). -/
  bound : Bool := false
  /-- 0 object, 1 bed (R256). -/
  kind : Nat := 0
  /-- object or bed base (R256). -/
  target : Nat := 0
  /-- pool (R256). -/
  pool : Nat := 0
  /-- polyphony limit (R256). -/
  limit : Nat := 0
  /-- current patch (R256). -/
  patch : Nat := 0
  /-- gain (R256). -/
  gain : Int := 0
  /-- gain ramp (R234). -/
  ramp : Ramp := { start := 1, target := 1 }
  /-- channel pressure (R244). -/
  press : Nat := 0
  /-- channel bend, centred (R244). -/
  bend : Nat := 2147483648
  /-- sustain is up (R244). -/
  sustain : Bool := false
  /-- what its voices still read of its event values (R88). -/
  was : Option NoteVals := none
  /-- output of the latest sample: channel 0 for an object, the object index for a bed (R234). -/
  out : List (Nat × Int) := []
deriving DecidableEq, Repr, Inhabited

/-- One wave slot (R239). -/
structure Wave where
  /-- 0 empty, 1 wavetable, 2 sample (R239). -/
  kind : Nat := 0
  /-- format (R256). -/
  format : Nat := 0
  /-- frames (R256). -/
  frames : Nat := 0
  /-- sample rate (R256). -/
  rate : Rat := 0
  /-- root key (R256). -/
  root : Rat := 0
  /-- loop start (R256). -/
  loopS : Nat := 0
  /-- loop end (R256). -/
  loopE : Nat := 0
  /-- content (R239). -/
  data : List Byte := []
  /-- space taken by a load in transfer (R239). -/
  loading : Nat := 0
deriving DecidableEq, Repr, Inhabited

/-- One oscillator of a voice (R224, R225). -/
structure Osc where
  /-- phase (R224). -/
  phi : Rat := 0
  /-- read position of a sample (R226). -/
  q : Rat := 0
  /-- output of the latest sample (R225). -/
  x : Rat := 0
  /-- the sample's end has been passed (R226). -/
  ended : Bool := false
deriving DecidableEq, Repr, Inhabited

/-- One envelope of a voice (R229). -/
structure Env where
  /-- 0 delay, 1 attack, 2 hold, 3 decay, 4 sustain, 5 release, 6 finished (R229). -/
  seg : Nat := 0
  /-- samples of the segment that have passed (R229). -/
  pos : Nat := 0
  /-- value (R229). -/
  y : Rat := 0
  /-- level at release (R229). -/
  l0 : Rat := 0
deriving DecidableEq, Repr, Inhabited

/-- One LFO of a voice (R230). -/
structure Lfo where
  /-- phase (R230). -/
  phase : Rat := 0
  /-- samples since the note started (R230). -/
  age : Nat := 0
  /-- sample-and-hold value (R230). -/
  sh : Rat := 0
  /-- output of the latest sample (R230). -/
  x : Rat := 0
deriving DecidableEq, Repr, Inhabited

/-- A voice or a shadow voice that plays a note (R222 to R233). -/
structure Voice where
  /-- group (R247). -/
  group : Nat := 0
  /-- pool (R247). -/
  pool : Nat := 0
  /-- note_id (R244). -/
  noteId : Nat := 0
  /-- key (R256). -/
  key : Nat := 0
  /-- velocity (R256). -/
  vel : Nat := 0
  /-- start sample (R248). -/
  start : Nat := 0
  /-- note sequence number (R227). -/
  seq : Nat := 0
  /-- its copy of the patch (R238). -/
  patch : List Byte := []
  /-- per-note pitch bend (R244). -/
  bend : Nat := 2147483648
  /-- per-note pressure (R244). -/
  press : Nat := 0
  /-- per-note controllers (R244). -/
  ctrls : List Nat := [0, 0, 0, 0]
  /-- a note-off is held by sustain (R244). -/
  held : Bool := false
  /-- it has been released (R244). -/
  released : Bool := false
  /-- sample from which its envelopes take the release (R88). -/
  relAt : Option Nat := none
  /-- what it still reads of its event values (R88). -/
  was : Option NoteVals := none
  /-- oscillators (R224). -/
  oscs : List Osc := [{}, {}, {}, {}]
  /-- envelopes (R229). -/
  envs : List Env := [{}, {}, {}]
  /-- LFOs (R230). -/
  lfos : List Lfo := [{}, {}]
  /-- values drawn from its generator (R227). -/
  drawn : Nat := 0
  /-- source 14 (R232). -/
  rand : Rat := 0
  /-- destination values (R231). -/
  mat : List (Nat × Ramp) := []
  /-- filter coefficients g, 1/Q, g, r (R228). -/
  coefs : List Ramp := []
  /-- state-variable filter (R228). -/
  svf : List Int := [0, 0]
  /-- ladder stages and y4 (R228). -/
  lad : List Int := [0, 0, 0, 0, 0]
  /-- it fades after a steal or an end (R249). -/
  fade : Option Ramp := none
  /-- output of the latest sample (R233). -/
  out : Int := 0
  /-- the matrix has been evaluated (R231). -/
  evald : Bool := false
deriving DecidableEq, Repr, Inhabited

/-- A shadow voice in use (R249, R251). -/
structure Shadow where
  /-- its note (R222). -/
  v : Voice := {}
  /-- the stolen voice it migrates into; none for one that only fades or that takes the lowest free voice (R249). -/
  into : Option Nat := none
  /-- sample of the move (R249). -/
  at_ : Nat := 0
  /-- it waits for the lowest free voice of its pool (R251). -/
  waits : Bool := false
deriving DecidableEq, Repr, Inhabited

/-- A pending note event (R242 to R244). -/
structure NoteEv where
  /-- media-clock count of its effect sample, 0 for the next (R242). -/
  count : Nat := 0
  /-- its time, 0 for the next meridian (R242). -/
  t : Nat := 0
  /-- prepared (R242). -/
  prepared : Bool := false
  /-- group (R256). -/
  group : Nat := 0
  /-- event type; 12 for an assignable per-note controller by its index (R244). -/
  type : Nat := 0
  /-- index (R256). -/
  index : Nat := 0
  /-- note_id (R256). -/
  noteId : Nat := 0
  /-- key (R256). -/
  key : Nat := 0
  /-- value (R256). -/
  value : Nat := 0
  /-- its command (R255). -/
  acc : Nat := 0
deriving DecidableEq, Repr, Inhabited

/-- A note command with records that have not taken effect (R255). -/
structure NoteCmd where
  /-- the command (R255). -/
  cmd : Cmd := {}
  /-- its interim has been posted (R255). -/
  released : Bool := false
  /-- late records (R255). -/
  late : Nat := 0
  /-- discarded records (R255). -/
  discarded : Nat := 0
  /-- latest effect meridian (R255). -/
  at_ : Nat := 0
deriving DecidableEq, Repr, Inhabited

/-- The voice engine of a scene (chapter 09). -/
structure SceneVox where
  /-- tuning reference (R256). -/
  tuning : Rat := 440
  /-- pools (R256). -/
  pools : List (Nat × Pool) := [(0, { size := 1024 })]
  /-- groups (R256). -/
  groups : List (Nat × VGroup) := []
  /-- patches that are not empty (R256). -/
  patches : List (Nat × List Byte) := []
  /-- wave slots that are not empty (R256). -/
  waves : List (Nat × Wave) := []
  /-- channel map, group x 16 + channel (R256). -/
  chmap : List (Nat × Nat) := []
  /-- voices that are not free (R222). -/
  voices : List (Nat × Voice) := []
  /-- shadow voices in use (R222). -/
  shadows : List (Nat × Shadow) := []
  /-- note sequence number (R227). -/
  noteSeq : Nat := 0
  /-- pending note events in acceptance order (R242). -/
  pending : List NoteEv := []
  /-- note commands in progress (R255). -/
  cmds : List NoteCmd := []
  /-- late records (R256). -/
  late : Nat := 0
  /-- packets discarded (R256). -/
  discarded : Nat := 0
deriving DecidableEq, Repr, Inhabited

/-- One clip of the clip store (R278). -/
structure Clip where
  /-- channels, 0 for an empty clip (R278). -/
  channels : Nat := 0
  /-- 0 L16, 1 L24, 2 A32 (R278). -/
  format : Nat := 0
  /-- frames of the whole clip (R278). -/
  frames : Nat := 0
  /-- rate code (R278). -/
  rate : Nat := 0
  /-- SAMPLE_EXACT (R278). -/
  exact : Bool := false
  /-- frames written so far (R278). -/
  data : List Byte := []
  /-- acceptance numbers of the declaration's parts in transfer (R285). -/
  parts : List Nat := []
  /-- frames that the parts accepted so far carry (R285). -/
  sent : Nat := 0
deriving DecidableEq, Repr, Inhabited

/-- One clip player (R279). -/
structure Player where
  /-- state code (R279). -/
  state : Nat := 0
  /-- cued clip (R285). -/
  clip : Nat := 65535
  /-- cue point (R285). -/
  cue : Nat := 0
  /-- loop start (R285). -/
  loopS : Nat := 0
  /-- loop end, 0 for no loop (R285). -/
  loopE : Nat := 0
  /-- plays of the body (R285). -/
  loops : Nat := 0
  /-- loop_end has been reached and the next frame is not chosen yet (R283). -/
  arrived : Bool := false
  /-- plays completed (R283). -/
  plays : Nat := 0
  /-- frame output next (R285). -/
  pos : Nat := 0
  /-- sample from which frames advance (R280). -/
  first : Nat := 0
  /-- fade gain (R281). -/
  level : Ramp := {}
  /-- frames played since the last play (R286). -/
  played : Nat := 0
  /-- frame output at the latest sample (R285). -/
  shown : Nat := 0
deriving DecidableEq, Repr, Inhabited

/-- The clip store and players of a scene. -/
structure SceneClips where
  /-- clips (R278). -/
  clips : List (Nat × Clip) := []
  /-- players (R279). -/
  players : List (Nat × Player) := []
deriving DecidableEq, Repr, Inhabited

/-- A pointer of a user microcode pass (R290, R297). -/
structure UcPtr where
  /-- logical bank (R297). -/
  bank : Nat := 0
  /-- base row (R297). -/
  base : Nat := 0
  /-- length in rows (R297). -/
  len : Nat := 0
  /-- index (R297). -/
  idx : Nat := 0
  /-- stride (R297). -/
  stride : Nat := 0
  /-- lane select (R297). -/
  lane : Nat := 0
  /-- declared persistent (R295). -/
  keep : Bool := false
deriving DecidableEq, Repr, Inhabited

/-- A loaded user microcode program (R307, R313). -/
structure UcProg where
  /-- points it may attach to (R313). -/
  points : Nat := 0
  /-- parameter banks (R313). -/
  params : Nat := 0
  /-- declared worst case (R313). -/
  cycles : Nat := 0
  /-- rows per pass in U0 to U5 (R313). -/
  rows : List Nat := []
  /-- pointer descriptors (R313). -/
  ptrs : List UcPtr := []
  /-- words, empty for an empty slot (R313). -/
  code : List Nat := []
deriving DecidableEq, Repr, Inhabited

/-- One attachment (R291 to R313). -/
structure UcAtt where
  /-- 0 free, 1 fading in, 2 active, 3 fading out (R313). -/
  state : Nat := 0
  /-- program slot (R313). -/
  program : Nat := 0
  /-- insert point (R313). -/
  point : Nat := 0
  /-- first item (R313). -/
  first : Nat := 0
  /-- items (R313). -/
  count : Nat := 0
  /-- first sample it runs for (R310). -/
  from_ : Nat := 0
  /-- share of the insert's output (R310). -/
  level : Ramp := {}
  /-- active page (R309). -/
  active : Nat := 0
  /-- parameter page 0, bytes beyond its end zero (R309). -/
  page0 : List Byte := []
  /-- parameter page 1 (R309). -/
  page1 : List Byte := []
  /-- sample from which the other page is used (R309). -/
  flip : Option Nat := none
  /-- acceptance number of the pending UC_PARAM (R309). -/
  staged : List Nat := []
  /-- non-zero slots of the rows that are not parameters (R296). -/
  data : List (Nat × Int) := []
  /-- pointers at the end of each pass, course + 8 x pass (R295). -/
  ptrs : List (Nat × List UcPtr) := []
  /-- outputs by item (R294). -/
  outs : List (Nat × Int) := []
  /-- clamps since attach (R313). -/
  sats : Nat := 0
  /-- passes abandoned (R313). -/
  faults : Nat := 0
  /-- passes abandoned in the present period, course + 8 x pass (R307). -/
  drop : List Nat := []
deriving DecidableEq, Repr, Inhabited

/-- User microcode of a scene (chapter 11). -/
structure SceneUc where
  /-- program slots (R313). -/
  progs : List (Nat × UcProg) := []
  /-- attachments (R313). -/
  atts : List (Nat × UcAtt) := []
  /-- non-zero IN values of the latest sample, point x 1024 + item (R294). -/
  ins : List (Nat × Int) := []
deriving DecidableEq, Repr, Inhabited

/-- The settings of an ingress stream (R341). -/
structure RxSet where
  /-- domain (R341). -/
  domain : Nat := 0
  /-- 0 audio, 1 serial ADM (R341). -/
  kind : Nat := 0
  /-- 0 L24, 1 L32 (R341). -/
  format : Nat := 0
  /-- channels (R341). -/
  channels : Nat := 0
  /-- legs and claim_rx (R341). -/
  flags : Nat := 0
  /-- hold and fade (R332). -/
  conceal : Nat := 1
  /-- s (R341). -/
  samples : Nat := 0
  /-- link offset (R341). -/
  link : Nat := 0
  /-- payload type (R341). -/
  ptype : Nat := 0
  /-- ext_id (R341). -/
  ext : Nat := 0
  /-- timestamp offset (R341). -/
  tsOffset : Nat := 0
  /-- leg 0 destination (R341). -/
  group0 : Nat := 0
  /-- leg 0 source filter (R341). -/
  source0 : Nat := 0
  /-- leg 0 UDP port (R341). -/
  port0 : Nat := 0
  /-- leg 1 UDP port (R341). -/
  port1 : Nat := 0
  /-- leg 1 destination (R341). -/
  group1 : Nat := 0
  /-- leg 1 source filter (R341). -/
  source1 : Nat := 0
deriving DecidableEq, Repr, Inhabited

/-- One leg of an ingress stream (R329). -/
structure RxLeg where
  /-- it delivers packets (R341). -/
  live : Bool := false
  /-- NET_LEG_LOST has been raised (R329). -/
  lost : Bool := false
  /-- arrival of its latest packet (R329). -/
  at_ : Nat := 0
  /-- sequence number expected next (R341). -/
  seq : Option Nat := none
  /-- sequence numbers missing (R341). -/
  missing : Nat := 0
  /-- groups that it has joined (R329). -/
  joined : List Nat := []
deriving DecidableEq, Repr, Inhabited

/-- A packet in a stream's jitter buffer (R331). -/
structure RxPacket where
  /-- RTP sequence number (R331). -/
  seq : Nat := 0
  /-- media-clock count of its first sample modulo 2^32 (R330). -/
  count : Nat := 0
  /-- claim number of the copy held (R331). -/
  claim : Option Nat := none
  /-- arrival (R341). -/
  at_ : Nat := 0
  /-- payload (R329). -/
  payload : List Byte := []
  /-- a sample of it has been used (R341). -/
  used : Bool := false
  /-- it arrived after its first sample's commit (R332). -/
  late : Bool := false
deriving DecidableEq, Repr, Inhabited

/-- One ingress stream (R329 to R334). -/
structure RxStream where
  /-- enabled (R340). -/
  on : Bool := false
  /-- first sample of the enabled state (R333). -/
  from_ : Nat := 0
  /-- sample from which a disabled stream fades (R333). -/
  off : Option Nat := none
  /-- settings (R341). -/
  set : RxSet := {}
  /-- settings that stand once the fade of a disable has ended (R333). -/
  after : Option RxSet := none
  /-- leg 0 (R329). -/
  leg0 : RxLeg := {}
  /-- leg 1 (R329). -/
  leg1 : RxLeg := {}
  /-- jitter buffer (R330). -/
  buf : List RxPacket := []
  /-- a usable sample has been delivered (R333). -/
  started : Bool := false
  /-- last good sample by channel (R332). -/
  lastV : List Int := []
  /-- consecutive samples concealed (R332). -/
  gap : Nat := 0
  /-- good samples since the concealment ended, up to 32 (R332). -/
  back : Nat := 32
  /-- the sample in force by channel (R330). -/
  now : List Int := []
  /-- claim of the latest copy used, 0xFF for none (R341). -/
  claim : Nat := 255
  /-- packets used (R341). -/
  packets : Nat := 0
  /-- samples concealed (R341). -/
  concealed : Nat := 0
  /-- late packets (R341). -/
  late : Nat := 0
  /-- packets discarded (R341). -/
  badFormat : Nat := 0
  /-- arrival margins of the packets used in the latest second, by arrival (R341). -/
  margins : List (Nat × Int) := []
  /-- cause of the next concealment report (R342). -/
  cause : Nat := 0
  /-- divided ADM frame under assembly (R334). -/
  adm : List Byte := []
deriving DecidableEq, Repr, Inhabited

/-- The settings of an egress stream (R341). -/
structure TxSet where
  /-- domain (R341). -/
  domain : Nat := 0
  /-- 0 L24, 1 L32 (R341). -/
  format : Nat := 0
  /-- channels (R341). -/
  channels : Nat := 0
  /-- leg0, leg1, claim_tx, jumbo (R341). -/
  flags : Nat := 0
  /-- DSCP (R338). -/
  dscp : Nat := 34
  /-- TTL (R341). -/
  ttl : Nat := 0
  /-- s (R341). -/
  samples : Nat := 0
  /-- seq_base (R341). -/
  seqBase : Nat := 0
  /-- payload type (R341). -/
  ptype : Nat := 0
  /-- ext_id (R341). -/
  ext : Nat := 0
  /-- SSRC (R341). -/
  ssrc : Nat := 0
  /-- timestamp offset (R341). -/
  tsOffset : Nat := 0
  /-- leg 0 destination (R341). -/
  dest0 : Nat := 0
  /-- leg 0 UDP port (R341). -/
  port0 : Nat := 0
  /-- leg 1 UDP port (R341). -/
  port1 : Nat := 0
  /-- leg 1 destination (R341). -/
  dest1 : Nat := 0
deriving DecidableEq, Repr, Inhabited

/-- A finished egress packet (R337). -/
structure TxPacket where
  /-- media-clock count of its first sample (R336). -/
  count : Nat := 0
  /-- its last sample (R337). -/
  last : Nat := 0
  /-- payload (R335). -/
  payload : List Byte := []
  /-- settings it was packed under (R341). -/
  set : TxSet := {}
deriving DecidableEq, Repr, Inhabited

/-- One egress stream (R335 to R338). -/
structure TxStream where
  /-- enabled (R340). -/
  on : Bool := false
  /-- a packet boundary has passed since the enable (R337). -/
  sending : Bool := false
  /-- settings (R341). -/
  set : TxSet := {}
  /-- settings from the next packet boundary (R341). -/
  next : Option TxSet := none
  /-- legs and unicast destinations that ARP has yet to resolve (R337). -/
  asks : List (Nat × Nat) := []
  /-- resolved addresses by leg and destination (R337). -/
  macs : List ((Nat × Nat) × Nat) := []
  /-- count of the first sample of the packet being filled (R336). -/
  first : Nat := 0
  /-- payload of the packet being filled (R336). -/
  fill : List Byte := []
  /-- finished packets not yet released (R337). -/
  ready : List TxPacket := []
  /-- claim sent latest, 0xFF for none (R341). -/
  claim : Nat := 255
  /-- packets sent (R341). -/
  packets : Nat := 0
deriving DecidableEq, Repr, Inhabited

/-- One host ring of a port (R323 to R327). -/
structure HostRing where
  /-- enabled (R340). -/
  on : Bool := false
  /-- deliver_bad (R341). -/
  deliverBad : Bool := false
  /-- event (R341). -/
  event : Bool := false
  /-- entries (R341). -/
  size : Nat := 0
  /-- event_interval (R341). -/
  interval : Nat := 0
  /-- host address (R341). -/
  base : Nat := 0
  /-- index of the next descriptor the leaf uses (R323). -/
  idx : Nat := 0
  /-- descriptors read ahead that belong to the leaf (R323). -/
  ready : List (List Byte) := []
  /-- earliest time of the next read of a host-owned descriptor (R323). -/
  polled : Nat := 0
  /-- frames since the ring was enabled (R324). -/
  frames : Nat := 0
  /-- descriptors returned since the previous report (R327). -/
  returned : Nat := 0
  /-- time of the previous report (R327). -/
  reported : Option Nat := none
deriving DecidableEq, Repr, Inhabited

/-- One host filter (R321, R341). -/
structure NetFilter where
  /-- host ring, 0xFF for a disabled filter (R340). -/
  ring : Nat := 255
  /-- ports (R341). -/
  ports : Nat := 0
  /-- match (R341). -/
  tests : Nat := 0
  /-- destination address, in wire order (R341). -/
  mac : Nat := 0
  /-- EtherType (R341). -/
  etherType : Nat := 0
  /-- IP protocol (R341). -/
  proto : Nat := 0
  /-- UDP destination port (R341). -/
  udpPort : Nat := 0
deriving DecidableEq, Repr, Inhabited

/-- The media streams of a scene (chapter 12). -/
structure SceneNet where
  /-- ingress streams (R340). -/
  rx : List (Nat × RxStream) := []
  /-- egress streams (R340). -/
  tx : List (Nat × TxStream) := []
  /-- host rings, port x 16 + ring (R340). -/
  rings : List (Nat × HostRing) := []
  /-- host filters (R340). -/
  filters : List (Nat × NetFilter) := []
deriving DecidableEq, Repr, Inhabited

/-- The scene a leaf renders: what the commands of one function set. -/
structure Scene where
  /-- objects (R117). -/
  objs : SceneObjs := {}
  /-- layouts and rendering (R147). -/
  rend : SceneRend := {}
  /-- output chain (R178). -/
  out : SceneOut := {}
  /-- measurement and tracking (R199). -/
  meas : SceneMeas := {}
  /-- signal graph (R258). -/
  route : SceneRoute := {}
  /-- voice engine (R222). -/
  vox : SceneVox := {}
  /-- clips (R278). -/
  clips : SceneClips := {}
  /-- user microcode (R290). -/
  uc : SceneUc := {}
  /-- media streams and host rings (R340). -/
  net : SceneNet := {}
deriving DecidableEq, Repr, Inhabited

/-- Redundancy state of one leaf. -/
structure RedLeaf where
  /-- claim number (R41). -/
  claim : Nat := 0
  /-- a grant that takes effect at the next meridian (R20). -/
  grant : Option Grant := none
  /-- own message of the latest sample (R412). -/
  own : Option Msg := none
  /-- own message in transit to the peer (R18). -/
  sent : Option Msg := none
  /-- the peer's latest message (R412). -/
  peer : Option Msg := none
  /-- self-flagged samples (R431). -/
  flags : Nat := 0
  /-- the latest sample is withheld (R415). -/
  withhold : Bool := false
  /-- latest sample with a verdict (R414). -/
  judged : Nat := 0
  /-- latest complete checkpoint received from the peer (R421). -/
  ckpt : Option Scene := none
  /-- the second scene of that checkpoint, of a leaf that serves both (R428). -/
  ckptGuest : Option Scene := none
  /-- a checkpoint that the peer has sent and that is on its way (R421). -/
  transit : Option (Scene × Option Scene) := none
  /-- time at which the latest complete checkpoint was received (R431). -/
  ckptAt : Nat := 0
  /-- the time-base and clock configuration of that checkpoint (R421). -/
  ckptClk : Clk := {}
  /-- entries received from the peer (R422). -/
  journal : List Journal := []
  /-- withdrawn or demoted, a restore is needed (R411). -/
  lost : Bool := false
deriving DecidableEq, Repr, Inhabited

/-- A split takeover in progress (R423). -/
structure Takeover where
  /-- failed leaf (R423). -/
  lost : LeafId := .a
  /-- lost scene (R432). -/
  scene : Nat := 0
  /-- the failed leaf served both scenes, and a rejoined backup takes both (R428). -/
  both : Bool := false
  /-- moment of the failure (R432). -/
  start : Nat := 0
  /-- commands whose final completion was not posted (R39). -/
  cmds : List Cmd := []
  /-- the checkpoint to restore (R423). -/
  image : Scene := {}
deriving DecidableEq, Repr, Inhabited

/-- Redundancy state of the module controller (chapter 16). -/
structure Red where
  /-- 0 independent, 1 twin, 2 split (R431). -/
  mode : Nat := 0
  /-- active leaf of twin mode (R410). -/
  active : LeafId := .a
  /-- active claim (R431). -/
  activeClaim : Nat := 12
  /-- standby claim (R431). -/
  standbyClaim : Nat := 8
  /-- demotion mode (R431). -/
  demote : Nat := 2
  /-- split: leaf serving scene A (R431). -/
  sceneA : LeafId := .a
  /-- first feed of scene B (R431). -/
  splitFeed : Nat := 0
  /-- first egress stream of scene B (R431). -/
  splitTx : Nat := 0
  /-- first ingress stream of scene B (R431). -/
  splitRx : Nat := 0
  /-- coping scene (R431). -/
  copingScene : Nat := 0
  /-- MOD_STATUS.TIE_UP (R43). -/
  tieUp : Bool := false
  /-- TIE_LINK_DOWN is raised and not cleared (R432). -/
  tieFault : Bool := false
  /-- leaf A (R41). -/
  a : RedLeaf := {}
  /-- leaf B (R41). -/
  b : RedLeaf := {}
  /-- consecutive samples released by both (R431). -/
  agreed : Nat := 0
  /-- unresolved divergences (R431). -/
  divergences : Nat := 0
  /-- samples released without the peer's message (R431). -/
  unchecked : Nat := 0
  /-- entry or restore in progress (R408). -/
  entry : Option Entry := none
  /-- takeover in progress (R423). -/
  takeover : Option Takeover := none
  /-- split entry waiting for the first checkpoints (R406). -/
  split : Option Cmd := none
  /-- the sample at which a command's effect sample or status differed between the leaves, 0 none (R36). -/
  differAt : Nat := 0
  /-- a role swap waiting for its meridian (R431). -/
  swapAt : Option Cmd := none
  /-- RED_MODE that leaves a protected mode at the next meridian (R406). -/
  leaveAt : Option Cmd := none
deriving DecidableEq, Repr, Inhabited

/-- A test in progress (R492). -/
structure Test where
  /-- opcode of the test (R497). -/
  op : Nat := 0
  /-- the command (R497). -/
  cmd : Cmd := {}
  /-- function of the command (R492). -/
  fn : FnId := .f0
  /-- a field repair, not a test (R449). -/
  field : Bool := false
  /-- banks a preserving march took, with their owners before it (R492). -/
  owners : List (Nat × Nat) := []
deriving DecidableEq, Repr, Inhabited

/-- An image delivery or update in progress (R488, R495). -/
structure Load where
  /-- the command (R495). -/
  cmd : Cmd := {}
  /-- the image (R488). -/
  data : List Byte := []
  /-- SYS_FW_UPDATE, not SYS_BOOT_LOAD (R495). -/
  update : Bool := false
deriving DecidableEq, Repr, Inhabited

/-- Boot, straps and flash of a leaf (R485 to R495). -/
structure Boot where
  /-- BOOT_SRC pin (R485). -/
  strapSrc : Bool := false
  /-- BOOT_TEST pins (R485). -/
  strapTest : Nat := 0
  /-- sampled BOOT_SRC, true for host boot (R485). -/
  src : Bool := false
  /-- boot test level run (R485). -/
  test : Nat := 0
  /-- slot marked preferred (R486). -/
  pref : Nat := 0
  /-- slot 0 holds a valid image (R486). -/
  valid0 : Bool := true
  /-- slot 1 holds a valid image (R495). -/
  valid1 : Bool := false
  /-- security version of slot 0 (R486). -/
  ver0 : Nat := 0
  /-- security version of slot 1 (R486). -/
  ver1 : Nat := 0
  /-- security version of the running image (R495). -/
  runVer : Nat := 0
  /-- booted slot, 0xFF for host boot (R495). -/
  slot : Nat := 0
  /-- fused minimum security version (R487). -/
  secMin : Nat := 0
  /-- waiting for SYS_BOOT_LOAD (R488). -/
  waitHost : Bool := false
  /-- time to READY (R495). -/
  ms : Nat := 0
  /-- image delivery in progress (R488). -/
  load : Option Load := none
  /-- image update in progress (R495). -/
  update : Option Load := none
  /-- the test in progress (R492). -/
  tests : List Test := []
deriving DecidableEq, Repr, Inhabited

/-- The module controller and the endpoint. -/
structure Plinth where
  /-- supply good has been declared (R482). -/
  supply : Bool := false
  /-- the PCIe link is up (R34). -/
  link : Bool := false
  /-- trained link speed, as the link status register codes it: 1 to 4 for 2.5, 5, 8 and 16 GT/s, 0 while the link is down (R29). -/
  speed : Nat := 0
  /-- trained link width in lanes, 0 while the link is down (R29). -/
  width : Nat := 0
  /-- MOD_STATUS.COPING_PG (R43). -/
  copingPg : Bool := false
  /-- the endpoint answers (R30). -/
  enabled : Bool := false
  /-- VSEL balls left open, in the order A_M, A_S, B_M, B_S, P (R501). -/
  vsel : Nat := 0
  /-- banks at 3.3 V, as sampled at supply good (R501). -/
  vio : Nat := 0
deriving DecidableEq, Repr, Inhabited

/-- A media packet in transmit queue 6 of a port (R319, R320). -/
structure MediaOut where
  /-- egress stream (R320). -/
  stream : Nat := 0
  /-- time at which it was queued (R320). -/
  at_ : Nat := 0
  /-- frame without its FCS (R338). -/
  frame : List Byte := []
deriving DecidableEq, Repr, Inhabited

/-- One Ethernet port of a leaf (R315 to R320). -/
structure Port where
  /-- mode (R340). -/
  mode : Nat := 0
  /-- line mode in use: the mode, or 2 or 3 in mode 4 (R315). -/
  lineMode : Nat := 0
  /-- block lock (R318). -/
  link : Bool := false
  /-- pause option (R340). -/
  pause : Nat := 0
  /-- the address that NET_PORT gave is in use (R340). -/
  useMac : Bool := false
  /-- address that NET_PORT gave, in wire order (R341). -/
  mac : Nat := 0
  /-- VLAN, 0 untagged (R340). -/
  vlan : Nat := 0
  /-- priority of media and PTP frames (R341). -/
  pcpMedia : Nat := 0
  /-- priority of every other frame (R341). -/
  pcpOther : Nat := 0
  /-- prefix length (R341). -/
  plen : Nat := 0
  /-- address 0.0.0.0 (R340). -/
  ip : Nat := 0
  /-- gateway (R341). -/
  gateway : Nat := 0
  /-- queues stopped by a received PAUSE or PFC frame (R320). -/
  stopped : Nat := 0
  /-- time since which mode 4 has had no block lock (R315). -/
  waitLock : Nat := 0
  /-- queue 6 (R319). -/
  media : List MediaOut := []
  /-- frames of queues 0 to 4 that wait, by queue (R319). -/
  held : List (Nat × List Byte) := []
  /-- frames received (R341). -/
  rxFrames : Nat := 0
  /-- bad frames dropped (R341). -/
  rxBad : Nat := 0
  /-- frames dropped or cut for lack of buffers (R341). -/
  rxNobuf : Nat := 0
  /-- frames dropped by R321 (R341). -/
  rxFiltered : Nat := 0
  /-- media packets discarded (R341). -/
  txDropped : Nat := 0
  /-- codewords left uncorrected (R341). -/
  fecBad : Nat := 0
  /-- SFP loss of signal (R507). -/
  los : Bool := false
  /-- no SFP module (R507). -/
  modAbs : Bool := true
  /-- identity page of the SFP module (R507). -/
  sfpPage : List Byte := []
deriving DecidableEq, Repr, Inhabited

/-- One block of 64 frames of a capture ring (R383). -/
structure MicBlock where
  /-- end of its first frame (R383). -/
  endAt : Nat := 0
  /-- sequence number (R383). -/
  seq : Nat := 0
  /-- settling, gap, free-rate, slip (R389). -/
  flags : Nat := 0
  /-- frames, oldest first (R383). -/
  frames : List Int := []
deriving DecidableEq, Repr, Inhabited

/-- One PDM clock (R375). -/
structure MicClock where
  /-- enabled (R389). -/
  on : Bool := false
  /-- R (R389). -/
  ratio : Nat := 0
  /-- N (R389). -/
  n : Nat := 0
  /-- F (R389). -/
  f : Nat := 0
  /-- enabled channels (R389). -/
  mask : Nat := 0
  /-- mask that takes over, with its effect sample (R384). -/
  newMask : Option (Nat × Nat) := none
  /-- the clock is disabled once that mask takes over (R385). -/
  stopping : Bool := false
  /-- slips since reset (R389). -/
  slips : Nat := 0
  /-- period whose frame slipped last, counted once for the clock's channels (R382). -/
  slipAt : Option Nat := none
deriving DecidableEq, Repr, Inhabited

/-- One microphone channel (R378 to R389). -/
structure MicChan where
  /-- alignment delay (R389). -/
  d : Nat := 0
  /-- DC blocker running (R389). -/
  dcMode : Nat := 1
  /-- 2.0 Hz (R389). -/
  corner : Nat := 20
  /-- ring of 2^16 samples (R389). -/
  k : Nat := 16
  /-- effect sample, delay, DC mode and corner from the next frame boundary (R385). -/
  dNext : Option (Nat × Nat × Nat × Nat) := none
  /-- integrators (R378). -/
  ints : List Int := []
  /-- comb delays (R378). -/
  combs : List Int := []
  /-- PDM bits of the alignment delay, newest first (R378). -/
  line : List Bool := []
  /-- compensator inputs, newest first (R378). -/
  fir : List Rat := []
  /-- DC estimate (R380). -/
  m : Rat := 0
  /-- settling frames left (R384). -/
  settle : Nat := 0
  /-- complete blocks, newest first (R383). -/
  ring : List MicBlock := []
  /-- block in progress (R383). -/
  cur : MicBlock := {}
  /-- sequence number of the next block (R383). -/
  seq : Nat := 0
  /-- latest frames by the sample of their period, newest first (R381). -/
  recent : List (Nat × Int) := []
  /-- gap frames since reset (R389). -/
  gaps : Nat := 0
deriving DecidableEq, Repr, Inhabited

/-- The PDM capture of a leaf (chapter 14). -/
structure Mics where
  /-- clocks (R389). -/
  clocks : List (Nat × MicClock) := []
  /-- channels (R389). -/
  chans : List (Nat × MicChan) := []
deriving DecidableEq, Repr, Inhabited

/-- One coping audio output (R391 to R404). -/
structure CopOut where
  /-- reference gain in force (R403). -/
  span : Nat := 1
  /-- slew step (R403). -/
  sigma : Nat := 0
  /-- slew interval (R403). -/
  interval : Nat := 1
  /-- monitoring on (R403). -/
  monitor : Bool := true
  /-- muted or fading to mute (R403). -/
  muted : Bool := false
  /-- mute gain over coping ticks (R402). -/
  mute : Ramp := { start := 1, target := 1 }
  /-- 0 no span fade, 1 fading out, 2 fading in (R396). -/
  phase : Nat := 0
  /-- span gain (R396). -/
  fade : Ramp := { start := 1, target := 1 }
  /-- span of the fade in progress (R396). -/
  spanTo : Nat := 1
  /-- span change that waits (R396). -/
  spanNext : Option Nat := none
  /-- slew limiter (R394). -/
  z : Int := 0
  /-- sample whose update has been taken (R394). -/
  slewedAt : Option Nat := none
  /-- fade-in of 32 ticks, or fall to zero (R395). -/
  resume : Ramp := { start := 1, target := 1 }
  /-- value from which the output falls to zero (R394). -/
  fallFrom : Int := 0
  /-- code loaded (R391). -/
  value : Int := 0
  /-- codes loaded in the latest 256 us, newest first (R399). -/
  hist : List Int := []
  /-- faults in force (R400). -/
  faults : Nat := 0
  /-- consecutive cycles that met each condition (R400). -/
  bad : List Nat := []
  /-- consecutive cycles that did not (R400). -/
  ok : List Nat := []
  /-- faults raised since reset (R404). -/
  raised : Nat := 0
  /-- monitoring cycles since reset (R404). -/
  cycle : Nat := 0
  /-- RMS of the loaded codes (R404). -/
  rmsL : Int := -32768
  /-- RMS measured (R404). -/
  rmsM : Int := -32768
  /-- DC loaded (R404). -/
  dcL : Int := 0
  /-- DC measured (R404). -/
  dcM : Int := 0
  /-- load impedance (R404). -/
  ohms : Nat := 4294967295
deriving DecidableEq, Repr, Inhabited

/-- One control output (R397, R398). -/
structure CopCv where
  /-- span (R403). -/
  span : Nat := 1
  /-- slew step (R403). -/
  sigma : Nat := 4096
  /-- slew interval (R403). -/
  interval : Nat := 1
  /-- code in force (R397). -/
  code : Nat := 0
  /-- demand (R398). -/
  demand : Nat := 0
  /-- the next demand is loaded directly (R397). -/
  fresh : Bool := true
  /-- servo updates since the latest move (R398). -/
  count : Nat := 0
  /-- supervision of the output (R399). -/
  mon : CopOut := {}
deriving DecidableEq, Repr, Inhabited

/-- The coping (chapter 15). -/
structure Coping where
  /-- held in reset (R401). -/
  held : Bool := true
  /-- outputs clamped to ground (R401). -/
  clamped : Bool := true
  /-- leaf selected (R21). -/
  source : Option LeafId := some .a
  /-- leaf and render sample counter of the samples loaded last (R393). -/
  loaded : Option (Option LeafId × Nat) := none
  /-- coping ticks (R22). -/
  tick : Nat := 0
  /-- strobe lost (R395). -/
  lost : Bool := false
  /-- leaf whose strobe was lost (R405). -/
  lostBy : Nat := 0
  /-- current limit folded back (R511). -/
  foldBack : Bool := false
  /-- audio outputs (R391). -/
  outs : List (Nat × CopOut) := []
  /-- control outputs (R397). -/
  cvs : List (Nat × CopCv) := []
  /-- commands that take effect at the next load strobe (R402). -/
  staged : List Cmd := []
deriving DecidableEq, Repr, Inhabited

/-- What a leaf delivers to the coping (R23, R391). -/
structure CopFeed where
  /-- render sample counter (R393). -/
  sample : Nat := 0
  /-- samples by output, zero where not listed (R391). -/
  vals : List (Nat × Int) := []
  /-- withheld by its verdict (R415). -/
  held : Bool := false
deriving DecidableEq, Repr, Inhabited

/-- An entry of the repeat table (R444). -/
structure EccHit where
  /-- bank, 48 on for program memory (R444). -/
  bank : Nat := 0
  /-- row (R444). -/
  row : Nat := 0
  /-- slot (R444). -/
  slot : Nat := 0
  /-- corrected bit position (R444). -/
  pos : Nat := 0
  /-- hit count (R444). -/
  hits : Nat := 1
  /-- the word has been written since the latest hit (R444). -/
  rewritten : Bool := false
  /-- marked weak (R447). -/
  weak : Bool := false
  /-- a scrub is due (R445). -/
  scrub : Bool := false
  /-- repeated reads of one bad copy (R444). -/
  reads : Nat := 0
  /-- time of the latest hit (R446). -/
  at_ : Nat := 0
  /-- 0 no field repair due, 1 due by the repair mode, 2 ordered by DIAG_REPAIR (R447). -/
  repair : Nat := 0
  /-- its field entry is written (R447). -/
  repaired : Bool := false
deriving DecidableEq, Repr, Inhabited

/-- A repair: a spare in place of a row or a bit-column (R448). -/
structure EccRepair where
  /-- bank (R448). -/
  bank : Nat := 0
  /-- 0 row, 1 bit-column (R455). -/
  kind : Nat := 0
  /-- row or bit-column replaced (R448). -/
  index : Nat := 0
  /-- spare row 0 to 7 or spare column 0 and 1 (R448). -/
  spare : Nat := 0
deriving DecidableEq, Repr, Inhabited

/-- An entry of a bank's merge buffer (R439). -/
structure MergeEntry where
  /-- row (R439). -/
  row : Nat := 0
  /-- slot (R439). -/
  slot : Nat := 0
  /-- bytes written (R439). -/
  strobes : BitVec 8 := 0
  /-- their values (R439). -/
  data : BitVec 64 := 0
deriving DecidableEq, Repr, Inhabited

/-- One ashlar bank (R433 to R439). -/
structure AshBank where
  /-- 0 its course, 1 the bulk-transfer engine, 2 the control cores (R434). -/
  owner : Nat := 0
  /-- merge buffer, oldest first (R439). -/
  merge : List MergeEntry := []
  /-- COLLIDE responses given (R437). -/
  collides : Nat := 0
deriving DecidableEq, Repr, Inhabited

/-- A word whose uncorrectable error poisons feeds (R442, R443). -/
structure PoisonWord where
  /-- bank (R443). -/
  bank : Nat := 0
  /-- row (R443). -/
  row : Nat := 0
  /-- slot (R443). -/
  slot : Nat := 0
  /-- feeds whose computation takes it (R443). -/
  feeds : List Nat := []
  /-- hard-faulted (R443). -/
  hard : Bool := false
deriving DecidableEq, Repr, Inhabited

/-- Memories and bus matrix of a leaf (chapter 17). -/
structure Ecc where
  /-- repeat table (R444). -/
  table : List EccHit := []
  /-- overflow corrections (R446). -/
  overflow : Nat := 0
  /-- factory fuse map (R448). -/
  fuse : List EccRepair := []
  /-- field-repair table in boot flash (R448). -/
  field : List EccRepair := []
  /-- spares taken by boot marches and not in the table (R490). -/
  boot : List EccRepair := []
  /-- ashlar banks (R434). -/
  banks : List (Nat × AshBank) := []
  /-- ashlar words that are not zero, keyed (bank·4096 + row)·64 + slot (R433). -/
  words : List (Nat × BitVec 64) := []
  /-- poisoned words in use (R443). -/
  poison : List PoisonWord := []
  /-- feeds poisoned for the coming sample alone (R465). -/
  once : List Nat := []
  /-- oscillators (voice, number) that output 0 for the coming sample (R465). -/
  quietOsc : List (Nat × Nat) := []
  /-- clip channels (player, channel) that output 0 for the coming sample (R465). -/
  quietClip : List (Nat × Nat) := []
  /-- halted courses (R442). -/
  halted : List Nat := []
  /-- a fault self-flags the coming sample (R413). -/
  flag : Bool := false
  /-- ashlar corrections (R498). -/
  corrAshlar : Nat := 0
  /-- program-memory corrections per course (R441). -/
  corrProgram : List (Nat × Nat) := []
  /-- DRAM corrections (R498). -/
  corrDram : Nat := 0
  /-- uncorrectable errors (R498). -/
  uncorr : Nat := 0
  /-- BUS_DECERR cases (R498). -/
  decerr : Nat := 0
  /-- repair mode (R498). -/
  mode : Nat := 2
deriving DecidableEq, Repr, Inhabited

/-- A throttled master (R464). -/
structure Throttle where
  /-- bank (R464). -/
  bank : Nat := 0
  /-- row (R464). -/
  row : Nat := 0
  /-- master class (R450). -/
  cls : Nat := 0
  /-- master instance (R450). -/
  unit : Nat := 0
deriving DecidableEq, Repr, Inhabited

/-- One DRAM channel (R459 to R464). -/
structure DramCh where
  /-- doubled refresh rate (R462). -/
  doubled : Bool := false
  /-- consecutive readings that ask for the normal rate (R462). -/
  run : Nat := 0
  /-- latest MR4 refresh-rate field (R462). -/
  mr4 : Nat := 0
  /-- postponed refreshes (R461). -/
  postponed : Nat := 0
  /-- request queue of each bank, head first (R459). -/
  queues : List (Nat × List DramReq) := []
  /-- requests that wait for a free entry of their bank's queue (R459). -/
  held : List DramReq := []
  /-- the open row of a bank (R459). -/
  opened : List (Nat × Nat) := []
  /-- consecutive hits served from a bank's open row (R459). -/
  hits : List (Nat × Nat) := []
  /-- bank last activated (R459). -/
  last : Nat := 0
  /-- refreshes issued (R461). -/
  issued : Nat := 0
  /-- masters throttled for the rest of the window (R464). -/
  throttled : List Throttle := []
deriving DecidableEq, Repr, Inhabited

/-- Delays of a byte lane (R466). -/
structure LaneDelay where
  /-- read delay (R466). -/
  read : Nat := 0
  /-- write delay (R466). -/
  write : Nat := 0
  /-- command delay (R466). -/
  cmd : Nat := 0
deriving DecidableEq, Repr, Inhabited

/-- DRAM controller of a leaf (chapter 18). -/
structure Dramc where
  /-- channels (R456). -/
  chans : List (Nat × DramCh) := []
  /-- test frequency of 3 200 MT/s (R467). -/
  test : Bool := false
  /-- delays of the byte lanes (R466). -/
  lanes : List LaneDelay := List.replicate 16 {}
  /-- a relock of the DRAM PLL waits for the end of a delay sweep (R469). -/
  relock : Bool := false
deriving DecidableEq, Repr, Inhabited

/-- A trace record (R480). -/
structure Trace where
  /-- render time base (R480). -/
  time : Nat := 0
  /-- control-cycle counter (R480). -/
  cycle : Nat := 0
  /-- record sequence number (R480). -/
  seq : Nat := 0
  /-- kind (R480). -/
  kind : Nat := 0
  /-- core (R480). -/
  core : Nat := 255
  /-- context (R480). -/
  thread : Nat := 0
  /-- its priority (R480). -/
  prio : Nat := 0
  /-- thread preempted or replaced (R480). -/
  other : Nat := 255
  /-- its priority (R480). -/
  otherPrio : Nat := 0
  /-- event queue (R480). -/
  queue : Nat := 65535
  /-- wake tick, tag or count (R480). -/
  arg : Nat := 0
  /-- queue entries after the decision (R480). -/
  depth : Nat := 0
deriving DecidableEq, Repr, Inhabited

/-- A thread context (R472). -/
structure Thread where
  /-- 0 free, 1 ready, 2 running, 3 blocked, 4 delayed (R472). -/
  state : Nat := 0
  /-- priority (R472). -/
  prio : Nat := 0
  /-- core that last ran it (R472). -/
  last : Nat := 255
  /-- the one core it may run on (R474). -/
  only : Option Nat := none
  /-- wake tick (R476). -/
  wake : Nat := 0
  /-- queue it blocks on (R477). -/
  queue : Nat := 65535
  /-- cancelled while running (R479). -/
  cancel : Bool := false
deriving DecidableEq, Repr, Inhabited

/-- A control core (R472, R473). -/
structure SchCore where
  /-- thread it runs (R472). -/
  run : Option Nat := none
  /-- next slot (R473). -/
  next : Option Nat := none
deriving DecidableEq, Repr, Inhabited

/-- An event queue (R477). -/
structure SchQueue where
  /-- entries, oldest first (R477). -/
  entries : List Nat := []
  /-- posts that back-pressured hardware producers hold (R477). -/
  held : List Nat := []
  /-- refused posts since the previous report (R481). -/
  refused : Nat := 0
deriving DecidableEq, Repr, Inhabited

/-- Hardware scheduler of a leaf (chapter 19). -/
structure Sched where
  /-- contexts that are not free (R472). -/
  threads : List (Nat × Thread) := []
  /-- ready lists by priority, head first (R472). -/
  ready : List (Nat × List Nat) := []
  /-- cores (R471). -/
  cores : List (Nat × SchCore) := []
  /-- event queues (R477). -/
  queues : List (Nat × SchQueue) := []
  /-- 10 us scheduler tick (R476). -/
  tick : Nat := 0
  /-- trace mask (R498). -/
  mask : BitVec 32 := 0x1FFFF
  /-- trace ring, oldest first (R480). -/
  trace : List Trace := []
  /-- sequence number of the next record (R480). -/
  seq : Nat := 0
deriving DecidableEq, Repr, Inhabited

/-- A thing the module sends out. -/
structure Output where
  /-- 0 MSI-X message, 1 host memory write, 2 network frame, 3 media packet, 7 PTP or network-control frame (R13). -/
  kind : Nat := 0
  /-- function, leaf, port or stream (R13). -/
  unit : Nat := 0
  /-- vector, address or sequence number (R13). -/
  a : Nat := 0
  /-- time or claim (R13). -/
  b : Nat := 0
  /-- bytes (R13). -/
  data : List Byte := []
deriving DecidableEq, Repr, Inhabited

/-- One render die. -/
structure Leaf where
  /-- MOD_STATUS.PWR (R43). -/
  pwr : Nat := 0
  /-- MOD_STATUS.RUN (R43). -/
  run : Nat := 0
  /-- READY has been reported since the latest module reset (R483). -/
  wasReady : Bool := false
  /-- boot state (R485). -/
  boot : Boot := {}
  /-- clocks (R343). -/
  clk : Clk := {}
  /-- its scene (R35). -/
  scene : Scene := {}
  /-- ETH0 (R315). -/
  port0 : Port := {}
  /-- ETH1 (R315). -/
  port1 : Port := {}
  /-- PDM capture (R374). -/
  mics : Mics := {}
  /-- sample finished last, for the coping (R23). -/
  cop : CopFeed := {}
  /-- the one before, which the next load strobe takes (R23). -/
  copPrev : CopFeed := {}
  /-- memories and bus matrix (R433). -/
  ecc : Ecc := {}
  /-- DRAM controller (R456). -/
  dramc : Dramc := {}
  /-- hardware scheduler (R472). -/
  sched : Sched := {}
  /-- the liveness pulse has stopped (R19). -/
  stopped : Bool := false
  /-- the peer's scene after a split takeover (R424). -/
  guest : Option Scene := none
deriving DecidableEq, Repr, Inhabited

/-- The whole module. -/
structure State where
  /-- the variant (R2). -/
  variant : Variant := .zl4824t
  /-- function 0 (R29). -/
  f0 : Fn := {}
  /-- function 1 (R29). -/
  f1 : Fn := {}
  /-- function 2 (R29). -/
  f2 : Fn := {}
  /-- leaf A (R13). -/
  la : Leaf := {}
  /-- leaf B (R13). -/
  lb : Leaf := {}
  /-- redundancy (R431). -/
  red : Red := {}
  /-- the coping (R391). -/
  cop : Coping := {}
  /-- module controller (R13). -/
  plinth : Plinth := {}
  /-- what the module has sent out, newest last (R13). -/
  outbox : List Output := []
  /-- free values taken so far (the model's own field) (R52). -/
  freeCount : Nat := 0
  /-- commands waiting for a step (the model's own queue) (R49). -/
  pending : List Instr := []
deriving DecidableEq, Repr, Inhabited

/-- The machine right after reset. -/
def State.reset : State := {}

end Sys2Proof.Machine
end

