-- ==== Sys2Proof/Machine/Ops.lean ====
section
/-! DEFINITION. The named operations on functions, leaves, byte memories, time, interrupts, event
and completion rings that every family of commands shares. -/

namespace Sys2Proof.Machine

/-! Byte memories: sorted cells, an unlisted address at the value of a default. -/

/-- The byte at an address; `d` gives what an unlisted address reads as. -/
def mget (d : Nat → Byte) (m : List Host.Cell) (a : Nat) : Byte :=
  match m with
  | [] => d a
  | (i, v) :: r => if i = a then v else mget d r a

/-- The cells without an address. -/
def mdel (m : List Host.Cell) (a : Nat) : List Host.Cell :=
  match m with
  | [] => []
  | (i, v) :: r => if i = a then mdel r a else (i, v) :: mdel r a

/-- The cells with an address listed, in rising order. -/
def mins (m : List Host.Cell) (a : Nat) (v : Byte) : List Host.Cell :=
  match m with
  | [] => [(a, v)]
  | (i, w) :: r => if a < i then (a, v) :: (i, w) :: r
                   else if i = a then (a, v) :: r else (i, w) :: mins r a v

/-- A byte write that keeps the canonical form. -/
def mset (d : Nat → Byte) (m : List Host.Cell) (a : Nat) (v : Byte) : List Host.Cell :=
  if v = d a then mdel m a else mins m a v

/-- Bytes written from an address on
(DESIGN CHOICE, log entry 6). -/
def mwrite (d : Nat → Byte) (m : List Host.Cell) (a : Nat) : List Byte → List Host.Cell
  | [] => m
  | v :: r => mwrite d (mset d m a v) (a + 1) r

/-- `n` bytes from an address on
(DESIGN CHOICE, log entry 6). -/
def mread (d : Nat → Byte) (m : List Host.Cell) (a n : Nat) : List Byte :=
  (List.range n).map fun i => mget d m (a + i)

/-- Rising addresses, none at or below `lo`. -/
def risingFrom (lo : Nat) : List Host.Cell → Bool
  | [] => true
  | (i, _) :: r => decide (lo ≤ i) && risingFrom (i + 1) r

/-- The canonical form of a byte memory: addresses strictly rise and no entry equals what an
unlisted address reads as
(DESIGN CHOICE, log entry 6). -/
def Memory.wf (d : Nat → Byte) (m : List Host.Cell) : Bool :=
  risingFrom 0 m && m.all fun c => c.2 != d c.1

/-- What an unwritten byte of a mailbox window reads as (DESIGN CHOICE, log entry 6). -/
def winDefault : Nat → Byte := fun _ => 0

/-- What an unwritten byte of an MSI-X table reads as: PCI Express sets the mask bit of each vector
(R40, PRESUMED, log entry 5). -/
def msixDefault : Nat → Byte := fun a => if a % 16 = 12 then 1 else 0

/-! Access to the parts of the state. -/

/-- The mailbox hardware of a function. -/
def State.fn (s : State) : FnId → Fn
  | .f0 => s.f0
  | .f1 => s.f1
  | .f2 => s.f2

/-- The state with the mailbox hardware of a function replaced. -/
def State.setFn (s : State) : FnId → Fn → State
  | .f0, x => { s with f0 := x }
  | .f1, x => { s with f1 := x }
  | .f2, x => { s with f2 := x }

/-- A change of one function's mailbox hardware. -/
def State.modFn (s : State) (f : FnId) (g : Fn → Fn) : State := s.setFn f (g (s.fn f))

/-- A change of the queues, rings and buffers behind one function. -/
def State.modMail (s : State) (f : FnId) (g : Mail → Mail) : State :=
  s.modFn f fun x => { x with mail := g x.mail }

/-- A leaf. -/
def State.leaf (s : State) : LeafId → Leaf
  | .a => s.la
  | .b => s.lb

/-- The state with a leaf replaced. -/
def State.setLeaf (s : State) : LeafId → Leaf → State
  | .a, x => { s with la := x }
  | .b, x => { s with lb := x }

/-- A change of one leaf. -/
def State.modLeaf (s : State) (l : LeafId) (g : Leaf → Leaf) : State := s.setLeaf l (g (s.leaf l))

/-- Redundancy state of a leaf. -/
def Red.of (r : Red) : LeafId → RedLeaf
  | .a => r.a
  | .b => r.b

/-- Redundancy state with that of a leaf replaced. -/
def Red.set (r : Red) : LeafId → RedLeaf → Red
  | .a, x => { r with a := x }
  | .b, x => { r with b := x }

/-- A change of one leaf's redundancy state. -/
def State.modRed (s : State) (l : LeafId) (g : RedLeaf → RedLeaf) : State :=
  { s with red := s.red.set l (g (s.red.of l)) }

/-- A thing sent out
(DESIGN CHOICE, log entry 43). -/
def State.send (s : State) (o : Output) : State := { s with outbox := s.outbox ++ [o] }

/-- A fresh free value: the state's count names it (DESIGN CHOICE, log entry 3). -/
def State.fresh (s : State) (what : String) : Nat × State :=
  (Config.free what s.freeCount, { s with freeCount := s.freeCount + 1 })

/-! Which leaf serves which function (R35). -/

/-- A leaf is present in the variant, powered and has reported READY. -/
def State.alive (s : State) (l : LeafId) : Bool := (s.leaf l).run == 2

/-- A leaf runs logic BIST, which takes it from its function (R38, R492). -/
def Leaf.bist (x : Leaf) : Bool := x.boot.tests.any fun t => t.op == 0x0F01

/-- A leaf runs and can serve a function (R38). -/
def State.serving (s : State) (l : LeafId) : Bool := s.alive l && !(s.leaf l).bist

/-- The leaf that a function reaches when nothing has failed (R35); none for function 2. -/
def State.home (s : State) : FnId → Option LeafId
  | .f2 => none
  | .f0 => match s.red.mode with
    | 1 => some s.red.active
    | 2 => some s.red.sceneA
    | _ => some .a
  | .f1 => match s.red.mode with
    | 1 => some s.red.active.other
    | 2 => some s.red.sceneA.other
    | _ => some .b

/-- The function whose scene a leaf serves by R35
(DESIGN CHOICE, log entry 27). -/
def State.fnOf (s : State) (l : LeafId) : FnId :=
  if s.home .f0 = some l then .f0 else .f1

/-- The leaf that serves a function now, and whether it does so as the survivor of a split
takeover (R423). -/
def State.server (s : State) (f : FnId) : Option (LeafId × Bool) :=
  match s.home f with
  | none => none
  | some l =>
    if s.red.mode = 2 ∧ ((s.leaf l.other).guest.isSome = true) ∧ (s.red.of l).lost = true then
      (if s.serving l.other then some (l.other, true) else none)
    else if s.serving l then some (l, false) else none

/-- The leaves that carry out a function's commands: in twin mode both leaves carry out those of
function 0, the active leaf first, a demoted one included (R36, R417)
(DESIGN CHOICE, log entry 27). -/
def State.servers (s : State) (f : FnId) : List (LeafId × Bool) :=
  match s.server f with
  | none => []
  | some (l, g) =>
    if s.red.mode = 1 ∧ f = .f0 ∧ s.serving l.other = true ∧ (s.red.of l.other).lost = false then
      [(l, g), (l.other, false)] else [(l, g)]

/-- A function is unserved: no running leaf serves it and no takeover is under way (R38). -/
def State.takingOver (s : State) (f : FnId) : Bool :=
  match s.red.takeover with
  | none => false
  | some t => s.home f == some t.lost || (t.both && f != .f2)

/-- A function is unserved (R38). -/
def State.unserved (s : State) (f : FnId) : Bool :=
  f != .f2 && (s.server f).isNone && !s.takingOver f

/-- Function 1 shows the standby read-only (R37). -/
def State.roView (s : State) (f : FnId) : Bool := f == .f1 && s.red.mode == 1

/-- `FN_STATE.SCENE_STATE` (R41, R483). -/
def State.sceneState (s : State) (f : FnId) : Nat :=
  if f = .f2 then (if s.f2.capsDone then 2 else 1)
  else if s.takingOver f then 3
  else if s.unserved f then
    (match s.home f with
     | some l => if (s.leaf l).wasReady then 4 else 0
     | none => 4)
  else if s.roView f || (s.fn f).capsDone then 2 else 1

/-- `FN_STATE` (R41). -/
def State.fnState (s : State) (f : FnId) : Nat :=
  let leaf := match s.server f with
    | none => 3
    | some (l, _) => if s.red.mode = 1 ∧ f = .f0 then 2 else l.num
  let claim := match s.server f with
    | none => 0
    | some (l, _) => (s.red.of l).claim
  s.sceneState f + 16 * leaf + 64 * s.red.mode + 256 * b2n (s.roView f) + 4096 * claim

/-! Time. -/

/-- The rates of the rate codes of `CAPS_SUM.RATE` in Hz (R41); 0 for none. -/
def rateHz : Nat → Nat
  | 1 => 44100
  | 2 => 48000
  | 3 => 88200
  | 4 => 96000
  | 5 => 176400
  | 6 => 192000
  | _ => 0

/-- The default of a time base that is not listed. -/
def tb0 : TimeBase := {}

/-- A time base of a leaf. -/
def Leaf.tb (x : Leaf) (i : Nat) : TimeBase := tget x.clk.tbs i tb0

/-- A change of one time base. -/
def Leaf.modTb (x : Leaf) (i : Nat) (g : TimeBase → TimeBase) : Leaf :=
  { x with clk := { x.clk with tbs := tmod x.clk.tbs i tb0 g } }

/-- The time of a time base in whole nanoseconds: tns (R47). Its unit is 2^-48 of 0.625 ns. -/
def TimeBase.tns (t : TimeBase) : Nat := t.t * 5 / 2 ^ 51

/-- Advance by render cycles: each adds 0.625 ns × (1 + y) (R343). -/
def TimeBase.advance (t : TimeBase) (k : Nat) : TimeBase :=
  { t with t := ((t.t : Int) + (k : Int) * (2 ^ 48 + t.y)).toNat }

/-- The render time base of a leaf now, in tns
(DESIGN CHOICE, log entry 15). -/
def Leaf.now (x : Leaf) : Nat := (x.tb x.clk.dom.tb).tns

/-- Render rate in Hz, 0 without one. -/
def Leaf.fs (x : Leaf) : Nat := rateHz x.clk.dom.rate

/-- The coming sample: the one whose meridian is next
(DEDUCED, log entry 18). -/
def Leaf.next (x : Leaf) : Nat := x.clk.dom.sample + 1

/-- Whole-nanosecond time of media-clock count `c` at `fs` (R362). -/
def countTns (fs c : Nat) : Nat := if fs = 0 then 0 else c * 1000000000 / fs

/-- The media-clock count of the coming meridian: one after the latest, or after a step the first
whose instant is at least a full period behind it (R356). -/
def Domain.nextCount (d : Domain) : Nat :=
  let fs := rateHz d.rate
  if d.minNext = 0 then d.count + 1
  else (d.minNext * 5 * fs + (1000000000 * 2 ^ 51 - 1)) / (1000000000 * 2 ^ 51)

/-- Meridian of the coming sample in tns; 0 while the domain has no rate. -/
def Leaf.nextTns (x : Leaf) : Nat := countTns x.fs x.clk.dom.nextCount

/-- The count of the sample that a time `t` belongs to: the meridian of that count is at or before
it, and the next one is after it (R55). -/
def countOf (fs t : Nat) : Nat := t * fs / 1000000000

/-- Time in tns of the leaf that serves a function; 0 without one. -/
def State.fnNow (s : State) (f : FnId) : Nat :=
  match s.server f with
  | none => 0
  | some (l, _) => (s.leaf l).now

/-! Interrupts (R43, R44). -/

/-- The vector a cause is mapped to. -/
def Fn.vector (x : Fn) (cause : Nat) : Nat := bits x.intVector.toNat (4 * cause + 3) (4 * cause)

/-- The vector's mask bit in the MSI-X table is set. -/
def Fn.vecMasked (x : Fn) (v : Nat) : Bool :=
  (mget msixDefault x.mail.msix (16 * v + 12)).toNat % 2 == 1

/-- Send the MSI-X message of a vector, or hold it as a pending bit while the vector is masked, Bus
Master Enable is clear or the function is in D3hot (R31, R32, R44). While the link is down it is held
the same way (DESIGN CHOICE, log entry 52). -/
def State.signal (s : State) (f : FnId) (v : Nat) : State :=
  let x := s.fn f
  if s.plinth.link && x.mail.bme && !x.mail.d3 && !x.vecMasked v then
    s.send { kind := 0, unit := f.num, a := v }
  else s.modMail f fun m => { m with pba := m.pba ||| BitVec.ofNat 16 (2 ^ v) }

/-- Set a cause in `INT_STATUS`. -/
def Fn.setCause (x : Fn) (cause : Nat) : Fn :=
  { x with intStatus := x.intStatus ||| BitVec.ofNat 8 (2 ^ cause) }

/-- A cause is masked in `INT_MASK`. -/
def Fn.masked (x : Fn) (cause : Nat) : Bool := bit x.intMask.toNat cause

/-- Raise a cause that is not moderated: an unmasked cause that changes from 0 to 1 signals. -/
def State.raise (s : State) (f : FnId) (cause : Nat) : State :=
  let x := s.fn f
  let s := s.setFn f (x.setCause cause)
  if bit x.intStatus.toNat cause || x.masked cause then s else s.signal f (x.vector cause)

/-- A record was posted: raise `CQ` (0) or `EQ` (1) under moderation. With both moderation fields
zero each record signals; otherwise a message is due when a criterion is met (R44). Both rings share one
count of unsignalled records and one delay (DESIGN CHOICE, log entry 51). -/
def State.raiseRecord (s : State) (f : FnId) (cause : Nat) : State :=
  let x := s.fn f
  let s := s.setFn f (x.setCause cause)
  if x.masked cause then s
  else if x.modDelay = 0 ∧ x.modCount = 0 then s.signal f (x.vector cause)
  else
    let n := x.mail.unsignalled + 1
    let cq := x.mail.modCq || cause == 0
    let eq := x.mail.modEq || cause == 1
    if x.modCount ≠ 0 ∧ x.modCount ≤ n then
      let s := s.modMail f fun m => { m with unsignalled := 0, modRun := false, modCq := false, modEq := false }
      let s := if cq then s.signal f (x.vector 0) else s
      if eq && !(cq && x.vector 0 == x.vector 1) then s.signal f (x.vector 1) else s
    else s.modMail f fun m =>
      { m with unsignalled := n, modRun := x.modDelay ≠ 0, modCq := cq, modEq := eq }

/-! Doorbell and write errors (R42). -/

/-- Set a bit of `DB_ERR` and with it `INT_STATUS.DB_ERR`. -/
def State.dbError (s : State) (f : FnId) (i : Nat) : State :=
  (s.modFn f fun x => { x with dbErr := x.dbErr ||| BitVec.ofNat 4 (2 ^ i) }).raise f 5

/-- Set a bit of `DB_ERR` that records a slot. -/
def State.dbErrorSlot (s : State) (f : FnId) (i slot : Nat) : State :=
  (s.modFn f fun x => { x with lastSlot := slot % 32 }).dbError f i

/-! Events (R67 to R69). -/

/-- Entries of the event ring that are free. -/
def Fn.eqFree (x : Fn) : Nat := 1024 - (x.eqProd + 65536 - x.eqCons) % 65536

/-- Entries of the completion ring that are free. -/
def Fn.cqFree (x : Fn) : Nat := 64 - (x.cqProd + 65536 - x.cqCons) % 65536

/-- Write one event record into the ring
(DESIGN CHOICE, log entry 15). -/
def State.putEvent (s : State) (f : FnId) (e : Event) : State :=
  let s := s.modFn f fun x =>
    { x with
      eqProd := (x.eqProd + 1) % 65536,
      mail := { x.mail with
        eq := tins x.mail.eq (x.eqProd % 1024) { e with seq := x.mail.seqE },
        seqE := (x.mail.seqE + 1) % 4294967296 } }
  let s := s.raiseRecord f 1
  if e.severity = 3 then s.raise f 2 else s

/-- Discard one event: it consumes a sequence number and is counted (R67, R68). -/
def State.dropEvent (s : State) (f : FnId) : State :=
  (s.modFn f fun x =>
    { x with
      eqLost := min 4294967295 (x.eqLost + 1),
      mail := { x.mail with
        lostFirst := if x.mail.lostSince = 0 then x.mail.seqE else x.mail.lostFirst,
        lostSince := min 4294967295 (x.mail.lostSince + 1),
        seqE := (x.mail.seqE + 1) % 4294967296 } }).raise f 3

/-- Post `EVENTS_LOST` where the host has freed an entry since a discard (R68, R69). -/
def State.reportLost (s : State) (f : FnId) : State :=
  let m := (s.fn f).mail
  if m.lostDue && decide (0 < m.lostSince) && decide (0 < (s.fn f).eqFree) then
    let s := s.modMail f fun m => { m with lostDue := false, lostSince := 0 }
    s.putEvent f { code := 0x01F0, severity := 2, time := s.fnNow f,
                   leaf := (match s.server f with | none => 255 | some (l, _) => l.num),
                   payload := le32 m.lostSince ++ le32 m.lostFirst }
  else s

/-- Post an event to a function's ring, or discard it (R68)
(DESIGN CHOICE, log entry 45). -/
def State.event (s : State) (f : FnId) (e : Event) : State :=
  if f = .f1 ∧ s.variant.hasB = false then s else
    let s := s.reportLost f
    let free := (s.fn f).eqFree
    if (if e.severity = 3 then 1 else 8) ≤ free then s.putEvent f e else s.dropEvent f

/-- Post an event to several functions. -/
def State.events (s : State) (fs : List FnId) (e : Event) : State :=
  fs.foldl (fun s f => s.event f e) s

/-- An event of a leaf for its own function. -/
def State.leafEvent (s : State) (l : LeafId) (code sev subject : Nat) (payload : List Byte)
    (autonomy : Nat := 255) (flags : Nat := 0) (tag : Nat := 0) : State :=
  s.event (s.fnOf l) { code := code, severity := sev, leaf := l.num, autonomy := autonomy,
                       flags := flags, tag := tag, time := (s.leaf l).now, subject := subject,
                       payload := payload }

/-- An event about a scene that a leaf renders: its own, or the peer's after a split takeover, whose
function it serves too (R423). -/
def State.sceneEvent (s : State) (l : LeafId) (guest : Bool) (code sev subject : Nat) (payload : List Byte)
    (autonomy : Nat := 255) (flags : Nat := 0) (tag : Nat := 0) : State :=
  s.event (s.fnOf (if guest then l.other else l))
    { code := code, severity := sev, leaf := l.num, autonomy := autonomy, flags := flags, tag := tag,
      time := (s.leaf l).now, subject := subject, payload := payload }

/-- An event of the plinth or the module controller on function 2, with the tag of the command that
caused it (R48). It has no time base and carries time 0 (R67). -/
def State.modEvent (s : State) (code sev : Nat) (payload : List Byte) (autonomy : Nat := 255)
    (flags : Nat := 0) (subject : Nat := 4294967295) (tag : Nat := 0) : State :=
  s.event .f2 { code := code, severity := sev, leaf := 255, autonomy := autonomy, flags := flags,
                tag := tag, subject := subject, payload := payload }

/-- The payload of a report: its front, the count, a second count where it has one, and the rest
(DESIGN CHOICE, log entry 45). -/
def Rep.payload (r : Rep) : List Byte :=
  r.front ++ leBytes r.width r.count ++ leBytes r.width2 r.count2 ++ r.extra

/-- Two reports are of one event, subject and leaf (R519). -/
def Rep.same (r q : Rep) : Bool := q.code == r.code && q.subject == r.subject && q.key == r.key && q.clock == r.clock

/-- A report with the cases of another added; its payload is the latest case's, or stays that of the
first counted case (R109)
(DESIGN CHOICE, log entry 45). -/
def Rep.add (q r : Rep) : Rep :=
  if q.count = 0 then { r with last := q.last, every := q.every }
  else
    let t := { q with count := q.count + r.count, count2 := q.count2 + r.count2 }
    if q.keep then t else { t with front := r.front, extra := r.extra }

/-- An interval has passed since a report (R519). A leaf that has been reset counts afresh
(DESIGN CHOICE, log entry 45). -/
def State.repDue (s : State) (q : Rep) : Bool :=
  let now := (s.leaf q.clock).clk.cycles
  decide (q.last + q.every ≤ now) || decide (now < q.last)

/-- Post a report: on function 2 it comes from no leaf and has no time (R67). -/
def State.postRep (s : State) (f : FnId) (r : Rep) : State :=
  s.event f { code := r.code, severity := r.sev, leaf := if f = .f2 then 255 else r.clock.num,
              time := if f = .f2 then 0 else (s.leaf r.clock).now, subject := r.subject, payload := r.payload,
              autonomy := r.autonomy, flags := r.flags }

/-- A report has been made: its interval begins (R519). -/
def State.sentRep (s : State) (r : Rep) : Rep :=
  { r with count := 0, count2 := 0, last := (s.leaf r.clock).clk.cycles }

/-- Report a case of an event that is raised at most once per interval (R519): at once where no report
of its subject was made within the last interval, else it is counted. The payload holds `r.front`, the
count in `r.width` bytes, and `r.extra`. -/
def State.reportOn (s : State) (f : FnId) (l : LeafId) (r0 : Rep) : State :=
  let r := { r0 with clock := l }
  match (s.fn f).mail.reps.find? r.same with
  | none =>
    let s := s.postRep f r
    s.modMail f fun m => { m with reps := m.reps ++ [s.sentRep r] }
  | some q =>
    let t := q.add r
    if s.repDue q then
      let s := s.postRep f t
      s.modMail f fun m => { m with reps := mapIf r.same (fun _ => s.sentRep t) m.reps }
    else s.modMail f fun m => { m with reps := mapIf r.same (fun _ => t) m.reps }

/-- A report of a leaf with the count at the front of its payload. -/
def State.report (s : State) (l : LeafId) (code sev subject n : Nat) (extra : List Byte) (keep : Bool := false) : State :=
  s.reportOn (s.fnOf l) l { code := code, subject := subject, sev := sev, extra := extra, count := n, keep := keep }

/-- Raise `FN_STATE_CHANGE` and `INT_STATUS.STATE` on one function when its `FN_STATE` differs from
a given value (R38, R43, R69). The plinth raises it: it has no time base (R67), and it carries the tag
of the command that caused the change (R48). -/
def State.notifyFn (s : State) (f : FnId) (old : Nat) (tag : Nat := 0) : State :=
  let new := s.fnState f
  if new = old ∨ (f = .f1 ∧ s.variant.hasB = false) then s else
    let e : Event := { code := 0x01F1, severity := 1, leaf := 255, tag := tag,
                       payload := le32 old ++ le32 new ++ le8 f.num }
    let s := s.raise f 6
    let s := s.event f e
    if f = .f2 then s else s.event .f2 e

/-- Bring the function states up to date after a change from state `old`, which a command with a tag
may have caused. -/
def State.notify (s old : State) (tag : Nat := 0) : State :=
  [FnId.f0, .f1, .f2].foldl (fun s f => s.notifyFn f (old.fnState f) tag) s

/-! The trace of the scheduler (R480). -/

/-- Write one trace record of a leaf, if the mask enables its kind; a full ring loses its oldest
record. -/
def Leaf.trace (x : Leaf) (r : Trace) : Leaf :=
  if !bit x.sched.mask.toNat r.kind then x else
    let r := { r with time := x.now, cycle := x.clk.cycles / 2 % 4294967296, seq := x.sched.seq }
    let old := if x.sched.trace.length < 65536 then x.sched.trace else x.sched.trace.drop 1
    { x with sched := { x.sched with trace := old ++ [r], seq := (x.sched.seq + 1) % 4294967296 } }

/-- Trace a step of a command on the leaf whose command thread carries it out: kind 14 accepted, 15
validated, 16 completion posted (R474, R480). The context number and the queue of the command thread
are the firmware's own, which the manual does not give
(DESIGN CHOICE, log entry 3). -/
def State.traceCmd (s : State) (f : FnId) (target kind tag : Nat) : State :=
  let l : Option LeafId := match f with
    | .f2 => if target = 1 then some .a else if target = 2 then some .b else none
    | _ => (s.server f).map fun p => p.1
  match l with
  | none => s
  | some l =>
    let two := f == .f2
    s.modLeaf l fun x => x.trace
      { kind := kind, core := if two then 1 else 0, prio := if two then 25 else 26, arg := tag,
        thread := Config.free "commandThread" f.num % 256, queue := Config.free "commandQueue" f.num % 128,
        depth := (s.fn f).mail.accepted.length }

/-! Completions (R50, R51, R64, R65). -/

/-- Release a slot. -/
def State.freeSlot (s : State) (f : FnId) (slot : Nat) : State :=
  s.modFn f fun x => { x with busy := x.busy &&& ~~~(BitVec.ofNat 32 (2 ^ slot)) }

/-- Write one completion record into the ring: the response goes into the slot first, then the
record, then the producer index advances and the slot is released (R50, R65). -/
def State.putCompletion (s : State) (f : FnId) (w : Waiting) : State :=
  let s := if w.release then
      (s.modMail f fun m => { m with win := mwrite winDefault m.win (w.record.slot * 512 + 32) w.resp }).freeSlot f w.record.slot
    else s
  let s := s.modFn f fun x =>
    { x with
      cqProd := (x.cqProd + 1) % 65536,
      mail := { x.mail with
        cq := tins x.mail.cq (x.cqProd % 64) { w.record with seq := x.mail.seqC },
        seqC := (x.mail.seqC + 1) % 4294967296 } }
  let s := if w.record.kind = 0 ∧ (s.fn f).mail.fence = some w.acc then
      s.modMail f fun m => { m with fence := none } else s
  (s.traceCmd f w.unit 16 w.record.tag).raiseRecord f 0

/-- Post a completion record once the ring has a free entry; until then it waits in order (R51). -/
def State.post (s : State) (f : FnId) (w : Waiting) : State :=
  if (s.fn f).mail.waiting.isEmpty && decide (0 < (s.fn f).cqFree) then s.putCompletion f w
  else s.modMail f fun m => { m with waiting := m.waiting ++ [w] }

/-- The leaf byte of a function's completions (R64). -/
def State.leafByte (s : State) (f : FnId) : Nat :=
  match s.server f with
  | none => 255
  | some (l, _) => l.num

/-- Post the final completion of a command. A command that has been released with an interim
completion has no slot to free and no response (R64). A command that a function-level reset or the
loss of its leaf has discarded gets none (R33, R38). A command in flight at a takeover completes with
`REPLAYED`, its status in `detail` (R39). One that took effect late carries `LATE` (R59)
(DEDUCED, log entry 22). -/
def State.final (s : State) (c : Cmd) (released : Bool) (status detail appliedAt : Nat)
    (resp : List Byte := []) : State :=
  if c.acc ≤ (s.fn c.fn).mail.floor then s else
    let late := (s.fn c.fn).mail.late.contains c.acc
    let s := if late then s.modMail c.fn fun m => { m with late := m.late.filter fun a => a != c.acc } else s
    let status := if late ∧ status = 0 then 0x0203 else status
    let again := decide (c.acc ≤ (s.fn c.fn).mail.replay)
    let detail := if again then status else detail
    let status := if again then 0x0301 else status
    let r := if released then [] else resp
    s.post c.fn
      { record := { tag := c.tag, opcode := c.op, status := status, slot := c.slot, kind := 0,
                    respLen := r.length, detail := detail, appliedAt := appliedAt,
                    leaf := s.leafByte c.fn },
        resp := r, release := !released, acc := c.acc, unit := c.target }

/-- Post an interim completion (R64); posting it releases the slot (R50) unless an earlier one has. -/
def State.interim (s : State) (c : Cmd) (status : Nat) (release : Bool := true) : State :=
  s.post c.fn
    { record := { tag := c.tag, opcode := c.op, status := status, slot := c.slot, kind := 1,
                  leaf := s.leafByte c.fn },
      resp := [], release := release, acc := c.acc, unit := c.target }

/-! Trajectories (R517). -/

/-- The value of a linear trajectory at a sample: before step 0 its start, at step j the start plus
(j + 1)/L of the way, and the target from the last step on. -/
def Ramp.at_ (r : Ramp) (n : Nat) : Rat :=
  if r.len = 0 then (if n < r.first then r.start else r.target)
  else if n < r.first then r.start
  else if r.first + r.len ≤ n + 1 then r.target
  else r.start + (r.target - r.start) * ((n - r.first + 1 : Nat) : Rat) / (r.len : Rat)

/-- The trajectory still has a step to take after sample `n`. -/
def Ramp.busy (r : Ramp) (n : Nat) : Bool := decide (n + 1 < r.first + r.len) || decide (n < r.first)

/-- A new trajectory from the value in force before sample `n` to a target, with its step 0 at
`first`. -/
def Ramp.go (r : Ramp) (n first len : Nat) (target : Rat) : Ramp :=
  { start := r.at_ (n - 1), target := target, first := first, len := len }

/-- A trajectory that rests at a value. -/
def Ramp.rest (v : Rat) : Ramp := { start := v, target := v, first := 0, len := 0 }

/-! Outcome of a step. -/

/-- The outcome of every meaning that always goes on. -/
abbrev Res := Host.Outcome State Fault Refusal

end Sys2Proof.Machine
end

