-- ==== Sys2Proof/Machine/Flags.lean ====
section
/-! DEFINITION. Sample arithmetic (chapter 4): the formats A32 and A40, the coefficient formats C24 and
C32, the lane accumulator with its rounding and saturation, the limiter and dither. -/

namespace Sys2Proof.Machine

/-- Largest A40 integer. -/
def a40Max : Int := 2 ^ 39 - 1
/-- Least A40 integer. -/
def a40Min : Int := -(2 ^ 39)

/-- An integer clamped to A40 (R107). -/
def sat40 (v : Int) : Int := clampI a40Min a40Max v
/-- An integer clamped to A32 (R101). -/
def sat32 (v : Int) : Int := clampI (-(2 ^ 31)) (2 ^ 31 - 1) v
/-- The accumulator held at its limits (R107). -/
def sat72 (v : Int) : Int := clampI (-(2 ^ 71)) (2 ^ 71) v

/-- The clamp of R107 acts on an accumulator value. -/
def over72 (v : Int) : Bool := decide (2 ^ 71 < v) || decide (v < -(2 ^ 71))

/-- Rounding of an integer by `k` bits to nearest, ties to even. -/
def roundShift (v : Int) (k : Nat) : Int := roundEven ((v : Rat) / (2 : Rat) ^ k)

/-- A value held by a coefficient of `frac` fraction bits: exact where it is representable, else one
of its two neighbours, which the manual does not choose (log entry 11, a free value; DESIGN CHOICE). -/
def coef (frac : Nat) (q : Rat) : Int :=
  let v := q * (2 : Rat) ^ frac
  if v.den = 1 then v.num else if Config.of "roundUp" [q, (frac : Rat)] < 0 then v.floor else v.floor + 1

/-- A C24 coefficient with shift `s` from a real gain, clamped to its format (R103)
(DESIGN CHOICE, log entry 11). -/
def c24 (s : Nat) (q : Rat) : Int := clampI (-(2 ^ 23)) (2 ^ 23 - 1) (coef (22 - s) q)

/-- A C24 coefficient at shift 0, whose largest gain is 1.0 (R104)
(DESIGN CHOICE, log entry 11). -/
def c24unit (q : Rat) : Int := clampI (-(2 ^ 22)) (2 ^ 22) (coef 22 q)

/-- The products of one accumulation in order, with saturation: the accumulator and whether the clamp
acted (R105, R107). Operands are sample integer and coefficient integer; `s` is the left shift. -/
def accum (s : Nat) (start : Int) (l : List (Int × Int)) : Int × Bool :=
  l.foldl (fun a p =>
    let v := a.1 + p.1 * p.2 * 2 ^ s
    if a.2 || over72 v then (sat72 (if a.2 then a.1 else v), true) else (v, false)) (start, false)

/-- A result at the coarse scale: 22 bits discarded, clamped to A40 (R106, R107). -/
def coarseOut (v : Int) : Int := sat40 (roundShift v 22)
/-- A result at the fine scale: 30 bits discarded, clamped to A40. -/
def fineOut (v : Int) : Int := sat40 (roundShift v 30)
/-- The clamp acts on a result at the coarse scale (R109). -/
def coarseSat (v : Int) : Bool := decide (a40Max < roundShift v 22) || decide (roundShift v 22 < a40Min)
/-- The clamp acts on a result at the fine scale. -/
def fineSat (v : Int) : Bool := decide (a40Max < roundShift v 30) || decide (roundShift v 30 < a40Min)

/-- One multiply at the coarse scale. -/
def mulC24 (x c : Int) (s : Nat := 0) : Int := coarseOut (accum s 0 [(x, c)]).1

/-- An A40 sample as a fraction of full scale (R101). -/
def a40Val (v : Int) : Rat := (v : Rat) / (2 : Rat) ^ 32

/-- An A32 sample as A40 (R102). -/
def a32to40 (v : Int) : Int := v * 2
/-- An L24 sample as A40 (R102). -/
def l24to40 (v : Int) : Int := v * 512

/-- The product of an A40 sample and a gain of 1.0 or less, at the coarse scale. -/
def scale (x : Int) (g : Rat) : Int := if g = 1 then x else if g = 0 then 0 else mulC24 x (c24unit g)

/-- A linear cross-fade: (1 − w)·old + w·new with weights in C24, shift 0 (R265). -/
def coarseMix (old new : Int) (w : Rat) : Int :=
  if w = 0 then old else if w = 1 then new
  else coarseOut (accum 0 0 [(old, c24unit (1 - w)), (new, c24unit w)]).1

/-! The final limiter (R110 to R112). -/

/-- The limiter's threshold in A40 steps, from its cdb value. -/
def limT (thr : Int) : Rat := amp thr * (2 : Rat) ^ 32

/-- Gain of one sample: the smoothed gain, or the quotient T/|w| rounded towards zero in C32 when that
is less (R110). -/
def limGain (s : Rat) (thr w : Int) : Rat :=
  if w = 0 then s
  else
    let q := (((limT thr / (w.natAbs : Rat)) * (2 : Rat) ^ 30).floor : Rat) / (2 : Rat) ^ 30
    minQ s q

/-- The limited sample: the product at the fine scale, clamped at ±T (R110). -/
def limOut (w : Int) (g : Rat) (thr : Int) : Int :=
  let t := (limT thr).floor
  clampI (-t) t (fineOut (w * coef 30 g))

/-- The smoothed gain of the next sample (R111). -/
def limSmooth (g : Rat) (release fs : Nat) : Rat :=
  if g = 1 then 1 else 1 - expQ (-1000 / ((release : Rat) * (fs : Rat))) * (1 - g)

/-! Dither (R113 to R115). -/

/-- The period of a dither generator's sequence (R115). -/
def ditherPeriod : Nat := 2 ^ 64 - 1

/-- A uniform value from −1/2 to 1/2 of a feed's generator, by its place in the sequence. The manual gives
the sequence's period and seed and leaves its values open (DESIGN CHOICE, log entry 19). -/
def uniformAt (feed k : Nat) : Rat := clampQ (-1 / 2) (1 / 2) (Config.of "dither" [(feed : Rat), ((k % ditherPeriod : Nat) : Rat)])

/-- The dither value in A40 steps: the sum of the generator's next two uniform values, in steps of the
mode's grid (R113, R115)
(DESIGN CHOICE, log entry 19; DEDUCED, log entry 39). -/
def ditherValue (mode feed drawn : Nat) : Rat :=
  let r := uniformAt feed drawn + uniformAt feed (drawn + 1)
  match mode with
  | 1 => r * 512
  | 2 => r * 2
  | _ => 0

/-- The place of a dither generator after one sample. -/
def ditherNext (drawn : Nat) : Nat := (drawn + 2) % ditherPeriod

/-- The slew-limited sample with its dither value, rounded on the mode's grid and clamped to A32
(R113)
(DEDUCED, log entry 39). -/
def ditherOut (mode : Nat) (z : Int) (r : Rat) : Int :=
  let grid : Int := if mode = 1 then 256 else 1
  sat32 (grid * roundEven (((z : Rat) + r) / (2 * (grid : Rat))))

/-- One slew step towards a target (R189), with σ in A32 steps
(DEDUCED, log entry 39). -/
def slewStep (sigma interval n : Nat) (z w : Int) : Int :=
  if sigma = 0 then w
  else if n % interval = 0 then z + clampI (-(2 * sigma : Nat)) (2 * sigma : Nat) (w - z) else z

/-! Compressor and dynamics (R187, R188). -/

/-- One step of the detector on a rectified input. -/
def detStep (mode : Nat) (attack release fs : Nat) (e x : Rat) : Rat :=
  let v := if mode = 2 then x * x else absQ x
  let tau : Rat := if e < v then (attack : Rat) / 100000 else (release : Rat) / 1000
  if e = 0 ∧ v = 0 then 0 else
    let b := expQ (-1 / (tau * (fs : Rat)))
    b * e + (1 - b) * v

/-- Level in dB of a detector value; none below every threshold for silence. -/
def detLevel (mode : Nat) (e : Rat) : Option Rat :=
  if e ≤ 0 then none
  else some (if mode = 2 then 10 * log10 e + 301 / 100 else 20 * log10 e)

/-- The gain computer in dB (R187). -/
def compDb (thr : Int) (ratio knee : Nat) (level : Option Rat) : Rat :=
  match level with
  | none => 0
  | some l =>
    let t : Rat := (thr : Rat) / 100
    let k : Rat := (knee : Rat) / 100
    let r : Rat := 100 / (ratio : Rat) - 1
    if l ≤ t - k / 2 then 0
    else if l < t + k / 2 then r * (l - t + k / 2) * (l - t + k / 2) / (2 * k)
    else r * (l - t)

/-- A gain in dB as an amplitude
(DESIGN CHOICE, log entry 8). -/
def dbAmp (d : Rat) : Rat := pow10 (d / 20)

/-! Wavefront interpolation (R166) and the fractional alignment delay (R184). -/

/-- A product over the indices other than `j` of (x − i)/(j − i), for i = 0 to m − 1
(DESIGN CHOICE, log entry 11). -/
def lagrange (m j : Nat) (x : Rat) : Rat :=
  (List.range m).foldl (fun p i => if i = j then p else p * (x - (i : Rat)) / ((j : Rat) - (i : Rat))) 1

/-- The coefficient of a fractional read, computed in binary32 and rounded to nearest in C24
(DESIGN CHOICE, log entry 11). -/
def fracCoef (m j : Nat) (x : Rat) : Int := roundEven (toF32 (lagrange m j x) * (2 : Rat) ^ 22)

/-- A wavefront read of a source line at a delay: 8 taps (R166). `y` holds the newest sample first. -/
def waveRead (y : List Int) (delay : Rat) : Int :=
  let k := delay.floor.toNat
  let mu : Rat := (roundEven ((delay - (k : Rat)) * 1024) : Rat) / 1024
  coarseOut (accum 0 0 ((List.range 8).map fun j => (y.getD (k + j - 3) 0, fracCoef 8 j (mu + 3)))).1

/-- The clamp of R107 acts in a fractional read of the alignment delay (R109, R184). -/
def delaySat (w : List Int) (d : Nat) : Bool :=
  let k := d / 1024
  let f := d % 1024
  let mu : Rat := (f : Rat) / 1024
  f != 0 && decide (2 ≤ k) &&
    coarseSat (accum 0 0 ((List.range 4).map fun j => (w.getD (k + j - 1) 0, fracCoef 4 j (mu + 1)))).1

/-- The alignment delay's read of a line at a delay in 1/1 024 sample (R184). -/
def delayRead (w : List Int) (d : Nat) : Int :=
  let k := d / 1024
  let f := d % 1024
  if f = 0 then w.getD k 0
  else if 2 ≤ k then
    let mu : Rat := (f : Rat) / 1024
    coarseOut (accum 0 0 ((List.range 4).map fun j => (w.getD (k + j - 1) 0, fracCoef 4 j (mu + 1)))).1
  else w.getD ((d + 512) / 1024) 0

/-- The delay as rendered (R184). -/
def renderedDelay (d : Nat) : Nat := if d % 1024 = 0 ∨ 2048 ≤ d then d else (d + 512) / 1024 * 1024

end Sys2Proof.Machine
end

