-- ==== Sys2Proof/Machine/Geometry.lean ====
section
/-! DEFINITION. Directions, angles and the speaker hull (R126, R150, R157 to R159, R161, R164). The
geometric tests are made on the directions themselves, not on their roundings to binary32, whose order of
operations the manual does not give (DESIGN CHOICE, log entry 66). -/

namespace Sys2Proof.Machine

/-- Sum of two vectors. -/
def vadd (a b : V3) : V3 := ⟨a.x + b.x, a.y + b.y, a.z + b.z⟩
/-- Difference of two vectors. -/
def vsub (a b : V3) : V3 := ⟨a.x - b.x, a.y - b.y, a.z - b.z⟩
/-- A scaled vector. -/
def vscale (k : Rat) (a : V3) : V3 := ⟨k * a.x, k * a.y, k * a.z⟩
/-- Scalar product. -/
def dot (a b : V3) : Rat := a.x * b.x + a.y * b.y + a.z * b.z
/-- Vector product. -/
def cross (a b : V3) : V3 :=
  ⟨a.y * b.z - a.z * b.y, a.z * b.x - a.x * b.z, a.x * b.y - a.y * b.x⟩
/-- Length squared. -/
def norm2 (a : V3) : Rat := dot a a
/-- Length. -/
def vlen (a : V3) : Rat := rootQ (norm2 a)
/-- Unit vector; the zero vector stays. -/
def vunit (a : V3) : V3 := if norm2 a = 0 then a else vscale (1 / vlen a) a

/-- A number that falls as the angle between two directions rises: the cosine's square with its
sign. It orders angles without a root. -/
def cosKey (a b : V3) : Rat :=
  let d := dot a b
  let n := norm2 a * norm2 b
  if n = 0 then 0 else (if d < 0 then -(d * d) else d * d) / n

/-- The angle between two directions in degrees. -/
def angDeg (a b : V3) : Rat := atan2Deg (vlen (cross a b)) (dot a b)

/-- The azimuth of a direction in degrees, anticlockwise from +y as seen from above (R11). -/
def azDeg (v : V3) : Rat := atan2Deg (-v.x) v.y

/-- The point at an azimuth and elevation in degrees and a distance (R11). -/
def polar (az el r : Rat) : V3 :=
  ⟨-(r * sinDeg az * cosDeg el), r * cosDeg az * cosDeg el, r * sinDeg el⟩

/-- The direction used for a position: a position less than 1 mm from the reference point keeps the
last one beyond 1 mm (R126). -/
def dirOf (p last : V3) : V3 := if norm2 p < 1 / 1000000 then last else p

/-! The hull (R150). -/

/-- The geometric tolerance. -/
def eps : Rat := 1 / 1000000

/-- Full-range speakers of a layout with their positions, in index order. -/
def Layout.full (l : Layout) : List (Nat × V3) :=
  l.speakers.filterMap fun p => if p.2.kind = 1 then some (p.1, p.2.pos) else none

/-- Low-frequency speakers of a layout. -/
def Layout.low (l : Layout) : List Nat :=
  l.speakers.filterMap fun p => if p.2.kind = 2 then some p.1 else none

/-- Two unit directions coincide
(DESIGN CHOICE, log entry 66). -/
def coincide (a b : V3) : Bool :=
  decide (absQ (a.x - b.x) ≤ eps) && decide (absQ (a.y - b.y) ≤ eps) && decide (absQ (a.z - b.z) ≤ eps)

/-- The hull vertices: unit directions of the full-range speakers, of coinciding ones the
lower-indexed. -/
def hullVerts (l : Layout) : List (Nat × V3) :=
  l.full.foldl (fun vs p =>
    let u := vunit p.2
    if vs.any fun q => coincide q.2 u then vs else vs ++ [(p.1, u)]) []

/-- The six axis directions of virtual speakers with their bit in the mask. -/
def axes : List (Nat × V3) :=
  [(0, ⟨0, 0, -1⟩), (1, ⟨0, 0, 1⟩), (2, ⟨0, -1, 0⟩), (3, ⟨0, 1, 0⟩), (4, ⟨-1, 0, 0⟩), (5, ⟨1, 0, 0⟩)]

/-- The number of a virtual vertex: after every real speaker. -/
def virtBase : Nat := 1024

/-- Every pair (i, j) with i before j in a list. -/
def pairsOf {α : Type} : List α → List (α × α)
  | [] => []
  | a :: r => r.map (fun b => (a, b)) ++ pairsOf r

/-- Every triple in list order. -/
def triplesOf {α : Type} : List α → List (α × α × α)
  | [] => []
  | a :: r => (pairsOf r).map (fun p => (a, p.1, p.2)) ++ triplesOf r

/-- A face plane through a vertex with an outward unit normal, and the vertices on it. -/
structure Face where
  normal : V3
  off : Rat
  on : List (Nat × V3)

/-- The faces of the convex hull: planes through three vertices with every other vertex on the inner
side or within the tolerance; of a co-circular set the plane of its three lowest-ranked. -/
def hullFaces (vs : List (Nat × V3)) : List Face :=
  (triplesOf vs).filterMap fun t =>
    let a := t.1; let b := t.2.1; let c := t.2.2
    let n := vunit (cross (vsub b.2 a.2) (vsub c.2 a.2))
    if norm2 n = 0 then none else
      let d := dot n a.2
      let above := vs.any fun v => decide (eps < dot n v.2 - d)
      let below := vs.any fun v => decide (dot n v.2 - d < -eps)
      if above && below then none else
        let n := if above then vscale (-1) n else n
        let d := if above then -d else d
        let on := vs.filter fun v => decide (absQ (dot n v.2 - d) ≤ eps)
        if (on.take 3).map Prod.fst = [a.1, b.1, c.1] then some ⟨n, d, on⟩ else none

/-- The reference point lies strictly inside the hull: more than the tolerance on the inner side of
every face
(DESIGN CHOICE, log entry 66). -/
def strictlyInside (vs : List (Nat × V3)) : Bool :=
  let fs := hullFaces vs
  !fs.isEmpty && fs.all fun f => decide (eps < f.off)

/-- Virtual speakers added in the order of the axes while the reference point is not strictly inside
(30° is a cosine whose square is 3/4). -/
def addVirtual (vs : List (Nat × V3)) : List (Nat × V3) → List (Nat × V3)
  | [] => vs
  | (i, d) :: r =>
    if strictlyInside vs then vs
    else if vs.any fun v => decide (3 / 4 < cosKey v.2 d) then addVirtual vs r
    else addVirtual (vs ++ [(virtBase + i, d)]) r

/-- Insertion into a list that a relation orders. -/
def insertBy {α : Type} (le : α → α → Bool) (x : α) : List α → List α
  | [] => [x]
  | y :: r => if le x y then x :: y :: r else y :: insertBy le x r

/-- Insertion sort. -/
def sortBy {α : Type} (le : α → α → Bool) (l : List α) : List α := l.foldr (insertBy le) []

/-- Lists of numbers in lexicographic order. -/
def lexLe : List Nat → List Nat → Bool
  | [], _ => true
  | _ :: _, [] => false
  | a :: r, b :: q => a < b || (a == b && lexLe r q)

/-- The triangles of a face: diagonals from its lowest-ranked vertex. -/
def fanFace (f : Face) : List (List Nat) :=
  match f.on with
  | [] => []
  | v0 :: rest =>
    let ring := sortBy (fun a b => decide (0 ≤ dot f.normal (cross (vsub a.2 v0.2) (vsub b.2 v0.2)))) rest
    (ring.zip ring.tail).map fun p => sortBy (fun a b => decide (a ≤ b)) [v0.1, p.1.1, p.2.1]

/-- Azimuth order on the ring: anticlockwise from +y as seen from above (R11). -/
def ringLe (a b : V3) : Bool :=
  let half : V3 → Nat := fun v => if v.x < 0 ∨ (v.x = 0 ∧ 0 ≤ v.y) then 0 else 1
  half a < half b || (half a == half b && decide (0 ≤ a.x * b.y - a.y * b.x))

/-- The pairs of adjacent ring speakers, each with the speaker met first going anticlockwise, in
ascending order of their sorted pairs. -/
def ringPairs (vs : List (Nat × V3)) : List (List Nat) :=
  let ring := sortBy (fun a b => ringLe a.2 b.2) vs
  match ring with
  | [] => []
  | [_] => []
  | v0 :: _ =>
    let ps := ring.zip (ring.tail ++ [v0])
    sortBy (fun a b => lexLe (sortBy (fun a b => decide (a ≤ b)) a) (sortBy (fun a b => decide (a ≤ b)) b))
      (ps.map fun p => [p.1.1, p.2.1])

/-- Elevation of a position lies within ±5°: its sine's square is at most that of 5°
(DESIGN CHOICE, log entry 66). -/
def flat5 (p : V3) : Bool := decide (p.z * p.z ≤ sinDeg 5 * sinDeg 5 * norm2 p) || p.z == 0

/-- The hull of a layout, or the refusal code of R151
(DESIGN CHOICE, log entry 66). -/
def buildHull (l : Layout) (dimension virt : Nat) : Except Nat Hull :=
  let vs := hullVerts l
  let two := if dimension = 0 then l.full.all fun p => flat5 p.2 else dimension == 1
  if two then
    if vs.length < 2 then .error 1
    else .ok { dim := 1, vmask := 0, faces := ringPairs vs, verts := vs.map Prod.fst }
  else
    if vs.length < 3 then .error 1
    else
      let all := if virt = 0 then addVirtual vs axes else vs
      if strictlyInside all then
        let mask := ((all.filter fun v => decide (virtBase ≤ v.1)).map fun v => 2 ^ (v.1 - virtBase)).sum
        let tris := sortBy lexLe ((hullFaces all).flatMap fanFace)
        .ok { dim := 2, vmask := mask, faces := tris, verts := vs.map Prod.fst }
      else .error 2

/-! Panning (R157 to R159, R161). -/

/-- The unit direction of a vertex: a real speaker of the layout or a virtual one. -/
def vertDir (l : Layout) (v : Nat) : V3 :=
  if virtBase ≤ v then ((axes.find? fun a => a.1 == v - virtBase).map Prod.snd).getD ⟨0, 0, 1⟩
  else vunit ((tget l.speakers v ({} : Speaker)).pos)

/-- The solution of p = g1 l1 + g2 l2 + g3 l3, by Cramer's rule; none for coplanar vertices. -/
def solve3 (l1 l2 l3 p : V3) : Option (List Rat) :=
  let d := dot l1 (cross l2 l3)
  if d = 0 then none
  else some [dot p (cross l2 l3) / d, dot l1 (cross p l3) / d, dot l1 (cross l2 p) / d]

/-- The direction of a vector in the horizontal plane. -/
def flatDir (v : V3) : V3 := vunit ⟨v.x, v.y, 0⟩

/-- The arc from one direction anticlockwise to another in degrees, from 0 up to a full turn (R158). -/
def arcDeg (u v : V3) : Rat :=
  let d := azDeg v - azDeg u
  d - 360 * ((d / 360).floor : Rat)

/-- The solution of p = g1 l1 + g2 l2 in the horizontal plane. -/
def solve2 (l1 l2 p : V3) : Option (List Rat) :=
  let d := l1.x * l2.y - l1.y * l2.x
  if d = 0 then none
  else some [(p.x * l2.y - p.y * l2.x) / d, (l1.x * p.y - l1.y * p.x) / d]

/-- The least of a list of rationals. -/
def minList : List Rat → Rat
  | [] => 0
  | [a] => a
  | a :: r => minQ a (minList r)

/-- Scale gains to unit power. -/
def unitPower (g : List (Nat × Rat)) : List (Nat × Rat) :=
  let n := rootQ (sumQ (g.map fun p => p.2 * p.2))
  if n = 0 then g else g.map fun p => (p.1, p.2 / n)

/-- Share the power of the virtual vertices of a solution among the real ones (R159). -/
def foldVirtual (l : Layout) (h : Hull) (p : V3) (g : List (Nat × Rat)) : List (Nat × Rat) :=
  let real := g.filter fun q => q.1 < virtBase
  let pv := sumQ ((g.filter fun q => virtBase ≤ q.1).map fun q => q.2 * q.2)
  if pv = 0 then real
  else if real.isEmpty then
    match h.verts with
    | [] => []
    | v0 :: r => [(r.foldl (fun m v => if cosKey (vertDir l m) p < cosKey (vertDir l v) p then v else m) v0, 1)]
  else real.map fun q => (q.1, rootQ (q.2 * q.2 + pv / (real.length : Rat)))

/-- The solution of one face for a direction, with its gains by vertex. -/
def faceSolve (l : Layout) (p : V3) (f : List Nat) : Option (List (Nat × Rat)) :=
  match f with
  | [a, b, c] => (solve3 (vertDir l a) (vertDir l b) (vertDir l c) p).map fun g => f.zip g
  | _ => none

/-- The gain of a direction in a list of solutions: the lowest-numbered that meets the test, or the
one whose smallest gain is largest
(DESIGN CHOICE, log entry 66). -/
def pickFace (sols : List (List (Nat × Rat))) : List (Nat × Rat) :=
  match sols.find? fun g => g.all fun q => decide (-(1 : Rat) / 10000 ≤ q.2) with
  | some g => g
  | none => match sols with
    | [] => []
    | g0 :: r => r.foldl (fun m g => if minList (m.map Prod.snd) < minList (g.map Prod.snd) then g else m) g0

/-- Hull panning of a direction: the gain vector of R157 or R158 with R159. -/
def pan (l : Layout) (h : Hull) (p : V3) : List (Nat × Rat) :=
  let clip : List (Nat × Rat) → List (Nat × Rat) := fun g => unitPower (g.map fun q => (q.1, maxQ 0 q.2))
  let live : List (Nat × Rat) → List (Nat × Rat) := fun g => g.filter fun q => q.2 != 0
  match h.dim with
  | 2 => live (foldVirtual l h p (clip (pickFace (h.faces.filterMap (faceSolve l (vunit p))))))
  | 1 =>
    let q := flatDir p
    let sols := h.faces.filterMap fun f => match f with
      | [a, b] =>
        let u := flatDir (vertDir l a); let v := flatDir (vertDir l b)
        let span := if u = v then (if h.verts.length = 2 then 360 else 0) else arcDeg u v
        if span = 0 then none
        else if 0 < u.x * v.y - u.y * v.x then (solve2 u v q).map fun g => f.zip g
        else if arcDeg u q ≤ span then
          -- an arc of 180 degrees or more, from a anticlockwise to b
          let x := arcDeg u q / span
          some [(a, cosPi (x / 2)), (b, sinPi (x / 2))]
        else none
      | _ => none
    live (clip (pickFace sols))
  | _ => []

/-- The 16 full-range hull vertices nearest in angle to a direction, nearest first (R161). -/
def nearest16 (l : Layout) (h : Hull) (p : V3) : List Nat :=
  let key : Nat → Rat := fun v =>
    let d := vertDir l v
    if h.dim = 1 then cosKey ⟨d.x, d.y, 0⟩ ⟨p.x, p.y, 0⟩ else cosKey d p
  (sortBy (fun a b => decide (key b < key a) || (key a == key b && decide (a ≤ b))) h.verts).take 16

/-- The near-field widening of a hull vector (R161). -/
def widen (l : Layout) (h : Hull) (p : V3) (beta : Rat) (g : List (Nat × Rat)) : List (Nat × Rat) :=
  if beta ≤ 0 then g else
    let near := nearest16 l h p
    let extra := (near.filter fun v => !(g.any fun q => q.1 == v)).take (16 - g.length)
    let base := g.map fun q =>
      (q.1, rootQ (1 - beta) * q.2 + if near.contains q.1 then rootQ beta / 4 else 0)
    unitPower ((base ++ extra.map fun v => (v, rootQ beta / 4)).filter fun q => q.2 != 0)

/-- The number of virtual sources of a spread (R164). -/
def vCount (spread : Rat) : Nat := if spread = 0 then 1 else min 12 (1 + (spread / 30).ceil.toNat)

/-- The directions of the virtual sources (R164): the object's own, then a cone of half-angle
spread/3 about it. -/
def vDirs (d : V3) (spread : Rat) : List V3 :=
  let n := vCount spread
  let u := vunit d
  let near := cosDeg 1 * cosDeg 1
  let up : V3 := if near < cosKey u ⟨0, 0, 1⟩ ∨ cosKey u ⟨0, 0, 1⟩ < -near then ⟨0, 1, 0⟩ else ⟨0, 0, 1⟩
  let e1 := vunit (vsub up (vscale (dot up u) u))
  let e2 := cross e1 u
  let half := spread / 3
  u :: (List.range (n - 1)).map fun (i : Nat) =>
    let a := 360 * (i : Rat) / ((n - 1 : Nat) : Rat)
    vadd (vscale (cosDeg half) u) (vscale (sinDeg half) (vadd (vscale (cosDeg a) e1) (vscale (sinDeg a) e2)))

end Sys2Proof.Machine
end

