-- ==== Sys2Proof/Machine/Mailbox.lean ====
section
/-! DEFINITION. The command envelope: what a command's chapter says of it (`Spec`), the checks of
R52 in their order, timed application (R55 to R61), and what a command's effect answers. -/

namespace Sys2Proof.Machine

/-! Status codes (R66). -/
/-- `OK`. -/
def sOk : Nat := 0
/-- `QUEUED`. -/
def sQueued : Nat := 1
/-- `DEFERRED`. -/
def sDeferred : Nat := 2
/-- `BAD_OPCODE`. -/
def sBadOpcode : Nat := 0x0100
/-- `BAD_LENGTH`. -/
def sBadLength : Nat := 0x0101
/-- `BAD_FIELD`. -/
def sBadField : Nat := 0x0102
/-- `BAD_STATE`. -/
def sBadState : Nat := 0x0103
/-- `NOT_PRESENT`. -/
def sNotPresent : Nat := 0x0200
/-- `NO_CAPACITY`. -/
def sNoCapacity : Nat := 0x0201
/-- `BUSY_IN_SERVICE`. -/
def sBusy : Nat := 0x0202
/-- `LATE`. -/
def sLate : Nat := 0x0203
/-- `REFUSED_POLICY`. -/
def sPolicy : Nat := 0x0204
/-- `ABORTED`. -/
def sAborted : Nat := 0x0205
/-- `NOT_ACTIVE_LEAF`. -/
def sNotActive : Nat := 0x0300
/-- `REPLAYED`. -/
def sReplayed : Nat := 0x0301
/-- `INTERNAL_FAULT`. -/
def sInternal : Nat := 0x0400

/-- The status leaves the state as it was ("no effect", R66). -/
def noEffect (status : Nat) : Bool := status != sOk && status != sLate && status != sReplayed

/-- Where and when a command acts: the leaf, its function, the coming sample, and whether the
change is prepared (R88). -/
structure Ctx where
  leaf : LeafId := .a
  fn : FnId := .f0
  n : Nat := 0
  prep : Bool := false
deriving DecidableEq, Repr, Inhabited

/-- The sample of step 0 of a trajectory that a change starts (R88, R517): the effect sample of a
prepared change, the next one otherwise
(DEDUCED, log entry 18). -/
def Ctx.first (x : Ctx) : Nat := if x.prep then x.n else x.n + 1

/-- An event that a leaf raises: code, severity, subject, payload. -/
structure Ev where
  code : Nat
  sev : Nat
  subject : Nat := 4294967295
  payload : List Byte := []
  autonomy : Nat := 255
  flags : Nat := 0
  tag : Nat := 0

/-- Another command that an effect completes: whether its slot has been released, its status and
detail, and its effect meridian. -/
structure Done where
  cmd : Cmd
  released : Bool := true
  status : Nat := 0
  detail : Nat := 0
  at_ : Nat := 0

/-- What a command's effect answers over the whole state. `mode` 0 completes it, 1 posts the interim
`DEFERRED` unless an interim has released its slot and leaves the final to a later step, 2 leaves it in
progress in its slot, 3 posts `DEFERRED` in every case (R199). -/
structure Eff where
  s : State
  status : Nat := 0
  detail : Nat := 0
  resp : List Byte := []
  out : Option (List Byte) := none
  mode : Nat := 0
  applied : Option Nat := none

/-- What a command's effect answers over one leaf. `done` lists other commands that it completes. -/
structure LEff where
  x : Leaf
  status : Nat := 0
  detail : Nat := 0
  resp : List Byte := []
  out : Option (List Byte) := none
  mode : Nat := 0
  applied : Option Nat := none
  evs : List Ev := []
  done : List Done := []

/-- What the chapter of a command says of it. `len` gives the expected body length (0 where it
varies) and whether the command's length is right; `fields` lists, in offset order, the body offset
of each field check and whether it holds; `refs` gives the body offsets of its transfer references. -/
structure Spec where
  op : Nat
  present : Variant → Cmd → Bool := fun _ _ => true
  fns : FnId → Bool := fun f => f != .f2
  len : Cmd → Nat × Bool
  timed : Bool := false
  fields : State → Cmd → List (Nat × Bool) := fun _ _ => []
  refs : Cmd → List Nat := fun _ => []
  toHost : Bool := false
  targets : Nat → Bool := fun t => t == 0
  pre : State → Cmd → Nat × Nat := fun _ _ => (0, 0)
  stage : Cmd → State → State := fun _ s => s
  undo : Cmd → State → State := fun _ s => s
  run : Cmd → Bool → List Byte → State → Eff

/-- A fixed body length. -/
def fixedLen (n : Nat) (c : Cmd) : Nat × Bool := (n, c.bodyLen == n)

/-- A reserved range of a body (R10). -/
def resv (c : Cmd) (i n : Nat) : Nat × Bool := (i, allZero c.body i n)

/-- A number in a closed range. -/
def rng (i : Nat) (v lo hi : Int) : Nat × Bool := (i, within lo hi v)

/-- The transfer reference at a body offset (R78). -/
def refAt (c : Cmd) (i : Nat) : XferRef := { addr := u64 c.body i, len := u32 c.body (i + 8) }

/-- The field checks of one transfer reference (R78)
(DEDUCED, log entry 21). -/
def refChecks (c : Cmd) (i : Nat) : List (Nat × Bool) :=
  [(i, u64 c.body i % 4 == 0),
   (i + 8, u32 c.body (i + 8) % 4 == 0 && within 4 268435456 (u32 c.body (i + 8))),
   resv c (i + 12) 4]

/-- The first check that fails, by offset
(DEDUCED, log entry 21). -/
def firstBad : List (Nat × Bool) → Option Nat
  | [] => none
  | (i, ok) :: r => if ok then firstBad r else some i

/-- The first offending offset of a list in any order: the lowest
(DEDUCED, log entry 21). -/
def lowestBad (l : List (Nat × Bool)) : Option Nat :=
  l.foldl (fun m p => if p.2 then m else match m with
    | none => some p.1
    | some k => some (min k p.1)) none

/-- The header checks of R52 item 5 (R10, R48, R57), by slot offset
(DEDUCED, log entry 21). -/
def headerChecks (sp : Spec) (s : State) (c : Cmd) : List (Nat × Bool) :=
  [(6, decide (c.flags < 4)), (10, c.hdrVer == 1),
   (11, if c.fn = .f2 then sp.targets c.target else c.target == 0),
   (12, c.rsv12 == 0),
   (16, c.when_ == 0 || (c.fn != .f2 && sp.timed && decide (c.when_ ≤ s.fnNow c.fn + 86400000000000))),
   (24, c.rsv24 == 0)]

/-- The checks of R52 items 2 to 5 in order: the status and detail of the first that applies, or
`OK`
(DEDUCED, log entry 21). -/
def checkCommand (sp : Spec) (s : State) (c : Cmd) : Nat × Nat :=
  if !sp.fns c.fn then (sBadOpcode, 0)
  else if !sp.present s.variant c then (sNotPresent, 0)
  else if !(sp.len c).2 then (sBadLength, (sp.len c).1)
  else match firstBad (headerChecks sp s c) with
    | some i => (sBadField, i)
    | none =>
      match lowestBad (sp.fields s c ++ (sp.refs c).flatMap (refChecks c)) with
      | some i => (sBadField, 32 + i)
      | none => (sOk, 0)

/-- Meridian of the coming sample on the leaf that answers for a function (R64)
(DEDUCED, log entry 22). -/
def State.appliedAt (s : State) (f : FnId) : Nat :=
  match s.server f with
  | none => 0
  | some (l, _) => (s.leaf l).nextTns

/-- The guest scene of a leaf takes the place of its own, so that a command acts on it; applied
twice it changes nothing (R424)
(DEDUCED, log entry 25). -/
def Leaf.swapGuest (x : Leaf) : Leaf :=
  match x.guest with
  | none => x
  | some g => { x with scene := g, guest := some x.scene }

/-- Run a change of the module with the guest scene of a leaf in the place of its own, so that its
function is the guest's
(DEDUCED, log entry 25). -/
def State.asGuest (s : State) (l : LeafId) (g : State → State) : State :=
  match (s.leaf l).guest with
  | none => s
  | some _ =>
    let flip : State → State := fun s =>
      ({ s with red := { s.red with sceneA := s.red.sceneA.other } } : State).modLeaf l Leaf.swapGuest
    flip (g (flip s))

/-- A change of the module for each scene that a leaf renders: its own, then a guest's (R423)
(DEDUCED, log entry 25). -/
def State.eachScene (s : State) (l : LeafId) (g : State → State) : State := (g s).asGuest l g

/-- Carry out a command on the leaves that serve its function; the first leaf's answer stands, each
leaf raises its own events (R36), a refused command the advice that goes with the refusal (R132). A final
status or an effect sample that differs between the leaves is a divergence of that sample (R36, R414)
(DESIGN CHOICE, log entry 27). -/
def onLeaves (g : Ctx → Cmd → List Byte → Leaf → LEff) (c : Cmd) (prep : Bool) (data : List Byte)
    (s : State) : Eff :=
  match s.servers c.fn with
  | [] => { s := s, status := sNotActive }
  | (l, gu) :: rest =>
    let run1 : LeafId → Bool → State → State × LEff := fun l gu s =>
      let x := s.leaf l
      let x := if gu then x.swapGuest else x
      let e := g { leaf := l, fn := c.fn, n := x.next, prep := prep } c data x
      let y := if gu then e.x.swapGuest else e.x
      let s := if noEffect e.status then s else s.setLeaf l y
      (e.evs.foldl (fun s v => s.sceneEvent l gu v.code v.sev v.subject v.payload v.autonomy v.flags c.tag) s, e)
    let r := run1 l gu s
    let e := r.2
    let n := (s.leaf l).next
    let s := rest.foldl (fun s p =>
      let q := run1 p.1 p.2 s
      if q.2.status = e.status ∧ (s.leaf p.1).next = n then q.1
      else { q.1 with red := { q.1.red with differAt := n } }) r.1
    let s := e.done.foldl (fun s d => s.final d.cmd d.released d.status d.detail d.at_) s
    { s := s, status := e.status, detail := e.detail, resp := e.resp, out := e.out, mode := e.mode, applied := e.applied }

/-- A command takes effect late: its final completion carries `LATE`, whenever it comes (R59). -/
def State.markLate (s : State) (c : Cmd) (late : Bool) : State :=
  if late then s.modMail c.fn fun m => { m with late := c.acc :: m.late } else s

/-- Finish an effect: complete the command, defer it, start its transfer towards the host, or leave
it in progress. A late command completes with `LATE` (R59)
(DEDUCED, log entry 22). -/
def finish (sp : Spec) (c : Cmd) (released late : Bool) (applied : Nat) (e : Eff) : State :=
  match e.mode with
  | 0 =>
    let status := if e.status = sOk && late then sLate else e.status
    let at_ := if noEffect e.status then 0 else e.applied.getD applied
    (match e.out with
     | none => e.s.final c released status e.detail at_ e.resp
     | some bytes =>
       if noEffect e.status then e.s.final c released status e.detail 0 [] else
         let job : DmaJob := { cmd := c, refs := (sp.refs c).map (refAt c), out := bytes,
                               toHost := true, detail := e.detail }
         (e.s.markLate c late).modMail c.fn fun m => { m with dma := m.dma ++ [job] })
  | 1 => let s := e.s.markLate c late
         if released then s else s.interim c sDeferred
  | 3 => (e.s.markLate c late).interim c sDeferred !released
  | _ => e.s.markLate c late

/-- Carry out a command now
(DESIGN CHOICE, log entry 1). -/
def applyNow (sp : Spec) (c : Cmd) (prep late released : Bool) (data : List Byte) (s : State) : State :=
  let at_ := if c.fn = .f2 then 0 else s.appliedAt c.fn
  finish sp c released late at_ (sp.run c prep data s)

/-- References on a function's bulk channel that are not finished (R79). -/
def Mail.refCount (m : Mail) : Nat := (m.dma.map fun j => j.refs.length).sum

/-- The render domain of the leaf that answers for a function; the default without one
(DESIGN CHOICE, log entry 27). -/
def State.fnDom (s : State) (f : FnId) : Domain :=
  match s.server f with
  | none => {}
  | some (l, _) => (s.leaf l).clk.dom

/-- A command accepted earlier still transfers towards the device and takes effect without a time: a
later command without one waits for it (R53). -/
def Mail.holds (m : Mail) (acc : Nat) : Bool :=
  m.dma.any fun j => !j.toHost && j.cmd.when_ == 0 && decide (j.cmd.acc < acc)

/-- A checked command goes on by its `when`: at once, behind an earlier one that still transfers, late,
or queued (R53, R55, R58 to R60, R271). `data` is what its transfer brought. `drain` carries out the
commands already due that were accepted earlier (R53)
(DEDUCED, log entry 18). -/
def schedule (sp : Spec) (drain : Cmd → State → State) (c : Cmd) (data : List Byte) (s : State) : State :=
  let s := drain c s
  if c.when_ = 0 then
    (if (s.fn c.fn).mail.holds c.acc then
       s.modMail c.fn fun m => { m with queued := m.queued ++ [{ cmd := c, data := data }] }
     else applyNow sp c false false false data s)
  else
    let d := s.fnDom c.fn
    let fs := rateHz d.rate
    if fs = 0 then s.final c false sBadState 0 0
    else
      let k := countOf fs c.when_
      if k < d.nextCount then
        (if bit c.flags 0 then s.final c false sLate 0 0
         else applyNow sp c false true false data s)
      else if 1024 ≤ ((s.fn c.fn).mail.queued.filter fun p => p.released).length then
        s.final c false sNoCapacity 0 0
      else
        let p : Pend := { cmd := c, count := k, released := true, prepared := decide (d.nextCount < k), data := data }
        (s.interim c sQueued).modMail c.fn fun m => { m with queued := m.queued ++ [p] }

/-- A command's validation ends: the trace records it (R480). -/
def State.validated (s : State) (c : Cmd) : State := s.traceCmd c.fn c.target 15 c.tag

/-- Validation of one command (R3, R52, R31, R79, R82): the checks in order, then the bulk transfer
towards the device where it has one, then its effect. What a chapter checks before a transfer comes
before what the bulk channel refuses (DESIGN CHOICE, log entry 57)
(DESIGN CHOICE, log entry 1). -/
def validate (sp : Option Spec) (drain : Cmd → State → State) (c : Cmd) (s : State) : State :=
  let s := if bit c.flags 1 then s.modMail c.fn fun m => { m with fence := some c.acc } else s
  let s := s.validated c
  let entering := c.fn == .f1 && s.red.mode != 1 && s.red.entry.isSome
  if (!(s.fn c.fn).capsDone && c.op != 0x0101) || entering then s.final c false sBadState 0 0
  else match sp with
    | none => s.final c false sBadOpcode 0 0
    | some sp =>
      let r := checkCommand sp s c
      if r.1 ≠ sOk then s.final c false r.1 r.2 0
      else
        let m := (s.fn c.fn).mail
        let refs := (sp.refs c).map (refAt c)
        let p := sp.pre s c
        if p.1 ≠ sOk then s.final c false p.1 p.2 0
        else if refs ≠ [] ∧ (m.bme = false ∨ m.halted = true) then s.final c false sAborted 0 0
        else if refs ≠ [] ∧ 64 < m.refCount + refs.length then s.final c false sNoCapacity 0 0
        else if refs ≠ [] ∧ sp.toHost = false then
          (sp.stage c s).modMail c.fn fun m => { m with dma := m.dma ++ [{ cmd := c, refs := refs }] }
        else schedule sp drain c [] (sp.stage c s)

/-- The header and body of a command as the host writes them into a slot (R48)
(DESIGN CHOICE, log entry 1). -/
def cmdBytes (c : Cmd) : List Byte :=
  le32 c.tag ++ le16 c.op ++ le16 c.flags ++ le16 c.bodyLen ++ le8 c.hdrVer ++ le8 c.target ++
    le32 c.rsv12 ++ le64 c.when_ ++ le64 c.rsv24 ++ c.body.take 480

/-- The command that the bytes of a slot spell (R48). -/
def parseSlot (f : FnId) (slot acc : Nat) (b : List Byte) : Cmd :=
  { fn := f, slot := slot, op := u16 b 4, tag := u32 b 0, flags := u16 b 6, bodyLen := u16 b 8,
    hdrVer := u8 b 10, target := u8 b 11, rsv12 := u32 b 12, when_ := u64 b 16, rsv24 := u64 b 24,
    body := slice b 32 (min 480 (u16 b 8)), acc := acc }

/-- The function can be reached by the host: it enumerates in this variant and is in D0 (R5, R32). -/
def State.reachable (s : State) (f : FnId) : Bool :=
  !(f == .f1 && !s.variant.hasB) && !(s.fn f).mail.d3

/-- Journal an entry of a function to the peer of the leaf that serves it in split mode and during its
entry, while the peer runs and the tie link is up (R19, R422)
(DEDUCED, log entry 23). -/
def State.journalPush (s : State) (f : FnId) (j : Journal) : State :=
  let l := match s.server f with
    | some p => some p.1
    | none => s.home f
  match l with
  | none => s
  | some l =>
    if (s.red.mode = 2 ∨ s.red.split.isSome = true) ∧ s.red.tieUp = true ∧ s.alive l.other = true then
      s.modRed l.other fun r => { r with journal := r.journal ++ [j] }
    else s

/-- Journal an accepted command to the peer leaf in split mode (R422)
(DEDUCED, log entry 23). -/
def State.journal (s : State) (c : Cmd) : State := s.journalPush c.fn { cmd := c }

/-- Accept a command whose slot holds it (R49, R38, R39, R54): mark the slot busy; complete it at
once on an unserved function; keep it while a takeover, a fence or earlier commands hold it back
(DESIGN CHOICE, log entry 1). -/
def accept (sp : Option Spec) (drain : Cmd → State → State) (now : Bool) (c : Cmd) (s : State) : State :=
  let s := s.modFn c.fn fun x =>
    { x with busy := x.busy ||| BitVec.ofNat 32 (2 ^ c.slot), mail := { x.mail with accNo := c.acc } }
  if s.unserved c.fn then s.final c false sNotActive 0 0
  else
    let s := (s.journal c).traceCmd c.fn c.target 14 c.tag
    let m := (s.fn c.fn).mail
    if now && !s.takingOver c.fn && m.fence.isNone && m.accepted.isEmpty then validate sp drain c s
    else s.modMail c.fn fun m => { m with accepted := m.accepted ++ [c] }

/-- A whole mailbox command in one step: the host fills the slot, rings it, and the device accepts
and, where nothing holds it back, validates it (DESIGN CHOICE, log entry 1). -/
def issue (sp : Spec) (drain : Cmd → State → State) (c0 : Cmd) (s : State) : State :=
  let f := c0.fn
  let slot := c0.slot % 32
  if !s.reachable f then s
  else if s.roView f then s.dbError f 2
  else if bit (s.fn f).busy.toNat slot then (s.dbErrorSlot f 1 slot).dbErrorSlot f 0 slot
  else
    let c := { c0 with op := sp.op, slot := slot, acc := (s.fn f).mail.accNo + 1 }
    let s := s.modMail f fun m => { m with win := mwrite winDefault m.win (slot * 512) (cmdBytes c) }
    accept (some sp) drain true c s

end Sys2Proof.Machine
end

