-- ==== Sys2Proof/Machine/Scene.lean ====
section
/-! DEFINITION. Scenes and objects (chapter 5): capacities, trajectories, folding, and the commands of
group 0x02. -/

namespace Sys2Proof.Machine

/-! Capacities at a rate code (R97, R271). -/

/-- Rate family: 1 for 44.1 and 48 kHz or no rate, 2 for 88.2 and 96 kHz, 4 for 176.4 and 192 kHz. -/
def rateMul (rate : Nat) : Nat := if rate = 3 ∨ rate = 4 then 2 else if rate = 5 ∨ rate = 6 then 4 else 1
/-- Object capacity
(DEDUCED, log entry 49). -/
def objCap (rate : Nat) : Nat := if rateMul rate = 4 then 256 else 512
/-- Feed capacity
(DEDUCED, log entry 49). -/
def feedCap (rate : Nat) : Nat := if rateMul rate = 4 then 512 else 1024
/-- Correction FIR taps
(DEDUCED, log entry 49). -/
def tapCap (rate : Nat) : Nat := 4194304 / rateMul rate
/-- Wavefront pairs
(DEDUCED, log entry 49). -/
def pairCap (rate : Nat) : Nat := 262144 / rateMul rate

/-- The default object. -/
def obj0 : Obj := {}
/-- An object of a scene. -/
def Scene.obj (x : Scene) (i : Nat) : Obj := tget x.objs.objs i obj0
/-- A scene with one object changed. -/
def Scene.modObj (x : Scene) (i : Nat) (f : Obj → Obj) : Scene :=
  { x with objs := { x.objs with objs := tmod x.objs.objs i obj0 f } }
/-- A leaf with its scene changed. -/
def Leaf.modScene (x : Leaf) (f : Scene → Scene) : Leaf := { x with scene := f x.scene }
/-- Fold several object changes. -/
def Scene.modObjs (x : Scene) (is : List Nat) (f : Nat → Obj → Obj) : Scene :=
  is.foldl (fun x i => x.modObj i (f i)) x
/-- Enabled objects in index order. -/
def Scene.enabled (x : Scene) : List Nat :=
  (x.objs.objs.filter fun p => p.2.enabled).map Prod.fst
/-- Slot limit S in force (R130). -/
def Scene.slots (x : Scene) (rate : Nat) : Nat := (x.objs.slotLimit).getD (objCap rate)

/-- Flag bits of an object (R144). -/
def ObjSet.flag (o : ObjSet) (i : Nat) : Bool := bit o.flags i

/-! Trajectories (R123, R124). -/

/-- Move every pending point whose time is at or before `t` into the anchor. -/
def Obj.settle (o : Obj) (t : Nat) : Obj :=
  match o.points.filter fun p => decide (p.t ≤ t) with
  | [] => o
  | p :: r => { o with anchor := r.getLastD p, points := o.points.filter fun p => decide (t < p.t) }

/-- The position at time `t`, every point at or before it being in the anchor. -/
def Obj.posAt (o : Obj) (t : Nat) : V3 :=
  match o.points with
  | [] => o.anchor.pos
  | p :: _ =>
    if p.jump || p.t ≤ o.anchor.t then o.anchor.pos
    else
      let k := toF32 (((t : Int) - (o.anchor.t : Int) : Int) / ((p.t - o.anchor.t : Nat) : Rat))
      vadd o.anchor.pos (vscale k (vsub p.pos o.anchor.pos))

/-- The position at the meridian `t` (R124). -/
def Obj.traj (o : Obj) (t : Nat) : V3 := (o.settle t).posAt t

/-- A position with a voice group's offset (R237): turned about the z axis, raised, with its
distance scaled. -/
def offsetBy (off p : V3) : V3 :=
  if off = { } ∨ norm2 p = 0 then p else
    let r := vlen p
    let az := atan2Deg (-p.x) p.y + off.x
    let el := clampQ (-90) 90 (atan2Deg p.z (sqrtQ (p.x * p.x + p.y * p.y)) + off.y)
    polar az el (r * exp2 off.z)

/-- The position that rendering and folding use at the meridian `t`: the trajectory's, with the offset
of a voice group (R124, R237). -/
def Obj.pos (o : Obj) (t : Nat) : V3 := offsetBy o.run.off (o.traj t)

/-- Apply a new point at the meridian `ma` (R123). -/
def Obj.addPoint (o : Obj) (ma : Nat) (p : Point) : Obj :=
  let here := o.traj ma
  let o := o.settle ma
  let jumped := o.anchor.jump && o.anchor.t == ma
  let o := { o with anchor := { pos := here, t := ma, jump := jumped }, points := o.points.filter fun q => decide (q.t < p.t) }
  if p.t ≤ ma then { o with anchor := { p with t := ma }, points := [] }
  else { o with points := (if 4 ≤ o.points.length then o.points.take 3 else o.points) ++ [p] }

/-! Records of the position window (R70), shared with `OBJ_SET_POS`. -/

/-- The field checks of a record at an offset of `b`, with a reference time for `valid_at` (R125):
offset within the record and whether it holds. Of a record for a bed object only `GAIN` counts (R129). -/
def recordChecks (b : List Byte) (i ref : Nat) (bed : Bool := false) : List (Nat × Bool) :=
  let upd := if bed then u8 b i &&& 2 else u8 b i
  let pos := bit upd 0
  let f : Nat → Bool := fun k => !pos || f32In b (i + k) (-1000) 1000
  let v := u64 b (i + 16)
  [(0, decide (u8 b i < 16)), (1, allZero b (i + 1) 3), (4, f 4), (8, f 8), (12, f 12),
   (16, !pos || v == 0 || (decide (ref ≤ v + 1000000000) && decide (v ≤ ref + 60000000000))),
   (24, !bit upd 1 || s16 b (i + 24) == -32768 || within (-12000) 2400 (s16 b (i + 24))),
   (26, allZero b (i + 26) 2), (28, !bit upd 2 || f32In b (i + 28) 0 360), (32, allZero b (i + 32) 32)]

/-- Start a gain ramp (R121). -/
def Obj.setGain (o : Obj) (c : Ctx) (g : Int) : Obj :=
  if g = o.set.gain then o else
    { o with set := { o.set with gain := g },
             run := { o.run with gainR := o.run.gainR.go c.n c.first o.set.gainRamp (amp g) } }

/-- Start a spread ramp (R121). -/
def Obj.setSpread (o : Obj) (c : Ctx) (v : Rat) : Obj :=
  if v = o.spread then o else
    { o with spread := v, run := { o.run with spreadR := o.run.spreadR.go c.n c.first o.set.gainRamp v } }

/-- An unprepared change leaves the trajectory of its effect sample's course work as it was (R88). -/
def Obj.holdTraj (o : Obj) (c : Ctx) : Obj :=
  if c.prep then o else
    match o.run.heldT with
    | some (k, _) => if k = c.n then o else { o with run := { o.run with heldT := some (c.n, o.anchor, o.points) } }
    | none => { o with run := { o.run with heldT := some (c.n, o.anchor, o.points) } }

/-- An object with the trajectory that the course work of sample n uses (R88). -/
def Obj.cwTraj (o : Obj) (n : Nat) : Obj :=
  match o.run.heldT with
  | some (k, p, ps) => if n ≤ k then { o with anchor := p, points := ps } else o
  | none => o

/-- Apply a valid record at the meridian `ma`: point, gain, spread. Bed objects take the gain alone
(R129). -/
def Obj.applyRecord (o : Obj) (c : Ctx) (ma : Nat) (b : List Byte) (i : Nat) : Obj :=
  let upd := u8 b i
  let o := if bit upd 1 then o.setGain c (s16 b (i + 24)) else o
  if o.run.bed.isSome then o else
    let o := if bit upd 2 then o.setSpread c (f32D b (i + 28)) else o
    if bit upd 0 then
      let v := u64 b (i + 16)
      (o.holdTraj c).addPoint ma
        { pos := ⟨f32D b (i + 4), f32D b (i + 8), f32D b (i + 12)⟩,
          t := if v = 0 then ma else v, jump := bit upd 3 }
    else o

/-! Rank and folding (R127, R130 to R136). -/

/-- Rank: `a` ranks above `b`. -/
def Scene.above (x : Scene) (a b : Nat) : Bool :=
  let p := (x.obj a).set.priority
  let q := (x.obj b).set.priority
  q < p || (p == q && decide (a < b))

/-- Fold class: hull and spread objects share one; wavefront objects have one per segment (R131). -/
def Scene.foldClass (x : Scene) (i : Nat) : Nat :=
  let r := ((x.obj i).run.change).getD (x.obj i).rend
  if r.mode = 2 then r.segment + 1 else 0

/-- Eligible to fold (R131). -/
def Scene.foldable (x : Scene) (i : Nat) : Bool :=
  !(x.obj i).set.flag 0 && (x.obj i).run.bed.isNone

/-- Weight of a member: the mean square of its render input over 1 024 samples plus 2^-40 (R134). -/
def Obj.weight (o : Obj) : Rat :=
  ((sumI ((o.run.energy.take 1024).map fun v => v * v) : Int) : Rat) / (1024 * (2 : Rat) ^ 64) + 1 / (2 : Rat) ^ 40

/-- Centroid, direction and spread of a set of members (R134), from each one's position, direction and
spread. -/
def Scene.shapeOf (x : Scene) (at_ : Nat → V3 × V3 × Rat) (members : List Nat) (last : V3) : V3 × V3 × Rat :=
  let ws := members.map fun i => ((x.obj i).weight, at_ i)
  let tot := sumQ (ws.map fun w => w.1)
  let p := vscale (1 / tot) (ws.foldl (fun a w => vadd a (vscale w.1 w.2.1)) ⟨0, 0, 0⟩)
  if norm2 p < 1 / 1000000 then (p, last, 360)
  else
    let h := ws.foldl (fun m w => maxQ m (angDeg (dirOf w.2.1 w.2.2.1) p + w.2.2.2 / 2)) 0
    (p, p, minQ 360 (2 * h))

/-- Centroid, direction and spread of a set of members at sample n with meridian t (R133, R134). -/
def Scene.shape (x : Scene) (t n : Nat) (members : List Nat) (last : V3) : V3 × V3 × Rat :=
  x.shapeOf (fun i => ((x.obj i).pos t, (x.obj i).run.dir, (x.obj i).run.spreadR.at_ n)) members last

/-- A cluster under construction: host, members, direction. -/
structure Fold where
  host : Nat
  members : List Nat
  dir : V3

/-- The nearest of candidates to a direction, ties to the lower index: candidate number, cosine key. -/
def nearestTo (d : V3) (cs : List (Nat × V3)) : Option (Nat × Rat) :=
  cs.foldl (fun m c =>
    let k := cosKey d c.2
    match m with
    | none => some (c.1, k)
    | some (i, b) => if b < k ∨ (b = k ∧ c.1 < i) then some (c.1, k) else some (i, b)) none

/-- Membership of R133 as a loop with fuel: units, clusters, units that were skipped. -/
def foldLoop (x : Scene) (t n limit : Nat) (elig : Nat → Bool) (above : Nat → Nat → Bool) :
    Nat → List Nat → List Fold → List Nat → List Nat × List Fold
  | 0, own, cl, _ => (own, cl)
  | k + 1, own, cl, skipped =>
    if own.length + cl.length ≤ limit then (own, cl) else
      let cand := own.filter fun i => elig i && !skipped.contains i
      match cand with
      | [] => (own, cl)
      | c0 :: cr =>
        let v := cr.foldl (fun m i => if above m i then i else m) c0
        let o := x.obj v
        let d := dirOf (o.pos t) o.run.dir
        let lim := o.set.priority + x.objs.foldSpan
        let cls := x.foldClass v
        let c := nearestTo d ((cl.filter fun f => x.foldClass f.host == cls && decide ((x.obj f.host).set.priority ≤ lim)).map
          fun f => (f.host, f.dir))
        let u := nearestTo d ((own.filter fun i => i != v && elig i && x.foldClass i == cls && decide ((x.obj i).set.priority ≤ lim)).map
          fun i => (i, dirOf ((x.obj i).pos t) (x.obj i).run.dir))
        let join : Nat → List Fold := fun host => cl.map fun f =>
          if f.host = host then
            let ms := f.members ++ [v]
            { host := if above v f.host then v else f.host, members := ms, dir := (x.shape t n ms f.dir).2.1 }
          else f
        let form : Nat → List Nat × List Fold := fun w =>
          let host := if above v w then v else w
          let ms := sortBy (fun a b => decide (a ≤ b)) [v, w]
          (own.filter fun i => i != v && i != w, cl ++ [⟨host, ms, (x.shape t n ms d).2.1⟩])
        match c, u with
        | none, none => foldLoop x t n limit elig above k own cl (v :: skipped)
        | some (h, _), none => foldLoop x t n limit elig above k (own.filter (· != v)) (join h) skipped
        | none, some (w, _) => let r := form w; foldLoop x t n limit elig above k r.1 r.2 skipped
        | some (h, kc), some (w, ku) =>
          if ku ≤ kc then foldLoop x t n limit elig above k (own.filter (· != v)) (join h) skipped
          else let r := form w; foldLoop x t n limit elig above k r.1 r.2 skipped

/-- Units of a scene now: enabled objects that are no members, and clusters (R130). -/
def Scene.units (x : Scene) : Nat :=
  let live := x.objs.clusters.filter fun c => c.live
  let inCl := live.flatMap fun c => c.members
  (x.enabled.filter fun i => !inCl.contains i && !(x.obj i).run.muted).length + live.length

/-- The placement an object is in or fading into: 0 for its own rendering, else a cluster. -/
def ObjRun.place (r : ObjRun) : Nat :=
  ((r.places.find? fun p => p.level.target == 1).map Placement.cid).getD 0

/-- Move an object's placement to a new one with a fold fade from `n1` on (R135). -/
def ObjRun.moveTo (r : ObjRun) (n1 fade cid : Nat) : ObjRun :=
  if r.place = cid then r else
    let places := if r.places.isEmpty then [{ cid := 0, level := Ramp.rest 1 }] else r.places
    let down := places.map fun p : Placement =>
      if p.cid = cid then { p with level := p.level.go n1 n1 fade 1 }
      else if p.level.target = 0 then p
      else { p with level := p.level.go n1 n1 fade 0 }
    let up : List Placement := if places.any fun p => p.cid == cid then [] else
      [{ cid := cid, level := { start := 0, target := 1, first := n1, len := fade } }]
    { r with places := down ++ up }

/-- The fold class that a cluster is rendered in (R131). -/
def Cluster.cls (c : Cluster) : Nat := if c.render.rend.mode = 2 then c.render.rend.segment + 1 else 0

/-- Put a membership into force from sample n + 1 (R135): clusters that keep their host and class go on,
others begin fresh; objects whose placement changes fade, newly enabled ones stand in their new place. -/
def Scene.applyFold (x : Scene) (t n : Nat) (folds : List Fold) (newly : List Nat) : Scene :=
  let fade := x.objs.foldFade
  let step : Scene × List (Nat × Nat) → Fold → Scene × List (Nat × Nat) := fun acc f =>
    let y := acc.1
    match y.objs.clusters.find? fun c => c.host == f.host && c.live && c.cls == x.foldClass f.host with
    | some c =>
      let sh := x.shape t n f.members c.dir
      let c' := { c with members := f.members, pos := sh.1, dir := sh.2.1, spread := sh.2.2 }
      ({ y with objs := { y.objs with clusters := mapIf (fun q => q.cid == c.cid) (fun _ => c') y.objs.clusters } },
       acc.2 ++ f.members.map fun m => (m, c.cid))
    | none =>
      let sh := x.shape t n f.members ⟨0, 1, 0⟩
      let cls := x.foldClass f.host
      let r := ((x.obj f.host).run.change).getD (x.obj f.host).rend
      let c : Cluster := { cid := y.objs.nextCid, host := f.host, members := f.members, pos := sh.1,
                           dir := sh.2.1, spread := sh.2.2,
                           render := { rend := { mode := if cls = 0 then 1 else 2, segment := r.segment } } }
      ({ y with objs := { y.objs with clusters := y.objs.clusters ++ [c], nextCid := y.objs.nextCid + 1 } },
       acc.2 ++ f.members.map fun m => (m, c.cid))
  let r := folds.foldl step (x, [])
  let y := r.1
  let kept := r.2.map Prod.snd
  let cls := y.objs.clusters.map fun c => if kept.contains c.cid then c else { c with live := false }
  let y := { y with objs := { y.objs with clusters := cls } }
  y.modObjs y.enabled fun i o =>
    let cid := ((r.2.find? fun p => p.1 == i).map Prod.snd).getD 0
    if newly.contains i then
      { o with run := { o.run with places := if cid = 0 then [] else [{ cid := cid, level := Ramp.rest 1 }] } }
    else { o with run := o.run.moveTo (n + 1) fade cid }

/-- The payload of `OBJ_FOLDED` (R145). -/
def Scene.foldedPayload (x : Scene) (rate trigger : Nat) : List Byte :=
  let live := x.objs.clusters.filter fun c => c.live
  le16 x.units ++ le16 (x.slots rate) ++ le16 ((live.map fun c => c.members.length - 1).sum) ++
    le16 live.length ++ le16 ((x.enabled.filter fun i => (x.obj i).run.muted).length) ++ le8 trigger

/-! Wavefront pairs held by a scene (R122, R166). -/

/-- Members of a segment of the layout in force. -/
def Scene.segLen (x : Scene) (k : Nat) : Nat :=
  ((tfind x.rend.lay.segments k).map fun s => s.members.length).getD 0

/-- Pairs of one rendering. -/
def Scene.pairsOf (x : Scene) (r : ObjRend) : Nat := if r.mode = 2 then x.segLen r.segment else 0

/-- Pairs of one enabled object, with its cross-fade and its waiting change. -/
def Scene.objPairs (x : Scene) (o : Obj) : Nat :=
  if !o.enabled || o.run.muted then 0 else
    x.pairsOf o.rend + ((o.run.xf).map fun f => x.pairsOf f.old.rend).getD 0 +
      ((o.run.change).map x.pairsOf).getD 0

/-- Pairs in use on a leaf, a guest scene's included. -/
def Leaf.pairUse (x : Leaf) : Nat :=
  let use : Scene → Nat := fun s => (s.objs.objs.map fun p => s.objPairs p.2).sum
  use x.scene + (x.guest.map use).getD 0

/-- The render slots that a scene of a leaf may use: its limit S, and no more than a restored scene leaves
free beside it (R130, R137). -/
def Leaf.slotRoom (x : Leaf) : Nat :=
  min (x.scene.slots x.clk.dom.rate) (objCap x.clk.dom.rate - (x.guest.map Scene.units).getD 0)

/-- An object without a slot of its own: an overflow member of an ADM map (R139). -/
def slotless (i : Nat) : Bool := decide (1024 ≤ i)

/-- The units that stand before any folding: enabled objects of their own, and the clusters that overflow
members of ADM maps make with the units they joined (R139). -/
def Scene.seeds (x : Scene) (t n : Nat) (en : List Nat) : List Nat × List Fold :=
  let own := en.filter fun i => !slotless i
  let join : List Nat × List Fold → Nat → List Nat × List Fold := fun a v =>
    let o := x.obj v
    let peers := own.filter fun i => (x.obj i).run.adm == o.run.adm && (x.obj i).run.adm.isSome
    let near := nearestTo (dirOf (o.pos t) o.run.dir) (peers.map fun i => (i, dirOf ((x.obj i).pos t) (x.obj i).run.dir))
    let host := match o.run.joins with
      | none => near.map Prod.fst
      | some h => if own.contains h then some h else near.map Prod.fst
    match host with
    | none => a
    | some h =>
      if a.2.any fun f => f.members.contains h then
        (a.1, a.2.map fun f => if f.members.contains h then
          { f with members := f.members ++ [v], dir := (x.shape t n (f.members ++ [v]) f.dir).2.1 } else f)
      else
        (a.1.filter fun i => i != h, a.2 ++ [⟨h, [h, v], (x.shape t n [h, v] (dirOf ((x.obj h).pos t) (x.obj h).run.dir)).2.1⟩])
  (en.filter slotless).foldl join (own, [])

/-- Membership for a set of enabled objects, the muted ones among them placed: the new scene and whether
it folds; none where it cannot be met (R132, R133, R136, R137)
(DEDUCED, log entry 25). -/
def Leaf.place (x : Leaf) (c : Ctx) (newly en : List Nat) : Option (Scene × Bool) :=
  let sc := x.scene
  let t := x.nextTns
  let limit := x.slotRoom
  let lifted := en.filter fun i => (sc.obj i).run.muted
  let up := sc.modObjs lifted fun _ o =>
    { o with run := { o.run with
        muted := false, places := [], fade := { start := 0, target := 1, first := c.n + 1, len := sc.objs.foldFade } } }
  let sd := up.seeds t c.n en
  let crowded := decide (limit < sd.1.length + sd.2.length)
  let r := if crowded && sc.objs.foldMode == 2 then foldLoop up t c.n limit up.foldable up.above (en.length + 1) sd.1 sd.2 [] else sd
  if limit < r.1.length + r.2.length ∨ (lifted ≠ [] ∧ pairCap x.clk.dom.rate < ({ x with scene := up } : Leaf).pairUse) then none
  else if r.2.isEmpty && !(sc.objs.clusters.any fun q => q.live) then
    some (up.modObjs newly fun _ o => { o with run := { o.run with places := [] } }, false)
  else some (up.applyFold t c.n r.2 newly, crowded)

/-- Recompute membership after a change (R132, R133, R136): the new scene with its event, or none
when the change cannot be satisfied. `newly` are the objects the change enables. Objects muted at a
takeover are placed, the highest-ranked first, as far as they fit (R137). -/
def refold (c : Ctx) (x : Leaf) (trigger : Nat) (newly : List Nat) : Option Leaf × List Ev :=
  let sc := x.scene
  let all := sc.enabled
  let muted : Nat → Bool := fun i => (sc.obj i).run.muted && !newly.contains i
  let heard := all.filter fun i => !muted i
  let done : Scene × Bool → Option Leaf × List Ev := fun r =>
    (some { x with scene := r.1 },
     if r.2 then [{ code := 0x02F0, sev := 1, payload := r.1.foldedPayload x.clk.dom.rate trigger, autonomy := 2, flags := 1 }]
     else [])
  match x.place c newly all with
  | some r => done r
  | none =>
    let en := (sortBy sc.above (all.filter muted)).foldl (fun en i =>
      if (x.place c newly (en ++ [i])).isSome then en ++ [i] else en) heard
    match x.place c newly en with
    | some r => done r
    | none =>
      let sd := sc.seeds x.nextTns c.n heard
      (none, if sc.objs.foldMode = 1 then
        [{ code := 0x02F1, sev := 1, autonomy := 1,
           payload := le16 (sd.1.length + sd.2.length) ++ le16 (sc.slots x.clk.dom.rate) ++ le8 trigger }] else [])

/-- The first sample of the fade-in of objects that a change enables: the one after its effect sample
where a membership takes effect with it (R135), else as any trajectory (R517). `y` is the scene with the
objects enabled. -/
def Leaf.enterAt (x : Leaf) (c : Ctx) (y : Scene) : Nat :=
  if (x.scene.objs.clusters.any fun q => q.live) || (y.enabled.any slotless) ||
      decide (x.slotRoom < (y.enabled.filter fun i => !slotless i).length) then c.n + 1 else c.first

/-! Group 0x02. -/

/-- Commands of the scene refuse while `SCN_CLEAR` runs (R143). -/
def Scene.clearingNow (x : Scene) (n : Nat) : Bool :=
  match x.objs.clearing with
  | none => false
  | some (a, b) => decide (a ≤ n) && decide (n < b)

/-- Object capacity on the leaf that answers for a function. -/
def State.objCap (s : State) (f : FnId) : Nat := Machine.objCap (s.fnDom f).rate

/-- A gain field of R119 is in range. -/
def gainOk (v : Int) : Bool := v == -32768 || within (-12000) 2400 v

/-- A refused effect. -/
def LEff.no (x : Leaf) (status : Nat) (detail : Nat := 0) : LEff := { x := x, status := status, detail := detail }

/-- The prepared-or-next staging of course-work settings (R88): an unprepared change keeps the old
settings for the course work of its effect sample. -/
def Obj.stage (o : Obj) (c : Ctx) (new : ObjSet) : Obj :=
  let held := if c.prep then none else match o.run.held with
    | some (k, h) => if k = c.n then some (k, h) else some (c.n, o.set)
    | none => some (c.n, o.set)
  { o with set := new, run := { o.run with held := held } }

/-- Effect of `SCN_CONFIG` (R136, R144). -/
def runScnConfig (c : Ctx) (m : Cmd) (_ : List Byte) (x : Leaf) : LEff :=
  let b := m.body
  let sc := x.scene
  let mode := u8 b 2
  let anyCl := sc.objs.clusters.any fun q => q.live
  if mode < sc.objs.foldMode ∧ sc.objs.foldMode = 2 ∧ anyCl = true then .no x sBadState
  else
    let radius := f32D b 8
    let so := { sc.objs with
      slotLimit := some (u16 b 0), foldMode := mode, foldSpan := u8 b 3, foldFade := u16 b 4,
      bedRadius := radius, admRadius := f32D b 12, admX := f32D b 16, admY := f32D b 20, admZ := f32D b 24 }
    let y := { sc with objs := so }
    let ma := x.nextTns
    let y := if radius = sc.objs.bedRadius then y else
      y.modObjs (y.objs.objs.map Prod.fst) fun _ o => if o.run.bed.isNone then o else
        (o.holdTraj c).addPoint ma { pos := vscale (radius / sc.objs.bedRadius) (o.traj ma), t := ma }
    match refold c { x with scene := y } 3 [] with
    | (none, evs) => { x := x, status := sNoCapacity, evs := evs }
    | (some z, evs) => { x := z, evs := evs }

/-- `SCN_CONFIG` (R144). -/
def specScnConfig : Spec where
  op := 0x0201
  len := fixedLen 28
  timed := true
  fields := fun s c =>
    let b := c.body
    [rng 0 (u16 b 0) 1 (s.objCap c.fn), rng 2 (u8 b 2) 0 2, rng 4 (u16 b 4) 16 4096, resv c 6 2,
     (8, f32In b 8 (1 / 2) 100), (12, f32In b 12 (1 / 2) 1000), (16, f32In b 16 (1 / 2) 1000),
     (20, f32In b 20 (1 / 2) 1000), (24, f32In b 24 (1 / 2) 1000)]
  run := onLeaves runScnConfig

/-- The return of `SCN_CLEAR`: objects, beds and ADM maps at their defaults, selections kept (R118,
R143). -/
def Scene.returned (x : Scene) : Scene :=
  let keep := x.objs.objs.filterMap fun p =>
    let o : Obj := { sel := p.2.sel }
    if o = obj0 then none else some (p.1, o)
  { x with objs := { x.objs with objs := keep, beds := [], maps := [], clusters := [], clearing := none } }

/-- Effect of `SCN_CLEAR` (R143): every enabled object fades out; pending points go at once; the return
comes `fade` samples after the effect sample. Without a fade it comes at once, and after an unprepared one
the effect sample still sounds as before (R88). -/
def runScnClear (c : Ctx) (m : Cmd) (_ : List Byte) (x : Leaf) : LEff :=
  let sc := x.scene
  if sc.clearingNow c.n then .no x sBadState else
    let fade := u16 m.body 0
    let ma := x.nextTns
    if fade = 0 then
      let y := sc.returned
      { x := { x with scene := if c.prep then y else
          { y with objs := { y.objs with ghost := some (c.n, sc.objs.objs, sc.objs.clusters) } } } }
    else
      let y := sc.modObjs sc.enabled fun _ o =>
        let o := o.holdTraj c
        let o := { o with anchor := { pos := o.traj ma, t := ma }, points := [] }
        { o with run := { o.run with fade := o.run.fade.go c.n c.first fade 0 } }
      { x := { x with scene := { y with objs := { y.objs with clearing := some (c.n, c.n + fade) } } } }

/-- `SCN_CLEAR` (R143). -/
def specScnClear : Spec where
  op := 0x0202
  len := fixedLen 4
  timed := true
  fields := fun _ c => [rng 0 (u16 c.body 0) 0 4096, resv c 2 2]
  run := onLeaves runScnClear

/-- Begin a new rendering of an object (R122): at once while it is disabled, by a cross-fade, or as
the one waiting change. -/
def Obj.rerender (o : Obj) (c : Ctx) (r : ObjRend) : Obj :=
  let same : ObjRend → Bool := fun q => q.mode == r.mode && q.bulk == r.bulk && (r.mode != 2 || q.segment == r.segment)
  if !o.enabled then { o with rend := r, run := { o.run with cur := { rend := r }, change := none } }
  else match o.run.xf with
    | some _ => if same o.rend then { o with run := { o.run with change := none } }
                else { o with run := { o.run with change := some r } }
    | none =>
      if same o.rend then o
      else
        let level : Ramp := { start := 0, target := 1, first := c.first, len := o.set.xfade }
        { o with rend := r, run := { o.run with xf := some { old := o.run.cur, level := level }, cur := { rend := r } } }

/-- Effect of `OBJ_CONFIG` (R119, R121, R122, R129, R138). A wavefront rendering is checked with the one
that the object's cross-fade is moving to, or its present one (R122). -/
def runObjConfig (c : Ctx) (m : Cmd) (_ : List Byte) (x : Leaf) : LEff :=
  let b := m.body
  let i := u16 b 0
  let sc := x.scene
  let o := sc.obj i
  let mode := u8 b 2
  let cur := (o.run.change).getD o.rend
  let r : ObjRend := { mode := mode, segment := if mode = 2 then u16 b 6 else cur.segment, bulk := u16 b 8 }
  let g := s16 b 22
  let set' : ObjSet := { o.set with
    priority := u8 b 3, flags := u16 b 4, gainRamp := u16 b 10, xfade := u16 b 12, dynThr := s16 b 14,
    dynRatio := u16 b 16, dynAttack := u16 b 18, dynRelease := u16 b 20 }
  let admBad := o.run.adm.isSome && (mode == 2 || set'.priority != o.set.priority || g != o.set.gain ||
    set'.gainRamp != o.set.gainRamp)
  if sc.clearingNow c.n || o.run.bed.isSome || admBad then .no x sBadState
  else if mode = 2 ∧ (tfind sc.rend.lay.segments r.segment).isNone = true then .no x sBadState
  else
    let mine := sc.pairsOf o.rend + (if r = o.rend then 0 else sc.pairsOf r)
    if o.enabled ∧ mode = 2 ∧ r ≠ cur ∧ pairCap x.clk.dom.rate < x.pairUse - sc.objPairs o + mine then .no x sNoCapacity
    else
      let o1 := (o.stage c set').setGain c g
      let o2 := o1.rerender c r
      let y := { x with scene := sc.modObj i fun _ => o2 }
      let folds := set'.priority != o.set.priority || r.mode != cur.mode || (mode == 2 && r.segment != cur.segment) || (bit set'.flags 0 != bit o.set.flags 0)
      if folds && o.enabled then
        match refold c y 1 [] with
        | (none, evs) => { x := x, status := sNoCapacity, evs := evs }
        | (some z, evs) => { x := z, evs := evs }
      else { x := y }

/-- `OBJ_CONFIG` (R144). -/
def specObjConfig : Spec where
  op := 0x0203
  len := fixedLen 24
  timed := true
  fields := fun s c =>
    let b := c.body
    let mode := u8 b 2
    [(0, decide (u16 b 0 < s.objCap c.fn)), rng 2 mode 0 2, rng 4 (u16 b 4) 0 63,
     (6, mode != 2 || decide (u16 b 6 < 64)), rng 8 (u16 b 8) (if mode = 2 then 4 else 0) 8191,
     rng 12 (u16 b 12) 16 4096, rng 14 (s16 b 14) (-6000) 0, rng 16 (u16 b 16) 100 2000,
     rng 18 (u16 b 18) 10 10000, rng 20 (u16 b 20) 5 5000, (22, gainOk (s16 b 22))]
  run := onLeaves runObjConfig

/-- Enable or disable one object with a fade from its level. -/
def Obj.setEnabled (o : Obj) (c : Ctx) (on : Bool) (first fade : Nat) : Obj :=
  if o.enabled = on then o else
    let silent := o.run.fade.at_ (c.n - 1) == 0
    let o := if on && silent then { o with run := { o.run with cur := { rend := o.rend }, xf := none } } else o
    { o with enabled := on, run := { o.run with fade := o.run.fade.go c.n first fade (if on then 1 else 0) } }

/-- Effect of `OBJ_ENABLE` (R135, R136, R144). -/
def runObjEnable (c : Ctx) (m : Cmd) (_ : List Byte) (x : Leaf) : LEff :=
  let b := m.body
  let is := span (u16 b 0) (u16 b 2)
  let on := u8 b 4 == 1
  let sc := x.scene
  if sc.clearingNow c.n || is.any (fun i => (sc.obj i).run.bed.isSome || (sc.obj i).run.adm.isSome) then .no x sBadState
  else if is.all fun i => (sc.obj i).enabled == on then { x := x }
  else
    let newly := if on then is.filter fun i => !(sc.obj i).enabled else []
    let set' : Nat → Scene := fun first => sc.modObjs is fun _ o => o.setEnabled c on first (u16 b 6)
    let y := set' c.first
    if pairCap x.clk.dom.rate < ({ x with scene := y } : Leaf).pairUse then .no x sNoCapacity
    else
      let y := if on then set' (x.enterAt c y) else y
      match refold c { x with scene := y } 0 newly with
      | (none, evs) => { x := x, status := sNoCapacity, evs := evs }
      | (some z, evs) => { x := z, evs := evs }

/-- `OBJ_ENABLE` (R144). -/
def specObjEnable : Spec where
  op := 0x0204
  len := fixedLen 8
  timed := true
  fields := fun s c =>
    let b := c.body
    let cap := s.objCap c.fn
    [rng 2 (u16 b 2) 1 cap, (2, decide (u16 b 0 + u16 b 2 ≤ cap)), rng 4 (u8 b 4) 0 1, resv c 5 1,
     rng 6 (u16 b 6) 0 4096]
  run := onLeaves runObjEnable

/-- Effect of `OBJ_SET_POS` (R121, R123). -/
def runObjSetPos (c : Ctx) (m : Cmd) (_ : List Byte) (x : Leaf) : LEff :=
  let i := u16 m.body 0
  let o := x.scene.obj i
  if x.scene.clearingNow c.n || o.run.bed.isSome || o.run.adm.isSome then .no x sBadState
  else { x := x.modScene fun s => s.modObj i fun o => o.applyRecord c x.nextTns m.body 8 }

/-- `OBJ_SET_POS` (R125, R144). -/
def specObjSetPos : Spec where
  op := 0x0205
  len := fixedLen 72
  timed := true
  fields := fun s c =>
    let ref := if c.when_ = 0 then s.fnNow c.fn else c.when_
    [(0, decide (u16 c.body 0 < s.objCap c.fn)), resv c 2 6, (8, u8 c.body 8 != 0)] ++
      (recordChecks c.body 8 ref).map fun p => (p.1 + 8, p.2)
  run := onLeaves runObjSetPos

/-- Objects of a bed system (R128). -/
def bedCount : Nat → Nat
  | 1 => 2
  | 2 => 6
  | 3 => 8
  | 4 => 10
  | 5 => 8
  | 6 => 12
  | 7 => 24
  | _ => 0

/-- Azimuth and elevation in degrees of the channels of a bed system in the channel order of ITU-R
BS.2051, with LFE channels marked (R128; the order and the labels are BS.2051's, PRESUMED, log entry 7). -/
def bedChannels : Nat → List (Int × Int × Bool)
  | 1 => [(30, 0, false), (-30, 0, false)]
  | 2 => [(30, 0, false), (-30, 0, false), (0, 0, false), (0, 0, true), (110, 0, false), (-110, 0, false)]
  | 3 => bedChannels 2 ++ [(30, 30, false), (-30, 30, false)]
  | 4 => bedChannels 2 ++ [(30, 30, false), (-30, 30, false), (110, 30, false), (-110, 30, false)]
  | 5 => [(30, 0, false), (-30, 0, false), (0, 0, false), (0, 0, true), (90, 0, false), (-90, 0, false),
          (135, 0, false), (-135, 0, false)]
  | 6 => [(30, 0, false), (-30, 0, false), (0, 0, false), (0, 0, true), (90, 0, false), (-90, 0, false),
          (135, 0, false), (-135, 0, false), (45, 30, false), (-45, 30, false), (135, 30, false), (-135, 30, false)]
  | 7 => [(60, 0, false), (-60, 0, false), (0, 0, false), (45, -30, true), (135, 0, false), (-135, 0, false),
          (30, 0, false), (-30, 0, false), (180, 0, false), (-45, -30, true), (90, 0, false), (-90, 0, false),
          (45, 30, false), (-45, 30, false), (0, 30, false), (0, 90, false), (135, 30, false), (-135, 30, false),
          (90, 30, false), (-90, 30, false), (180, 30, false), (0, -30, false), (45, -30, false), (-45, -30, false)]
  | _ => []

/-- Effect of `OBJ_BED` (R128, R129, R144). The parameters of its objects that R129 does not fix take
their defaults (DESIGN CHOICE, log entry 60). -/
def runObjBed (c : Ctx) (m : Cmd) (_ : List Byte) (x : Leaf) : LEff :=
  let b := m.body
  let base := u16 b 0
  let system := u8 b 2
  let fade := u16 b 4
  let sc := x.scene
  if sc.clearingNow c.n then .no x sBadState
  else if system = 0 then
    match sc.objs.beds.find? fun d => d.base == base with
    | none => .no x sBadState
    | some bed =>
      if bed.removing.isSome then .no x sBadState else
        let is := span base (bedCount bed.system)
        let y := sc.modObjs is fun _ o => o.setEnabled c false c.first fade
        let mark : List Bed := mapIf (fun d => d.base == base)
          (fun d => { d with removing := some (c.first + fade) }) y.objs.beds
        let y := { y with objs := { y.objs with beds := mark } }
        (match refold c { x with scene := y } 2 [] with
         | (none, evs) => { x := x, status := sNoCapacity, evs := evs }
         | (some z, evs) => { x := z, evs := evs })
  else
    let is := span base (bedCount system)
    if is.any (fun i => (sc.obj i).enabled || (sc.obj i).run.bed.isSome || (sc.obj i).run.adm.isSome) ||
       sc.objs.maps.any (fun p => decide (p.2.base < base + bedCount system) && decide (base < p.2.base + p.2.count)) then
      .no x sBadState
    else
      let ma := x.nextTns
      let chans := bedChannels system
      let mk : Nat → Scene → Nat × (Int × Int × Bool) → Scene := fun first y p =>
        let i := p.1
        let pos := polar p.2.1 p.2.2.1 sc.objs.bedRadius
        let o : Obj := { sel := (sc.obj i).sel, enabled := true,
                         set := { gain := s16 b 6, flags := 1 }, anchor := { pos := pos, t := ma } }
        let run : ObjRun := { dir := pos, fade := (sc.obj i).run.fade.go c.n first fade 1,
                              gainR := Ramp.rest (amp (s16 b 6)), bed := some base, lfe := p.2.2.2 }
        y.modObj i fun _ => { o with run := run }
      let y := (is.zip chans).foldl (mk (x.enterAt c ((is.zip chans).foldl (mk c.first) sc))) sc
      let y := { y with objs := { y.objs with beds := y.objs.beds ++ [{ base := base, system := system }] } }
      match refold c { x with scene := y } 2 is with
      | (none, evs) => { x := x, status := sNoCapacity, evs := evs }
      | (some z, evs) => { x := z, evs := evs }

/-- `OBJ_BED` (R144). -/
def specObjBed : Spec where
  op := 0x0206
  len := fixedLen 8
  timed := true
  fields := fun s c =>
    let b := c.body
    [(0, decide (u16 b 0 + max 1 (bedCount (u8 b 2)) ≤ s.objCap c.fn)), rng 2 (u8 b 2) 0 7, resv c 3 1,
     rng 4 (u16 b 4) 0 4096, (6, u8 b 2 == 0 || gainOk (s16 b 6))]
  run := onLeaves runObjBed

/-- Release an ADM-owned object with the map's fade (R139, R144). -/
def Obj.admRelease (o : Obj) (c : Ctx) (fade : Nat) : Obj := o.setEnabled c false c.first fade

/-- The objects of a map: its range and its overflow members. -/
def AdmMap.objects (m : AdmMap) : List Nat := span m.base m.count ++ m.overflow.map Prod.snd

/-- Effect of `OBJ_ADM_MAP` (R138, R144). Objects of the range that are already enabled stay so, without
an ADM object (DESIGN CHOICE, log entry 61). -/
def runObjAdmMap (c : Ctx) (m : Cmd) (_ : List Byte) (x : Leaf) : LEff :=
  let b := m.body
  let id := u8 b 0
  let sc := x.scene
  let base := u16 b 6
  let count := u16 b 8
  if sc.clearingNow c.n then .no x sBadState else
    let old := tfind sc.objs.maps id
    let y := match old with
      | none => sc
      | some q => sc.modObjs q.objects fun _ o =>
          let o := o.admRelease c q.fade
          { o with run := { o.run with adm := none, lfe := false } }
    let y := { y with objs := { y.objs with maps := tdel y.objs.maps id } }
    if u8 b 1 = 0 then
      (match refold c { x with scene := y } 4 [] with
       | (none, evs) => { x := x, status := sNoCapacity, evs := evs }
       | (some z, evs) => { x := z, evs := evs })
    else
      let clash := y.objs.beds.any (fun d => decide (d.base < base + count) && decide (base < d.base + bedCount d.system)) ||
        y.objs.maps.any (fun p => decide (p.2.base < base + count) && decide (base < p.2.base + p.2.count))
      if clash then .no x sBadState else
        let mp : AdmMap := { metaS := u16 b 2, audio := u16 b 4, base := base, count := count,
                             basePrio := u8 b 10, mode := u8 b 11, fade := u16 b 12 }
        let y := y.modObjs (span base count) fun _ o =>
          let o := o.rerender c { (o.run.change).getD o.rend with mode := u8 b 11 }
          { o with run := { o.run with adm := some id } }
        let y := { y with objs := { y.objs with maps := tins y.objs.maps id mp } }
        match refold c { x with scene := y } 4 [] with
        | (none, evs) => { x := x, status := sNoCapacity, evs := evs }
        | (some z, evs) => { x := z, evs := evs }

/-- `OBJ_ADM_MAP` (R144). -/
def specObjAdmMap : Spec where
  op := 0x0207
  len := fixedLen 16
  timed := true
  fields := fun s c =>
    let b := c.body
    let on := u8 b 1 == 1
    let cap := s.objCap c.fn
    [rng 0 (u8 b 0) 0 15, rng 1 (u8 b 1) 0 1, (2, !on || decide (u16 b 2 < 64)), (4, !on || decide (u16 b 4 < 64)),
     (6, !on || decide (u16 b 6 + u16 b 8 ≤ cap)), (8, !on || within 1 cap (u16 b 8)), (11, !on || decide (u8 b 11 < 2)),
     (12, !on || within 16 4096 (u16 b 12)), resv c 14 2]
  run := onLeaves runObjAdmMap

/-- The response of `OBJ_QUERY` (R144), at the latest meridian. -/
def objQueryResp (x : Leaf) (i : Nat) : List Byte :=
  let sc := x.scene
  let o := sc.obj i
  let n := x.clk.dom.sample
  let cl := sc.objs.clusters.find? fun c => c.live && c.members.contains i
  let lvl := o.run.fade
  let state := if lvl.busy n then (if lvl.target = 1 then 2 else 3) else if o.enabled then 1 else 0
  let host := cl.map Cluster.host
  let role := if o.run.muted then 4 else if o.run.bed.isSome then 3
    else if host = some i then 1 else if host.isSome then 2 else if o.run.adm.isSome then 5 else 0
  let p := o.traj x.now
  let spread := if host = some i then (cl.map Cluster.spread).getD 0 else o.run.spreadR.at_ n
  let g := if o.run.gainR.busy n then cdbOf (o.run.gainR.at_ n) else o.set.gain
  le8 state ++ le8 role ++ le16 (host.getD 65535) ++ f32le p.x ++ f32le p.y ++ f32le p.z ++ f32le spread ++
    sle16 g ++ le8 o.points.length ++
    le8 (if host = some i then min 255 ((cl.map fun c => c.members.length).getD 0) else 0) ++
    le16 sc.units ++ le16 (o.run.adm.getD 65535) ++ zeros 4

/-- `OBJ_QUERY` (R144). -/
def specObjQuery : Spec where
  op := 0x0208
  len := fixedLen 4
  fields := fun s c => [(0, decide (u16 c.body 0 < s.objCap c.fn)), resv c 2 2]
  run := onLeaves fun _ c _ x => { x := x, resp := objQueryResp x (u16 c.body 0) }

/-! Device steps of the chapter. -/

/-- Apply one record of a position commit: reject it on its own with its event, or apply it (R75). One
that comes while `SCN_CLEAR` runs, or for an object of an ADM map, is ignored without an event (R138,
R143), and so is all but the gain of one for a bed object (R129). -/
def applyWindowRecord (c : Ctx) (buf : Nat) (b : List Byte) (ma : Nat) (acc : Leaf × List Ev) (i : Nat) :
    Leaf × List Ev :=
  let x := acc.1
  let o := x.scene.obj i
  if u8 b 0 = 0 ∨ x.scene.clearingNow c.n = true then acc
  else
    let rej : Nat → Leaf × List Ev := fun off =>
      (x, acc.2 ++ [{ code := 0x01F3, sev := 2, subject := i, payload := le8 buf ++ le8 off }])
    if objCap x.clk.dom.rate ≤ i then rej 0
    else if o.run.adm.isSome then acc
    else match lowestBad (recordChecks b 0 ma o.run.bed.isSome) with
      | some off => rej off
      | none => (x.modScene fun s => s.modObj i fun o => o.applyRecord c ma b 0, acc.2)

/-- A window buffer's record bytes. -/
def Fn.posRecord (f : Fn) (buf i : Nat) : List Byte :=
  mread winDefault f.mail.win (0x20000 + buf * 0x8000 + i * 64) 64

/-- The sample of a function's first pending commit has come (R71, R73). -/
def State.commitDue (s : State) (f : FnId) : Bool :=
  match (s.fn f).mail.posQ with
  | [] => false
  | p :: _ =>
    let want := u64 (mread winDefault (s.fn f).mail.win (0x30000 + p.buf * 64) 64) 0
    (s.fnDom f).rate != 0 && !(s.servers f).isEmpty &&
      (want == 0 || decide (countOf (rateHz (s.fnDom f).rate) want ≤ (s.fnDom f).nextCount))

/-- Apply the first pending commit of a function if its sample has come (R71 to R76). Its header's
reserved bytes are not read (DESIGN CHOICE, log entry 58). -/
def applyCommit (f : FnId) (s : State) : State :=
  match (s.fn f).mail.posQ with
  | [] => s
  | p :: rest =>
    let fs := rateHz (s.fnDom f).rate
    let hdr := mread winDefault (s.fn f).mail.win (0x30000 + p.buf * 64) 64
    let want := u64 hdr 0
    let k := (s.fnDom f).nextCount
    if s.commitDue f = false then s
    else
      let due := countOf fs (max want p.after)
      let late := want ≠ 0 ∧ (countTns fs due < p.time + 100000 ∨ due < k)
      let ma := countTns fs k
      let one : State → LeafId × Bool → State := fun s lg =>
        let x := s.leaf lg.1
        let x := if lg.2 then x.swapGuest else x
        let c : Ctx := { leaf := lg.1, fn := f, n := x.next, prep := want ≠ 0 ∧ ¬late }
        let r := (List.range 512).foldl (fun acc i => applyWindowRecord c p.buf ((s.fn f).posRecord p.buf i) ma acc i) (x, [])
        let y := if lg.2 then r.1.swapGuest else r.1
        r.2.foldl (fun s v => s.sceneEvent lg.1 lg.2 v.code v.sev v.subject v.payload 255 0 (u32 hdr 8)) (s.setLeaf lg.1 y)
      let s := (s.servers f).foldl one s
      let recs := ((List.range 512).map fun i => (i, (s.fn f).posRecord p.buf i)).filter fun r => u8 r.2 0 != 0
      let s := s.journalPush f { cmd := { fn := f }, buf := p.buf, recs := recs, at_ := ma }
      let s := s.modFn f fun x => { x with
        lastBuf := p.buf, lateLast := late, applied := (x.applied + 1) % 65536, mail := { x.mail with posQ := rest } }
      let s := if late then
          s.event f { code := 0x01F2, severity := 2, leaf := s.leafByte f, time := s.fnNow f, tag := u32 hdr 8,
                      payload := le8 p.buf ++ zeros 7 ++ le64 want ++ le64 ma }
        else s
      s.raise f 4

/-- Change a leaf's own scene state and raise the events. -/
def State.onLeaf (s : State) (l : LeafId) (g : Leaf → Leaf × List Ev) : State :=
  let r := g (s.leaf l)
  r.2.foldl (fun s v => s.leafEvent l v.code v.sev v.subject v.payload v.autonomy v.flags) (s.setLeaf l r.1)

/-- `OBJ_XFADE_END` (R122): a cross-fade that has taken its last step ends; the waiting change starts
at the coming sample. -/
def Obj.xfadeEnd (o : Obj) (n : Nat) : Obj :=
  match o.run.xf with
  | none => o
  | some f =>
    if f.level.busy (n - 1) then o else
      let o := { o with run := { o.run with xf := none } }
      match o.run.change with
      | none => o
      | some r => ({ o with run := { o.run with change := none } }).rerender { n := n, prep := true } r

/-- `OBJ_XFADE_END` (R122)
(DESIGN CHOICE, log entry 36). -/
def execObjXfadeEnd (l : LeafId) (i : Nat) (s : State) : Res :=
  .next (s.eachScene l fun s => s.modLeaf l fun x => x.modScene fun y => y.modObj i fun o => o.xfadeEnd x.next)

/-- The return of `SCN_CLEAR` at its sample (R143). -/
def Leaf.clearReturn (x : Leaf) : Leaf :=
  match x.scene.objs.clearing with
  | none => x
  | some (_, stop) => if x.next < stop then x else x.modScene Scene.returned

/-- `SCN_CLEAR_RETURN` (R143). -/
def execScnClearReturn (l : LeafId) (s : State) : Res :=
  .next (s.eachScene l fun s => s.modLeaf l Leaf.clearReturn)

/-- The end of a bed's removal: its objects return to their defaults (R144). -/
def Leaf.bedEnd (x : Leaf) (base : Nat) : Leaf :=
  match x.scene.objs.beds.find? fun d => d.base == base with
  | none => x
  | some bed =>
    match bed.removing with
    | none => x
    | some stop =>
      if x.next < stop then x else
        x.modScene fun y =>
          let y := y.modObjs (span base (bedCount bed.system)) fun _ o => { sel := o.sel }
          { y with objs := { y.objs with beds := y.objs.beds.filter fun d => d.base != base } }

/-- `BED_REMOVE_END` (R144). -/
def execBedRemoveEnd (l : LeafId) (base : Nat) (s : State) : Res :=
  .next (s.eachScene l fun s => s.modLeaf l fun x => x.bedEnd base)

/-- The ingress channel that an ADM object's audio comes from: channel `trackID` − 1 of the map's audio
stream (R138, R259). -/
def AdmMap.source (m : AdmMap) (track : Nat) : Nat := 16777216 + m.audio * 64 + (track - 1)

/-! The ADM parameters honoured (R140). -/

/-- A `DirectSpeakers` object is handled as an LFE channel. -/
def admLfe (a : AdmObj) : Bool :=
  a.typeDef == 1 && (a.lfeLabel || match a.lowPass with
    | none => false
    | some f => decide (f ≤ 200))

/-- The position of an ADM object under the scene's ADM scaling. -/
def admPos (a : AdmObj) (q : SceneObjs) : V3 :=
  if a.typeDef = 1 then
    (if a.cartesian then vscale q.admRadius (vunit { x := a.a, y := a.b, z := a.c }) else polar a.a a.b q.admRadius)
  else if a.cartesian then { x := a.a * q.admX, y := a.b * q.admY, z := a.c * q.admZ }
  else polar a.a a.b (q.admRadius * a.c)

/-- The gain of an ADM object as a cdb number
(DEDUCED, log entry 40). -/
def admCdb (a : AdmObj) : Int :=
  if a.gainDb then clampI (-12000) 2400 (a.gain * 100 + 1 / 2).floor
  else if a.gain = 0 then -32768 else clampI (-12000) 2400 (cdbOf a.gain)

/-- The spread of an ADM object, `diffuse` last. -/
def admSpread (a : AdmObj) : Rat :=
  let s := minQ 360 (maxQ 0 (if a.cartesian then 180 * maxQ (maxQ a.width a.height) a.depth else maxQ a.width a.height))
  s + a.diffuse * (360 - s)

/-- The trajectory points of an ADM object for a frame that addresses time `t`
(DEDUCED, log entry 40). -/
def admPoints (a : AdmObj) (o : Obj) (q : SceneObjs) (t : Nat) : List Point :=
  let p := admPos a q
  let from_ := t + a.rtime
  if !a.jump then [{ pos := p, t := from_ + a.duration }]
  else if a.interp = 0 then [{ pos := p, t := from_, jump := true }]
  else [{ pos := o.traj from_, t := from_ }, { pos := p, t := from_ + a.interp }]

/-- An ADM object's parameters on its device object
(DEDUCED, log entry 40). -/
def Obj.admApply (o : Obj) (c : Ctx) (ma t : Nat) (q : SceneObjs) (mp : AdmMap) (a : AdmObj) : Obj :=
  let src := mp.source a.track
  let sel : Sel := if src = o.sel.src then o.sel else { src := src, old := o.sel.src, first := c.first, len := mp.fade, eff := some c.n }
  let o := { o with sel := sel, set := { o.set with priority := min 255 (mp.basePrio + 12 * a.importance) },
                    run := { o.run with lfe := admLfe a } }
  let o := (o.setGain c (admCdb a)).setSpread c (admSpread a)
  (admPoints a o q t).foldl (fun o p => o.addPoint ma p) o

/-- What an ADM frame has changed so far: the leaf, the map and the events. -/
structure AdmStep where
  x : Leaf
  mp : AdmMap
  evs : List Ev := []

/-- An ADM object stays unassigned; its first such frame reports it (R139)
(DEDUCED, log entry 40). -/
def AdmStep.unmapped (w : AdmStep) (id cause : Nat) (a : AdmObj) : AdmStep :=
  if w.mp.reported.contains a.id then w else
    { w with mp := { w.mp with reported := w.mp.reported ++ [a.id] },
             evs := w.evs ++ [{ code := 0x02F2, sev := 2, payload := le8 id ++ le8 cause ++ le32 a.id }] }

/-- An object of a map that no ADM object uses and that has faded out (R139). -/
def Scene.admFree (x : Scene) (mp : AdmMap) (n : Nat) : Option Nat :=
  let used := mp.assigned.map Prod.snd
  (span mp.base mp.count).find? fun i => !used.contains i && !((x.obj i).run.fade.busy (n - 1))

/-- The direction and number of the unit that an assigned object stands in: its cluster, or itself. -/
def Scene.unitOf (x : Scene) (t i : Nat) : Nat × V3 :=
  match x.objs.clusters.find? fun c => c.live && c.members.contains i with
  | some c => (c.host, c.dir)
  | none => (i, dirOf ((x.obj i).pos t) (x.obj i).run.dir)

/-- An ADM object takes an object, which begins its fade-in (R139). It stands at its first position at
once (DESIGN CHOICE, log entry 62)
(DEDUCED, log entry 40). -/
def AdmStep.enter (w : AdmStep) (c : Ctx) (t ma i : Nat) (a : AdmObj) (old : Obj) : Leaf :=
  let q := w.x.scene.objs
  let put : Nat → Scene := fun first => w.x.scene.modObj i fun _ =>
    (({ old with anchor := { pos := admPos a q, t := ma }, points := [] } : Obj).setEnabled c true first w.mp.fade).admApply c ma t q w.mp a
  { w.x with scene := put (w.x.enterAt c (put c.first)) }

/-- One ADM object of a frame: it keeps its object, takes the lowest free one, becomes an overflow member
of the nearest assigned unit of a full range in fold mode 2, or stays unassigned (R138, R139)
(DEDUCED, log entry 40). -/
def AdmStep.object (w : AdmStep) (c : Ctx) (id t ma : Nat) (a : AdmObj) : AdmStep :=
  let x := w.x
  let mp := w.mp
  let q := x.scene.objs
  match (mp.assigned ++ mp.overflow).find? fun p => p.1 == a.id with
  | some p => { w with x := x.modScene fun s => s.modObj p.2 fun o => o.admApply c ma t q mp a }
  | none =>
    if a.typeDef ≠ 1 ∧ a.typeDef ≠ 3 then w.unmapped id 1 a
    else if a.track = 0 ∨ (tget x.scene.net.rx mp.audio ({} : RxStream)).set.channels < a.track then w.unmapped id 2 a
    else match x.scene.admFree mp c.n with
      | some i =>
        (match refold c (w.enter c t ma i a (x.scene.obj i)) 4 [i] with
         | (some z, e2) => { x := z, mp := { mp with assigned := mp.assigned ++ [(a.id, i)] }, evs := w.evs ++ e2 }
         | (none, e2) => ({ w with evs := w.evs ++ e2 } : AdmStep).unmapped id 0 a)
      | none =>
        let near := nearestTo (admPos a q) (mp.assigned.map fun p => x.scene.unitOf ma p.2)
        match near, (span (1024 + 4096 * id) 4096).find? fun v => tfind q.objs v == none with
        | some h, some v =>
          if q.foldMode ≠ 2 then w.unmapped id 0 a
          else
            let o : Obj := { rend := { mode := mp.mode }, run := { adm := some id, joins := some h.1, cur := { rend := { mode := mp.mode } } } }
            (match refold c (w.enter c t ma v a o) 4 [v] with
             | (some z, e2) => { x := z, mp := { mp with overflow := mp.overflow ++ [(a.id, v)] }, evs := w.evs ++ e2 }
             | (none, e2) => ({ w with evs := w.evs ++ e2 } : AdmStep).unmapped id 0 a)
        | _, _ => w.unmapped id 0 a

/-- Overflow members whose map has a free object move to it, and those that have faded out are gone
(R139)
(DEDUCED, log entry 40). -/
def Leaf.admSettle (x : Leaf) (c : Ctx) : Leaf × List Ev :=
  let kept := x.scene.objs.objs.filter fun p => !slotless p.1 || p.2.enabled || p.2.run.fade.busy (c.n - 1)
  let x := x.modScene fun s => { s with objs := { s.objs with objs := kept } }
  x.scene.objs.maps.foldl (fun (a : Leaf × List Ev) p =>
    let x := a.1
    let mp := p.2
    match mp.overflow, x.scene.admFree mp c.n with
    | (aid, v) :: rest, some i =>
      let o := x.scene.obj v
      let sc := x.scene.modObj i fun _ => { o with run := { o.run with joins := none } }
      let mp := { mp with overflow := rest, assigned := mp.assigned ++ [(aid, i)] }
      let y := { x with scene := { sc with objs := { sc.objs with objs := tdel sc.objs.objs v, maps := tins sc.objs.maps p.1 mp } } }
      (match refold c y 4 [] with
       | (some z, e2) => (z, a.2 ++ e2)
       | (none, _) => a)
    | _, _ => a) (x, [])

/-- A serial ADM frame for a map (R139): the objects absent from a full frame are released, the others
keep or take their places, and a changed priority counts for folding (R132). A frame that is not
uncompressed XML, or without its kind-1 stream, does nothing (R334), nor does one while `SCN_CLEAR` runs
(DEDUCED, log entry 40). -/
def admFrame (c : Ctx) (x : Leaf) (id : Nat) (fr : AdmFrame) : Leaf × List Ev :=
  match tfind x.scene.objs.maps id with
  | none => (x, [])
  | some mp0 =>
    let meta_ := tget x.scene.net.rx mp0.metaS ({} : RxStream)
    if !fr.good || !meta_.on || meta_.set.kind != 1 || x.scene.clearingNow c.n then (x, []) else
      let ma := x.nextTns
      let here := fr.objs.map AdmObj.id
      let stays : Nat × Nat → Bool := fun p => !fr.full || here.contains p.1
      let gone := (mp0.assigned ++ mp0.overflow).filter fun p => !stays p
      let sc := gone.foldl (fun s p => s.modObj p.2 fun o => o.admRelease c mp0.fade) x.scene
      let mp := { mp0 with assigned := mp0.assigned.filter stays, overflow := mp0.overflow.filter stays,
                           reported := mp0.reported.filter fun i => !fr.full || here.contains i }
      let w := fr.objs.foldl (fun (w : AdmStep) a => w.object c id fr.time ma a) { x := { x with scene := sc }, mp := mp }
      let y := w.x.modScene fun s => { s with objs := { s.objs with maps := tins s.objs.maps id w.mp } }
      let prio : Scene → List Nat := fun s => (mp.assigned ++ mp.overflow).map fun p => (s.obj p.2).set.priority
      if gone.isEmpty && prio x.scene == prio y.scene then (y, w.evs) else
        match refold c y 4 [] with
        | (some z, e2) => (z, w.evs ++ e2)
        | (none, _) => (y, w.evs)

/-- `ADM_FRAME` (R139, R140, R334). -/
def execAdmFrame (l : LeafId) (id : Nat) (fr : AdmFrame) (s : State) : Res :=
  let go : State → State := fun s => s.onLeaf l fun x => admFrame { leaf := l, n := x.next, prep := true } x id fr
  .next (if fr.guest then s.asGuest l go else go s)

end Sys2Proof.Machine
end

