-- ==== Sys2Proof/Machine/Layout.lean ====
section
/-! DEFINITION. Speaker layouts and the gain solver (chapter 6), and the commands of group 0x03. -/

namespace Sys2Proof.Machine

/-! Segments (R148). -/

/-- The default of a speaker that is not listed. -/
def spk0 : Speaker := {}

/-- A speaker's resolved orientation: its own axis, or aimed at the reference point. -/
def Speaker.axis (k : Speaker) : V3 :=
  if norm2 k.orient = 0 then vunit (vscale (-1) k.pos) else vunit k.orient

/-- Members of a segment that have been written. -/
def Segment.list (g : Segment) : List Nat := g.members.filterMap id

/-- The mean of the members' positions. -/
def Layout.segCentre (l : Layout) (g : Segment) : V3 :=
  let ms := g.list
  vscale (1 / (max 1 ms.length : Nat)) (ms.foldl (fun a k => vadd a (tget l.speakers k spk0).pos) ⟨0, 0, 0⟩)

/-- The largest distance from the centroid to a member. -/
def Layout.segHalf (l : Layout) (g : Segment) : Rat :=
  let c := l.segCentre g
  g.list.foldl (fun m k => maxQ m (vlen (vsub (tget l.speakers k spk0).pos c))) 0

/-- The audience normal before its normalisation. -/
def Layout.segAxis (l : Layout) (g : Segment) : V3 :=
  g.list.foldl (fun a k => vadd a (tget l.speakers k spk0).axis) ⟨0, 0, 0⟩

/-- A segment may not be committed (R151 code 3). -/
def Layout.segBad (l : Layout) (g : Segment) : Bool :=
  g.members.any (fun m => m.isNone) || g.list.any (fun k => (tget l.speakers k spk0).kind != 1) ||
    decide (g.list.eraseDups.length ≠ g.list.length) || decide (norm2 (l.segAxis g) = 0)

/-! The gain solver (R153 to R171). -/

/-- The environment of one solver run: the sample at which it works with its meridian, the span of its
ramps, and the last meridian of that span, at which it evaluates. -/
structure Solve where
  n : Nat          -- sample of the run
  first : Nat      -- sample of step 0
  len : Nat        -- steps
  now : Nat        -- meridian of the run's sample in tns
  last : Nat       -- meridian of the last step in tns
  mid : List Nat   -- meridians from the run's sample on, newest first
  fs : Nat
  rend : SceneRend
  cSound : Rat     -- speed of sound in force

/-- New ramps of a gain vector from the values in force to targets in binary32 (R156): a fresh rendering stands at them,
other speakers ramp, those at zero and without a target are dropped. -/
def Solve.ramps (v : Solve) (fresh : Bool) (old : List (Nat × Ramp)) (tgt : List (Nat × Rat)) : List (Nat × Ramp) :=
  let tgt := tgt.map fun p => (p.1, f32Solved p.2)
  if fresh then (sortBy (fun a b => decide (a.1 ≤ b.1)) tgt).map fun p => (p.1, Ramp.rest p.2)
  else
    let keys := (old.map Prod.fst ++ tgt.map Prod.fst).eraseDups
    let keys := sortBy (fun a b => decide (a ≤ b)) keys
    keys.filterMap fun k =>
      let from_ := ((old.find? fun p => p.1 == k).map fun p => p.2.at_ (v.n - 1)).getD 0
      let dest := ((tgt.find? fun p => p.1 == k).map Prod.snd).getD 0
      if from_ = 0 ∧ dest = 0 then none
      else some (k, { start := from_, target := dest, first := v.first, len := v.len })

/-- The near-field widening of an object at distance r (R161). -/
def nearBeta (flags : ObjSet) (rNf r : Rat) : Rat :=
  if flags.flag 4 ∧ r < rNf then 1 - r / rNf else 0

/-- The taper of list position m of M (R169). -/
def taperOf (alpha : Rat) (m M : Nat) : Rat :=
  let am := alpha * (M : Rat)
  let f : Nat → Rat := fun i =>
    let x := (i : Rat) + 1 / 2
    if x < am then (1 - cosPi (x / am)) / 2 else 1
  if alpha = 0 then 1 else minQ (f m) (f (M - 1 - m))

/-- One wavefront pair's raw target delay in samples (R167). -/
def pairDelay (v : Solve) (noDop focused : Bool) (bulk : Nat) (dRef h rk rc : Rat) : Rat :=
  let t := if focused then h - rk + rc else if noDop then rk - rc + h else rk - dRef
  (bulk : Rat) + (v.fs : Rat) * t / v.cSound

/-- Raw targets of a wavefront rendering: focus, and per member the speaker, raw delay and raw
amplitude before normalisation (R167, R169). -/
def waveTargets (v : Solve) (l : Layout) (g : Segment) (flags : ObjSet) (bulk : Nat) (p : V3) :
    Bool × List (Nat × Rat × Rat) :=
  let c := l.segCentre g
  let h := l.segHalf g
  let focused := decide (0 < dot (vsub p c) (l.segAxis g))
  let rc := vlen (vsub p c)
  let ms := g.list
  (focused, ms.zipIdx.map fun km =>
    let k := tget l.speakers km.1 spk0
    let d := vsub k.pos p
    let rk := vlen d
    let u := vunit (if focused then vscale (-1) d else d)
    let a := taperOf ((g.taper : Rat) / 1000) km.2 ms.length * maxQ 0 (dot u k.axis) *
      sqrtQ (1 / maxQ rk (1 / 4))
    (km.1, pairDelay v (flags.flag 1) focused bulk g.dRef h rk rc, a))

/-- Amplitudes scaled by the segment's normalisation (R169). -/
def normAmps (g : Segment) (l : List (Nat × Rat × Rat)) : List (Nat × Rat × Rat) :=
  let s := if g.norm = 0 then sqrtQ (sumQ (l.map fun p => p.2.2 * p.2.2)) else sumQ (l.map fun p => p.2.2)
  if s = 0 then l else l.map fun p => (p.1, p.2.1, p.2.2 / s)

/-- A pair takes a raw target delay and an amplitude (R168 to R171): at once where its rendering begins,
by a dip over the span, or with a glide of its delay by at most `sigma` a sample. A dip under way keeps its
middle and ends with the new span
(DEDUCED, log entry 37). -/
def WavePair.aim (w : WavePair) (v : Solve) (fresh dips : Bool) (sigma raw a : Rat) : WavePair :=
  let tgt := clampQ 4 32000 raw
  let h := v.len / 2
  let w := { w with target := tgt, raw := raw }
  if fresh then { w with delay := tgt, step := 0, amp := Ramp.rest a, dipAt := 0 }
  else if dips then
    { w with step := 0, amp := w.amp.go v.n v.first h 0, dipAt := v.first + h, dipAmp := a, dipLen := v.len - h }
  else if w.dipAt ≠ 0 then { w with dipAmp := a, dipLen := v.first + v.len - w.dipAt }
  else { w with step := clampQ (-sigma) sigma ((tgt - w.delay) / (v.len : Rat)), from_ := v.first, amp := w.amp.go v.n v.first v.len a }

/-- A pair whose member has gone dips out (R152). -/
def WavePair.leave (w : WavePair) (v : Solve) : WavePair :=
  if w.gone then w else { w with gone := true, dipAt := 0, amp := w.amp.go v.n v.first (v.len / 2) 0 }

/-- The amplitude that a pair moves to. -/
def WavePair.goal (w : WavePair) : Rat := if w.dipAt = 0 then w.amp.target else w.dipAmp

/-- Solve a wavefront rendering (R167 to R171). `dip` gives the speakers whose pairs move by a dip; all do
where the object changes between focused and not focused. Pairs of added members dip in. -/
def solveWave (v : Solve) (dip : Nat → Bool) (r : Rendering) (flags : ObjSet) (p : V3) : Rendering :=
  match tfind v.rend.lay.segments r.rend.segment with
  | none => { r with pairs := r.pairs.map fun q => q.leave v }
  | some g =>
    let t := waveTargets v v.rend.lay g flags r.rend.bulk p
    let ps := (normAmps g t.2).map fun q => (q.1, f32Solved q.2.1, f32Solved q.2.2)
    let sigma := (g.slew : Rat) / 1024
    let turns := t.1 != r.focused
    let upd : Nat × Rat × Rat → WavePair := fun q =>
      match r.pairs.find? fun w => w.speaker == q.1 && !w.gone with
      | some w => w.aim v r.fresh (turns || dip q.1) sigma q.2.1 q.2.2
      | none =>
        let tgt := clampQ 4 32000 q.2.1
        { speaker := q.1, delay := tgt, target := tgt, raw := q.2.1,
          amp := if r.fresh then Ramp.rest q.2.2 else
            { start := 0, target := q.2.2, first := v.first + v.len / 2, len := v.len - v.len / 2 } }
    let gone := (r.pairs.filter fun w => w.gone || !(ps.any fun q => q.1 == w.speaker)).map fun w => w.leave v
    { r with pairs := ps.map upd ++ gone, focused := t.1 }

/-- Solve one rendering for a position, a direction and a spread (R153 to R171). -/
def solveRendering (v : Solve) (dip : Nat → Bool) (r : Rendering) (flags : ObjSet) (lfe : Bool) (p d : V3) (spread : Rat) :
    Rendering :=
  let l := v.rend.lay
  let h := v.rend.hull
  let beta := nearBeta flags v.rend.rNf (vlen p)
  let q : Rendering :=
    if lfe then
      let lows := l.low
      { r with gains := v.ramps r.fresh r.gains (lows.map fun k => (k, 1 / sqrtQ (lows.length : Rat))) }
    else match r.rend.mode with
      | 0 => { r with gains := v.ramps r.fresh r.gains (widen l h d beta (pan l h d)) }
      | 1 =>
        let s := spread + beta * (360 - spread)
        let dirs := vDirs d s
        let w := 1 / sqrtQ (dirs.length : Rat)
        let count := max dirs.length r.srcs.length
        let srcs := (List.range count).map fun k =>
          let tgt := match dirs[k]? with
            | none => []
            | some u => (pan l h u).map fun g => (g.1, g.2 * w)
          v.ramps r.fresh (r.srcs.getD k []) tgt
        { r with srcs := srcs, vs := dirs.length }
      | _ => solveWave v dip r flags p
  { q with fresh := false }

/-- The position that a solver run evaluates: at the last meridian of its span, or just before a jump
after its first meridian (R153). -/
def Obj.blockPos (o : Obj) (v : Solve) : V3 :=
  match o.points.find? fun p => p.jump && decide (v.now < p.t) && decide (p.t ≤ v.last) with
  | some p => o.pos (p.t - 1)
  | none => o.pos v.last

/-- That position without the offset of a voice group (R232). -/
def Obj.ownPos (o : Obj) (v : Solve) : V3 := ({ o with run := { o.run with off := {} } } : Obj).blockPos v

/-- The direction of an object at the end of a solver run: of the position there, or of the last one beyond
1 mm that its trajectory has had (R126). -/
def Obj.blockDir (o : Obj) (v : Solve) (p : V3) : V3 :=
  if 1 / 1000000 ≤ norm2 p then p
  else match (v.mid.map o.pos).find? fun q => decide (1 / 1000000 ≤ norm2 q) with
    | some q => q
    | none => o.run.dir

/-- The settings that course work uses for sample n (R88). -/
def Obj.cw (o : Obj) (n : Nat) : ObjSet :=
  match o.run.held with
  | some (k, h) => if n ≤ k then h else o.set
  | none => o.set

/-- The air-absorption coefficient at a distance, in binary32 (R156, R162). -/
def airCoef (fs : Nat) (rAir r : Rat) : Rat :=
  if r ≤ rAir then 0 else clampQ 0 1 (f32Solved (expQ (-(2 * piQ * 20000 * rAir / r) / (fs : Rat))))

/-- The object sounds at sample n: enabled or fading, and not muted (R137, R144). -/
def Obj.sounds (o : Obj) (n : Nat) : Bool := (o.enabled || o.run.fade.busy (n - 1)) && !o.run.muted

/-- The first sample after the span of a solver run. -/
def Solve.stop (v : Solve) : Nat := v.first + v.len

/-- Solve the renderings of an object that `due` admits, and with the present one its air coefficient, for
the span of a run. -/
def Obj.solve (o : Obj) (v : Solve) (flags : ObjSet) (dip : Nat → Bool) (due : Rendering → Bool) : Obj :=
  let p := o.blockPos v
  let d := o.blockDir v p
  let spread := o.run.spreadR.at_ (v.stop - 1)
  let go : Rendering → Rendering := fun r => if due r then solveRendering v dip r flags o.run.lfe p d spread else r
  let b := if flags.flag 3 then airCoef v.fs v.rend.rAir (vlen p) else 0
  let air := if !due o.run.cur then o.run.air
    else if o.run.cur.fresh then Ramp.rest b else o.run.air.go v.n v.first v.len b
  { o with run := { o.run with
      cur := go o.run.cur, xf := o.run.xf.map fun f => { f with old := go f.old }, air := air } }

/-- Centroid, direction and spread of a cluster at the end of a solver run (R134, R153). -/
def Scene.shapeAt (x : Scene) (v : Solve) (members : List Nat) (last : V3) : V3 × V3 × Rat :=
  x.shapeOf (fun i =>
    let o := (x.obj i).cwTraj v.n
    let p := o.blockPos v
    (p, o.blockDir v p, o.run.spreadR.at_ (v.stop - 1))) members last

/-- Recompute a cluster's centroid and spread, and solve its rendering where a change has not just done so
(R134, R153, R154)
(DEDUCED, log entry 37). -/
def Cluster.solve (c : Cluster) (sc : Scene) (v : Solve) : Cluster :=
  let sh := if c.members.isEmpty then (c.pos, c.dir, c.spread) else sc.shapeAt v c.members c.dir
  let c := { c with pos := sh.1, dir := sh.2.1, spread := sh.2.2 }
  if v.n < c.render.skip then c
  else { c with render := solveRendering v (fun _ => false) c.render {} false c.pos c.dir c.spread }

/-- The solver block that begins at the sample of a run (R153, R134). What a change has solved up to a later
sample is left alone (R154). -/
def Scene.solveBlock (x : Scene) (v : Solve) : Scene :=
  let y := x.modObjs (x.objs.objs.map Prod.fst) fun _ o =>
    let h := o.cwTraj v.n
    let o : Obj := { o with run := { o.run with seat := h.ownPos v } }
    if !o.sounds v.n then o
    else
      let r := (h.solve v (o.cw v.n) (fun _ => false) fun q => decide (q.skip ≤ v.n)).run
      { o with run := { o.run with cur := r.cur, xf := r.xf, air := r.air } }
  let cl := y.objs.clusters.map fun c => c.solve y v
  { y with objs := { y.objs with clusters := cl, solved := some v.n } }

/-- The replacement ramp of R154 at the coming sample n: span in samples, up to the end of the block,
or of the following one when fewer than 8 samples would remain. -/
def replaceLen (n : Nat) : Nat := let r := 16 - n % 16; if r < 8 then r + 16 else r

/-- The solver run of a change at the coming sample of a leaf (R154). -/
def Leaf.changeSolve (x : Leaf) (c : Ctx) : Solve :=
  let len := replaceLen c.n
  let k := x.clk.dom.nextCount
  { n := c.n, first := c.first, len := if c.prep then len else len - 1, now := x.nextTns, last := countTns x.fs (k + len - 1),
    mid := (List.range len).reverse.map fun j => countTns x.fs (k + j), fs := x.fs, rend := x.scene.rend,
    cSound := x.scene.rend.soundSpeed }

/-- Re-solve one object at a change (R154): the blocks that begin before the end of its span leave it
alone. -/
def Obj.resolve (o : Obj) (v : Solve) (dip : Nat → Bool) : Obj :=
  let o := o.solve v o.set dip fun _ => true
  let till : Rendering → Rendering := fun r => { r with skip := v.stop }
  { o with run := { o.run with cur := till o.run.cur, xf := o.run.xf.map fun f => { f with old := till f.old } } }

/-- Re-solve everything that sounds in a scene at a change (R152, R154); `dip` gives the pairs that dip, by
segment and speaker. -/
def Scene.resolveAll (x : Scene) (v : Solve) (dip : Nat → Nat → Bool) : Scene :=
  let y := x.modObjs (x.objs.objs.map Prod.fst) fun _ o =>
    if o.sounds v.n then o.resolve v (dip o.run.cur.rend.segment) else o
  let cl := y.objs.clusters.map fun q =>
    { q with render := { solveRendering v (dip q.render.rend.segment) q.render {} false q.pos q.dir q.spread with skip := v.stop } }
  { y with objs := { y.objs with clusters := cl } }

/-! Group 0x03. -/

/-- Feed capacity on the leaf that answers for a function. -/
def State.feedCap (s : State) (f : FnId) : Nat := Machine.feedCap (s.fnDom f).rate

/-- The f32 vector at a body offset. -/
def vecAt (b : List Byte) (i : Nat) : V3 := ⟨f32D b i, f32D b (i + 4), f32D b (i + 8)⟩

/-- Field checks of one `LAY_SPEAKER` record (R146). -/
def speakerChecks (b : List Byte) (i : Nat) : List (Nat × Bool) :=
  let near := u8 b (i + 24) == 1 && decide (norm2 (vecAt b i) < 1 / 100)
  [(i, f32In b i (-1000) 1000 && !near), (i + 4, f32In b (i + 4) (-1000) 1000), (i + 8, f32In b (i + 8) (-1000) 1000),
   (i + 12, (f32 b (i + 12)).isSome), (i + 16, (f32 b (i + 16)).isSome), (i + 20, (f32 b (i + 20)).isSome),
   (i + 24, decide (u8 b (i + 24) < 3)), (i + 25, allZero b (i + 25) 7)]

/-- `LAY_SPEAKER` (R175). -/
def specLaySpeaker : Spec where
  op := 0x0301
  len := fun c => (0, decide (1 ≤ u16 c.body 2) && decide (u16 c.body 2 ≤ 14) && c.bodyLen == 8 + 32 * u16 c.body 2 ||
    (decide (40 ≤ c.bodyLen) && decide (c.bodyLen ≤ 456) && (c.bodyLen - 8) % 32 == 0 && !within 1 14 (u16 c.body 2)))
  timed := true
  fields := fun s c =>
    let b := c.body
    let cap := s.feedCap c.fn
    [(0, decide (u16 b 0 + u16 b 2 ≤ cap)), rng 2 (u16 b 2) 1 14, resv c 4 4] ++
      ((List.range (min 14 (u16 b 2))).flatMap fun k => speakerChecks b (8 + 32 * k))
  run := onLeaves fun _ c _ x =>
    let b := c.body
    let put : Layout → Nat → Layout := fun l k =>
      let i := 8 + 32 * k
      let v : Speaker := { kind := u8 b (i + 24), pos := vecAt b i, orient := vecAt b (i + 12) }
      { l with speakers := tset l.speakers (u16 b 0 + k) (if v.kind = 0 then spk0 else v) spk0 }
    { x := x.modScene fun s => { s with rend := { s.rend with edit := (List.range (u16 b 2)).foldl put s.rend.edit } } }

/-- `LAY_SEGMENT` (R175). -/
def specLaySegment : Spec where
  op := 0x0302
  len := fun c =>
    let n := u16 c.body 6
    (0, if 230 < n then decide (20 ≤ c.bodyLen) && decide (c.bodyLen ≤ 480) && c.bodyLen % 2 == 0 else c.bodyLen == 20 + 2 * n)
  timed := true
  fields := fun _ c =>
    let b := c.body
    let set' := u8 b 1 == 1
    [(0, decide (u8 b 0 < 64)), rng 1 (u8 b 1) 0 1, (2, !set' || within 1 1024 (u16 b 2)),
     (4, !set' || decide (u16 b 4 + u16 b 6 ≤ u16 b 2)), (6, decide (u16 b 6 ≤ 230)), (8, !set' || f32In b 8 0 1000),
     (12, !set' || decide (u16 b 12 ≤ 500)), (14, !set' || within 1 512 (u16 b 14)), (16, !set' || decide (u8 b 16 < 2)),
     resv c 17 3]
  run := onLeaves fun _ c _ x =>
    let b := c.body
    let k := u8 b 0
    let upd : List (Nat × Segment) → List (Nat × Segment) := fun t =>
      if u8 b 1 = 0 then tdel t k else
        let g := (tfind t k).getD {}
        let total := u16 b 2
        let base := if g.members.length = total then g.members else List.replicate total none
        let ms := base.zipIdx.map fun p =>
          if u16 b 4 ≤ p.2 ∧ p.2 < u16 b 4 + u16 b 6 then some (u16 b (20 + 2 * (p.2 - u16 b 4))) else p.1
        tins t k { members := ms, dRef := f32D b 8, taper := u16 b 12, slew := u16 b 14, norm := u8 b 16 }
    { x := x.modScene fun s => { s with rend := { s.rend with edit := { s.rend.edit with segments := upd s.rend.edit.segments } } } }

/-- The refusal code of a commit (R151), or the hull. -/
def commitCheck (x : Leaf) (l : Layout) (dimension virt : Nat) : Except Nat Hull :=
  match buildHull l dimension virt with
  | .error k => .error k
  | .ok h =>
    if l.segments.any fun p => l.segBad p.2 then .error 3
    else
      let sc := x.scene
      let uses : Obj → Bool := fun o =>
        let bad : ObjRend → Bool := fun r => r.mode == 2 && (tfind l.segments r.segment).isNone
        bad o.rend || ((o.run.xf).map fun f => bad f.old.rend).getD false || ((o.run.change).map bad).getD false
      if sc.objs.objs.any fun p => uses p.2 then .error 4
      else if l.speakers.any fun p => decide (feedCap x.clk.dom.rate ≤ p.1) then .error 5
      else .ok h

/-- A commit from one layout to another changes the pair of a segment's speaker: the speaker, or the segment
with what the leaf derives for it (R148, R152)
(DEDUCED, log entry 37). -/
def pairChanges (old new : Layout) (k speaker : Nat) : Bool :=
  tget old.speakers speaker spk0 != tget new.speakers speaker spk0 ||
    match tfind old.segments k, tfind new.segments k with
    | some g, some h =>
      g != h || old.segCentre g != new.segCentre h || old.segHalf g != new.segHalf h || old.segAxis g != new.segAxis h
    | _, _ => true

/-- Effect of `LAY_COMMIT` (R147, R151, R152). A change of the edit buffer since the commit took it stays
there for a later one. -/
def runLayCommit (c : Ctx) (m : Cmd) (_ : List Byte) (x : Leaf) : LEff :=
  let sc := x.scene
  let l := ((sc.rend.staged.find? fun p => p.1 == m.acc).map Prod.snd).getD sc.rend.edit
  match commitCheck x l (u8 m.body 0) (u8 m.body 1) with
  | .error k => .no x sBadState k
  | .ok h =>
    let gen := (sc.rend.generation + 1) % 4294967296
    let r := { sc.rend with lay := l, hull := h, generation := gen,
                            staged := sc.rend.staged.filter fun p => p.1 != m.acc }
    let y : Leaf := { x with scene := { sc with rend := r } }
    if pairCap x.clk.dom.rate < y.pairUse then .no x sNoCapacity
    else
      let z := y.modScene fun s => s.resolveAll (y.changeSolve c) (pairChanges sc.rend.lay l)
      { x := z, detail := gen,
        evs := [{ code := 0x03F0, sev := 0,
                  payload := le32 gen ++ le16 l.full.length ++ le16 l.low.length ++ le16 h.faces.length ++ le8 h.dim ++ le8 h.vmask }] }

/-- `LAY_COMMIT` (R151): validation takes the edit buffer. -/
def specLayCommit : Spec where
  op := 0x0303
  len := fixedLen 8
  timed := true
  fields := fun _ c => [rng 0 (u8 c.body 0) 0 2, rng 1 (u8 c.body 1) 0 1, resv c 2 6]
  stage := fun c s => (s.servers c.fn).foldl (fun s lg =>
    let put : Scene → Scene := fun q => { q with rend := { q.rend with staged := q.rend.staged ++ [(c.acc, q.rend.edit)] } }
    s.modLeaf lg.1 fun x => if lg.2 then { x with guest := x.guest.map put } else x.modScene put) s
  run := onLeaves runLayCommit

/-- `LAY_QUERY` (R175). -/
def specLayQuery : Spec where
  op := 0x0304
  len := fixedLen 4
  fields := fun _ c => [(0, decide (u8 c.body 0 < 64) || u8 c.body 0 == 255), resv c 1 3]
  run := onLeaves fun _ c _ x =>
    let r := x.scene.rend
    let g := tfind r.lay.segments (u8 c.body 0)
    { x := x, resp := le32 r.generation ++ le16 r.lay.full.length ++ le16 r.lay.low.length ++ le16 r.hull.faces.length ++
        le8 r.hull.dim ++ le8 r.hull.vmask ++ le8 r.lay.segments.length ++ zeros 3 ++ le32 x.pairUse ++
        le32 (pairCap x.clk.dom.rate) ++ le16 ((g.map fun q => q.members.length).getD 0) ++ zeros 2 ++
        f32le ((g.map Segment.dRef).getD 0) }

/-- Distance gain of R160 at a distance, in binary32 (R156). -/
def distGain (flags : ObjSet) (r : SceneRend) (d : Rat) : Rat :=
  if !flags.flag 2 then 1 else
    let rmin : Rat := if flags.flag 4 then r.rNf else 1 / 10
    let q := r.rRef / maxQ d rmin
    minQ 4 (f32Solved (if r.law = 0 then 1 else if r.law = 1 then q else if r.law = 2 then q * q else powQ q r.law))

/-- The distance gain ramps from the value in force to that of the end of a span (R154, R163). -/
def Obj.rampDist (o : Obj) (v : Solve) : Obj :=
  { o with run := { o.run with
      dist := { start := o.run.dist.at_ (v.n - 1), target := distGain o.set v.rend (vlen (o.blockPos v)), first := v.first, len := v.len },
      distOn := v.stop } }

/-- `OBJ_CONFIG` with the solver's answer to a change of flags (R144, R154, R171): the object is solved
again, with a dip of its pairs when `NO_DOPPLER` changes. -/
def specObjConfigAll : Spec :=
  { specObjConfig with
    run := onLeaves fun c m d x =>
      let e := runObjConfig c m d x
      let i := u16 m.body 0
      let old := (x.scene.obj i).set.flags
      let new := e.x.scene.obj i
      if noEffect e.status || old == new.set.flags || !new.sounds c.n then e
      else
        let v := x.changeSolve c
        let dip : Nat → Bool := fun _ => bit old 1 != bit new.set.flags 1
        { e with x := e.x.modScene fun sc => sc.modObj i fun o => (o.resolve v dip).rampDist v } }

/-- Effect of `RND_CONFIG` (R154, R171, R175). -/
def runRndConfig (c : Ctx) (m : Cmd) (_ : List Byte) (x : Leaf) : LEff :=
  let b := m.body
  let sc := x.scene
  let r := { sc.rend with soundSpeed := f32D b 0, rRef := f32D b 4, law := f32D b 8, rNf := f32D b 12, rAir := f32D b 16 }
  let y : Leaf := x.modScene fun s => { s with rend := r }
  let v := y.changeSolve c
  let far := r.rRef != sc.rend.rRef || r.law != sc.rend.law || r.rNf != sc.rend.rNf
  let z := y.scene.modObjs (y.scene.objs.objs.map Prod.fst) fun _ o => if far && o.sounds c.n then o.rampDist v else o
  { x := { x with scene := z.resolveAll v fun _ _ => r.soundSpeed != sc.rend.soundSpeed } }

/-- `RND_CONFIG` (R175). -/
def specRndConfig : Spec where
  op := 0x0305
  len := fixedLen 24
  timed := true
  fields := fun _ c =>
    let b := c.body
    [(0, f32In b 0 300 380), (4, f32In b 4 (1 / 10) 100), (8, f32In b 8 0 2),
     (12, f32In b 12 (1 / 10) 10), (16, f32In b 16 1 1000), resv c 20 4]
  run := onLeaves runRndConfig

/-- The 32 largest of a list of speaker and amplitude, ties to the lower index. -/
def largest32 (l : List (Nat × Rat)) : List (Nat × Rat) :=
  (sortBy (fun a b => decide (b.2 < a.2) || (a.2 == b.2 && decide (a.1 ≤ b.1))) l).take 32

/-- Gains of a spread rendering by speaker over all virtual sources (R175). -/
def spreadGains (r : Rendering) (n : Nat) : List (Nat × Rat) :=
  let all := r.srcs.flatMap fun s => s.map fun p => (p.1, p.2.at_ n)
  let keys := sortBy (fun a b => decide (a ≤ b)) (all.map Prod.fst).eraseDups
  (keys.map fun k => (k, sqrtQ (sumQ ((all.filter fun p => p.1 == k).map fun p => p.2 * p.2)))).filter fun p => p.2 != 0

/-- The response of `RND_OBJ_QUERY` (R175). -/
def rndQueryResp (x : Leaf) (i : Nat) : List Byte :=
  let sc := x.scene
  let o := sc.obj i
  let n := x.clk.dom.sample
  let cid := o.run.place
  let cl := sc.objs.clusters.find? fun c => c.cid == cid
  let hosted := cid != 0 && ((cl.map fun c => c.host != i).getD false)
  let live := (o.enabled || o.run.fade.busy n) && !o.run.muted
  let r := if cid = 0 then o.run.cur else (cl.map Cluster.render).getD {}
  let kind := if !live then 4 else if hosted then 3 else r.rend.mode
  let es := if kind = 0 then largest32 ((r.gains.map fun p => (p.1, p.2.at_ n)).filter fun p => p.2 != 0)
    else if kind = 1 then largest32 (spreadGains r n)
    else if kind = 2 then largest32 (r.pairs.map fun p => (p.speaker, p.amp.at_ n)) else []
  let es := if kind = 0 then sortBy (fun a b => decide (a.1 ≤ b.1)) es else es
  let ds := if kind = 2 then r.pairs.map fun p => p.delay else []
  let dg := if n < o.run.distOn then o.run.dist.at_ n else distGain o.set sc.rend (vlen (o.pos x.now))
  le16 i ++ le8 kind ++ le8 es.length ++ le8 (if kind = 1 then r.vs else 0) ++ le8 (b2n (kind == 2 && r.focused)) ++
    sle16 (cdbOf dg) ++ f32le (minList ds) ++ f32le (ds.foldl maxQ 0) ++
    f32le ((if kind = 2 then r.pairs else []).foldl (fun m p => maxQ m (absQ (p.target - p.delay))) 0) ++
    le32 (sc.objPairs o) ++ zeros 8 ++
    padTo 128 (es.flatMap fun p => le16 p.1 ++ sle16 (cdbOf p.2))

/-- `RND_OBJ_QUERY` (R175). -/
def specRndObjQuery : Spec where
  op := 0x0306
  len := fixedLen 4
  fields := fun s c => [(0, decide (u16 c.body 0 < s.objCap c.fn)), resv c 2 2]
  run := onLeaves fun _ c _ x => { x := x, resp := rndQueryResp x (u16 c.body 0) }

/-- What one rendering of a unit reports at a solver block: pairs at a limit or all silent, and a delay that
lags by more than 16 samples (R168, R170): code and payload. Pairs in a dip lag nothing. -/
def Rendering.reports (r : Rendering) : List (Nat × List Byte) :=
  let seg := r.rend.segment
  let ps := r.pairs.filter fun w => !w.gone
  if r.rend.mode ≠ 2 ∨ ps.isEmpty = true then [] else
    let lim := match ps.find? fun w => decide (w.raw < 4) || decide (32000 < w.raw) with
      | some w => [(0x03F1, le8 seg ++ le8 (if w.raw < 4 then 0 else 1) ++ le16 w.speaker ++ f32le w.raw)]
      | none =>
        if ps.all fun w => w.goal == 0 then
          [(0x03F1, le8 seg ++ le8 2 ++ le16 ((ps.map WavePair.speaker).headD 0) ++ f32le ((ps.map WavePair.raw).headD 0))]
        else []
    let worst := (ps.filter fun w => w.dipAt == 0).foldl
      (fun m w => if absQ (m.target - m.delay) < absQ (w.target - w.delay) then w else m) {}
    let late := absQ (worst.target - worst.delay)
    lim ++ if 16 < late then [(0x03F2, le8 seg ++ le16 worst.speaker ++ f32le late)] else []

/-- Reports of a solver block over everything that sounds (R168, R170): object, code and payload; a cluster
reports for its host. -/
def waveReports (x : Scene) (n : Nat) : List (Nat × Nat × List Byte) :=
  let own := x.objs.objs.flatMap fun p =>
    if !p.2.sounds n then []
    else (p.2.run.cur.reports ++ ((p.2.run.xf.map fun f => f.old.reports).getD [])).map fun r => (p.1, r)
  own ++ x.objs.clusters.flatMap fun c => c.render.reports.map fun r => (c.host, r)

end Sys2Proof.Machine
end

