-- ==== Sys2Proof/Machine/Chain.lean ====
section
/-! DEFINITION. The output chain's settings, coefficient banks, swaps and delay equalisation (chapter
7), and the commands of group 0x04. -/

namespace Sys2Proof.Machine

/-- The default feed. -/
def feed0 : Feed := {}
/-- A feed of a scene. -/
def Scene.feed (x : Scene) (i : Nat) : Feed := tget x.out.feeds i feed0
/-- A scene with one feed changed. -/
def Scene.modFeed (x : Scene) (i : Nat) (f : Feed → Feed) : Scene :=
  { x with out := { x.out with feeds := tmod x.out.feeds i feed0 f } }
/-- A scene with several feeds changed. -/
def Scene.modFeeds (x : Scene) (is : List Nat) (f : Nat → Feed → Feed) : Scene :=
  is.foldl (fun x i => x.modFeed i (f i)) x
/-- The default bank: empty. -/
def bank0 : Bank := {}
/-- A bank of a scene. -/
def Scene.bank (x : Scene) (i : Nat) : Bank := tget x.out.banks i bank0
/-- A scene with one bank changed. -/
def Scene.modBank (x : Scene) (i : Nat) (f : Bank → Bank) : Scene :=
  { x with out := { x.out with banks := tmod x.out.banks i bank0 f } }

/-! Tap accounts (R190, R191). -/

/-- Feeds on which a bank is in force. -/
def Scene.inForce (x : Scene) (bank : Nat) : List Nat :=
  (x.out.feeds.filter fun p => p.2.run.path.bank == bank).map Prod.fst

/-- Taps a bank counts: N times the feeds in force once installed, N times its list before; a bank under
load counts the content that arrives, and a ready one that is loaded again both (R191, R197). -/
def Scene.bankTaps (x : Scene) (i : Nat) : Nat :=
  let b := x.bank i
  match b.state with
  | 0 => 0
  | 4 => b.n * (x.inForce i).length
  | _ => b.n * b.feeds.length + b.loading

/-- The scene's installed total. -/
def Scene.installed (x : Scene) : Nat :=
  ((x.out.banks.filter fun p => p.2.state == 4).map fun p => x.bankTaps p.1).sum

/-- Taps of loading, ready and fading-in banks (R191). -/
def Scene.reserveUsed (x : Scene) : Nat :=
  (x.out.banks.map fun p => if p.2.state = 4 then 0 else x.bankTaps p.1).sum

/-- Taps by which the installed total grows when some feeds move to filters of `n` taps each. -/
def Scene.tapGain (x : Scene) (feeds : List Nat) (n : Nat) : Int :=
  sumI (feeds.map fun i => (n : Int) - ((x.bank (x.feed i).run.path.bank).n : Int))

/-- Sample after the last step of a swap fade. -/
def SwapFade.stop (f : SwapFade) : Nat := f.first + f.len

/-- The largest installed total from now on, with every fade in progress and further ones, each as the
sample of its end and its gain, taking effect at its end (R191). -/
def Scene.tapPeak (x : Scene) (more : List (Nat × Int)) : Int :=
  let ds := more ++ x.out.fades.map fun f => (f.stop, x.tapGain f.feeds (if f.op = 0 then (x.bank f.bank).n else 0))
  let at_ : Nat → Int := fun e => (x.installed : Int) + sumI ((ds.filter fun d => decide (d.1 ≤ e)).map Prod.snd)
  ds.foldl (fun m d => if m < at_ d.1 then at_ d.1 else m) (x.installed : Int)

/-- The FIR tap budget of a scene on a leaf: what a guest scene leaves (R97, R99). -/
def Leaf.tapBudget (x : Leaf) : Nat :=
  tapCap x.clk.dom.rate - ((x.guest.map fun g => g.installed + g.out.q).getD 0)

/-! Equalisation (R185, R186). -/

/-- Group delays of the filter sets in force or fading in, pass-through feeds counting as 0. -/
def Scene.groupDelays (x : Scene) : List Nat :=
  0 :: (x.out.feeds.flatMap fun p => p.2.run.path.g :: (p.2.run.next.map Path.g).toList)

/-- The equalised total delay of R185 for a list of group delays and a floor, in samples. -/
def equalTotal (gs : List Nat) (floor : Nat) : Nat :=
  let up : Nat → Nat := fun v => (v + 1023) / 1024
  let gmax := gs.foldl max 0
  let ok : Nat → Bool := fun e => gs.all fun g => (e * 1024 - g) % 1024 == 0 || decide (g + 2048 ≤ e * 1024)
  let base := fun e => max (up floor) (up gmax + e)
  if ok (base 0) then base 0 else if ok (base 1) then base 1 else base 2

/-- Longest alignment delay in 1/1 024 sample (R183). -/
def delayMax : Nat := 65535 * 1024

/-- The alignment delay of a path with an offset (R183), never below zero. -/
def pathDelay (p : Path) (t : Int) : Nat := ((p.d : Int) + t).toNat

/-- A feed's paths. -/
def Feed.paths (f : Feed) : List Path := f.run.path :: f.run.next.toList

/-- Every path of a feed stays within the longest delay with a total E (R183). -/
def Feed.fits (f : Feed) (e : Nat) : Bool :=
  f.paths.all fun p => decide ((e * 1024 - p.g : Int) + f.set.align + f.track ≤ delayMax)

/-- Begin a delay fade on a feed, or let the change wait for the one in progress (R184). -/
def Feed.startDelay (f : Feed) (c : Ctx) : Feed :=
  let tgt : Path → Nat := fun p => p.pad + f.set.align
  if f.paths.all fun p => p.d == tgt p then f
  else match f.run.delayF with
    | some q => { f with run := { f.run with delayF := some { q with waiting := true } } }
    | none =>
      let go : Path → Path := fun p => { p with dOld := p.d, d := tgt p }
      { f with run := { f.run with
          path := go f.run.path, next := f.run.next.map go,
          delayF := some { level := { start := 0, target := 1, first := c.first, len := f.set.delayFade } } } }

/-- Put an equalised total into force: every path's pad changes by a delay fade, those of feeds beyond the
present capacity too (R185, R186). -/
def Scene.setTotal (x : Scene) (c : Ctx) (e : Nat) : Scene :=
  if e = x.out.e then x else
    let y := x.modFeeds (List.range 1024) fun _ f =>
      let go : Path → Path := fun p => { p with pad := e * 1024 - p.g }
      ({ f with run := { f.run with path := go f.run.path, next := f.run.next.map go } } : Feed).startDelay c
    { y with out := { y.out with e := e } }

/-- The event of a change of E (R198). -/
def delayChanged (old new cause : Nat) : List Ev :=
  if old = new then [] else [{ code := 0x04F3, sev := 1, payload := le32 old ++ le32 new ++ le8 cause }]

/-! Group 0x04. -/

/-- Stage the course-work settings of a feed (R88). -/
def Feed.stage (f : Feed) (c : Ctx) (new : FeedSet) : Feed :=
  let held := if c.prep then none else match f.run.held with
    | some (k, h) => if k = c.n then some (k, h) else some (c.n, f.set)
    | none => some (c.n, f.set)
  { f with set := new, run := { f.run with held := held } }

/-- The settings that course work uses for sample n (R88). -/
def Feed.cw (f : Feed) (n : Nat) : FeedSet :=
  match f.run.held with
  | some (k, h) => if n ≤ k then h else f.set
  | none => f.set

/-- The settings a mask of `OUT_FEED_CONFIG` selects, from its body (R197). -/
def FeedSet.masked (f : FeedSet) (b : List Byte) : FeedSet :=
  let m := u16 b 4
  let f := if bit m 0 then { f with align := u32 b 8 } else f
  let f := if bit m 1 then { f with delayFade := u16 b 12 } else f
  let f := if bit m 2 then { f with dither := u8 b 14 } else f
  let f := if bit m 3 then
      { f with compMode := u8 b 15, compThr := s16 b 16, compRatio := u16 b 18, compKnee := u16 b 20,
               compAttack := u16 b 22, compRelease := u16 b 24, compLink := u8 b 26 } else f
  let f := if bit m 4 then { f with limThr := s16 b 28, limRelease := u16 b 30 } else f
  if bit m 5 then { f with slewStep := u32 b 32, slewInt := u16 b 36 } else f

/-- A split-mode scene owns a feed (R426). -/
def State.ownsFeed (s : State) (fn : FnId) (i : Nat) : Bool :=
  s.red.mode != 2 || (if fn = .f0 then decide (i < s.red.splitFeed) else decide (s.red.splitFeed ≤ i))

/-- Effect of `OUT_FEED_CONFIG` (R183, R184, R189, R197). -/
def runFeedConfig (c : Ctx) (m : Cmd) (_ : List Byte) (x : Leaf) : LEff :=
  let b := m.body
  let sc := x.scene
  let is := span (u16 b 0) (u16 b 2)
  let new : Feed → Feed := fun f =>
    let set' := f.set.masked b
    let g := f.stage c set'
    let run := g.run
    let run := if f.set.slewStep = 0 ∧ set'.slewStep ≠ 0 then { run with z := 0 } else run
    let run := if set'.compMode = 0 ∧ c.prep = true then { run with det := 0, seen := run.seen.map fun q => (0, q.2) } else run
    let g : Feed := { g with run := run }
    if bit (u16 b 4) 0 then g.startDelay c else g
  if is.any fun i => !(new (sc.feed i)).fits sc.out.e then .no x sNoCapacity
  else { x := { x with scene := sc.modFeeds is fun _ f => new f } }

/-- Partition check of feeds at the effect of a command (R426), in front of its own effect. -/
def withFeeds (ok : State → Cmd → Bool) (run : Cmd → Bool → List Byte → State → Eff) :
    Cmd → Bool → List Byte → State → Eff :=
  fun c prep data s => if ok s c then run c prep data s else { s := s, status := sBadState }

/-- `OUT_FEED_CONFIG` (R197). -/
def specOutFeedConfig : Spec where
  op := 0x0401
  len := fixedLen 40
  timed := true
  fields := fun s c =>
    let b := c.body
    let cap := s.feedCap c.fn
    let sel : Nat → Bool → Bool := fun k ok => !bit (u16 b 4) k || ok
    [rng 2 (u16 b 2) 1 cap, (2, decide (u16 b 0 + u16 b 2 ≤ cap)), (4, decide (u16 b 4 < 64)), resv c 6 2,
     (8, sel 0 (decide (u32 b 8 ≤ 67107840))), (12, sel 1 (within 16 4096 (u16 b 12))), (14, sel 2 (decide (u8 b 14 < 3))),
     (15, sel 3 (decide (u8 b 15 < 3))), (16, sel 3 (within (-6000) 0 (s16 b 16))), (18, sel 3 (within 100 2000 (u16 b 18))),
     (20, sel 3 (decide (u16 b 20 ≤ 2400))), (22, sel 3 (within 10 10000 (u16 b 22))), (24, sel 3 (within 5 5000 (u16 b 24))),
     (26, sel 3 (decide (u8 b 26 < 64))), resv c 27 1, (28, sel 4 (within (-4000) (-1) (s16 b 28))),
     (30, sel 4 (within 1 2000 (u16 b 30))), (32, sel 5 (decide (u32 b 32 ≤ 2147483648))), (36, sel 5 (decide (1 ≤ u16 b 36))),
     resv c 38 2]
  run := withFeeds (fun s c => (span (u16 c.body 0) (u16 c.body 2)).all (s.ownsFeed c.fn)) (onLeaves runFeedConfig)

/-- Size of a bank image (R197). -/
def imageSize (feeds sets n : Nat) : Nat := 4 * ((feeds + 1) / 2) + sets * (320 + 4 * n)

/-- The scene that a function's commands act on, on the leaf that answers. -/
def State.fnLeaf (s : State) (f : FnId) : Option Leaf :=
  (s.server f).map fun p => if p.2 then (s.leaf p.1).swapGuest else s.leaf p.1

/-- The filter sets of an image (R197). -/
def imageSets (d : List Byte) (feeds sets n : Nat) : List FilterSet :=
  let p := 4 * ((feeds + 1) / 2)
  (List.range sets).map fun k =>
    let o := p + k * (320 + 4 * n)
    { secs := (List.range 16).map fun j => (List.range 5).map fun i => s32 d (o + 20 * j + 4 * i)
      taps := (List.range n).map fun i => s32 d (o + 320 + 4 * i) }

/-- R181 asks `|a2| < 1` of a section's last coefficient. -/
def stableA2 (a2 : Int) : Bool := decide (a2.natAbs < 2 ^ 30)

/-- R181 joins the last two coefficients of a section: `|a1| < 1 + a2`. -/
def stableA1 (a1 a2 : Int) : Bool := decide ((a1.natAbs : Int) < 2 ^ 30 + a2)

/-- The first fault of a bank image, as a byte offset (R181, R197). -/
def imageFault (d : List Byte) (cap feeds sets n : Nat) : Option Nat :=
  let list := (List.range feeds).map fun i => u16 d (2 * i)
  let f1 := (List.range feeds).map fun i =>
    (2 * i, decide (u16 d (2 * i) < cap) && !((list.take i).contains (u16 d (2 * i))))
  let pad := if feeds % 2 = 1 then [(2 * feeds, u16 d (2 * feeds) == 65535)] else []
  let p := 4 * ((feeds + 1) / 2)
  let rest := (List.range sets).flatMap fun k =>
    let o := p + k * (320 + 4 * n)
    ((List.range 16).flatMap fun j =>
      let a1 := o + 20 * j + 12
      [(a1, stableA1 (s32 d a1) (s32 d (a1 + 4))), (a1 + 4, stableA2 (s32 d (a1 + 4)))]) ++
      (List.range n).map fun i => (o + 320 + 4 * i, within (-8388608) 8388607 (s32 d (o + 320 + 4 * i)))
  lowestBad (f1 ++ pad ++ rest)

/-- Effect of `OUT_BANK_LOAD` once its image has arrived (R190, R197). -/
def runBankLoad (_ : Ctx) (m : Cmd) (d : List Byte) (x : Leaf) : LEff :=
  let b := m.body
  let k := u8 b 0
  let feeds := u16 b 6
  let n := u16 b 2
  let sc := x.scene
  if feeds = 0 then
    (if (sc.bank k).state = 0 ∨ (sc.bank k).state = 2 then { x := { x with scene := sc.modBank k fun _ => bank0 } }
     else .no x sBadState)
  else
    let sets := if u8 b 1 = 1 then 1 else feeds
    match imageFault d (feedCap x.clk.dom.rate) feeds sets n with
    | some off => .no x sBadField (0x80000000 + off)
    | none =>
      let new : Bank := { state := 2, shared := u8 b 1 == 1, n := n, shift := u8 b 4, g := u32 b 8,
                          rows := 1, feeds := (List.range feeds).map fun i => u16 d (2 * i), sets := imageSets d feeds sets n }
      { x := { x with scene := sc.modBank k fun _ => new } }

/-- A bank under load returns to what it was (R192, R197). -/
def Bank.unload (b : Bank) : Bank :=
  if b.state = 1 then { b with state := if b.wasReady then 2 else 0, loading := 0, wasReady := false, rows := if b.wasReady then 1 else 0 } else b

/-- Change the bank of a load on every leaf that serves the function. -/
def onBank (c : Cmd) (f : Bank → Bank) (s : State) : State :=
  (s.servers c.fn).foldl (fun s lg => s.modLeaf lg.1 fun x =>
    let x := if lg.2 then x.swapGuest else x
    let y := x.modScene fun q => q.modBank (u8 c.body 0) f
    if lg.2 then y.swapGuest else y) s

/-- `OUT_BANK_LOAD` (R197). A load that fails in its image leaves the bank as it was. -/
def specOutBankLoad : Spec where
  op := 0x0402
  len := fixedLen 32
  fields := fun s c =>
    let b := c.body
    let n := u16 b 6
    let some' := n != 0
    let sets := if u8 b 1 = 1 then 1 else n
    [(0, decide (u8 b 0 < 64)), (1, !some' || decide (u8 b 1 < 2)), (2, !some' || within 1 32768 (u16 b 2)),
     (4, !some' || decide (u8 b 4 < 8)), resv c 5 1, (6, decide (n ≤ s.feedCap c.fn)), (8, !some' || decide (u32 b 8 ≤ 8388607)),
     resv c 12 4, (16, some' || allZero b 16 16),
     (24, !some' || u32 b 24 == imageSize n sets (u16 b 2))]
  refs := fun c => if u16 c.body 6 = 0 then [] else [16]
  pre := fun s c =>
    match s.fnLeaf c.fn with
    | none => (sNotActive, 0)
    | some x =>
      let b := x.scene.bank (u8 c.body 0)
      if u16 c.body 6 = 0 then (sOk, 0)
      else if b.state ≠ 0 ∧ b.state ≠ 2 then (sBadState, 0)
      else if x.scene.out.q < x.scene.reserveUsed + u16 c.body 2 * u16 c.body 6 then (sNoCapacity, 0)
      else (sOk, 0)
  stage := fun c s => if u16 c.body 6 = 0 then s else
    onBank c (fun b => { b with state := 1, wasReady := b.state == 2, loading := u16 c.body 2 * u16 c.body 6, rows := 1 }) s
  undo := fun c s => onBank c Bank.unload s
  run := fun c prep d s =>
    let e := onLeaves runBankLoad c prep d s
    if noEffect e.status && u16 c.body 6 != 0 then { e with s := onBank c Bank.unload s } else e

/-- The path that a bank gives a feed (R190). -/
def Bank.pathFor (b : Bank) (k feed e : Nat) : Path :=
  let i := (b.feeds.findIdx fun f => f == feed)
  let set := if b.shared then b.sets.getD 0 {} else b.sets.getD i {}
  { bank := k, g := b.g, shift := b.shift, set := set, pad := e * 1024 - b.g }

/-- Pass-through as a path. -/
def passPath (e : Nat) : Path := { pad := e * 1024 }

/-- The new path of a swap starts from the states of R518: zero section states, and a delay line that
continues the old path's. -/
def Path.startFrom (p : Path) (old : Path) (align : Nat) : Path :=
  { p with line := old.line, bqs := [], d := p.pad + align, dOld := p.pad + align }

/-- A waiting swap that a calibration run issued (R207). -/
def Pend.ofRun (p : Pend) : Bool := p.cmd.op == 0x0502

/-- What becomes of the swap that a calibration run issued (R207): 1 started, 2 refused, 3 queued, 4 nothing
to install. -/
def Scene.noteSwap (x : Scene) (k : Nat) : Scene :=
  { x with meas := { x.meas with run := x.meas.run.map fun r => { r with swap := k } } }

/-- The feeds of a run that its design has filters for. -/
def MeasRun.made (r : MeasRun) : List MeasFeed := r.results.filter fun f => f.status == 0 || f.status == 4 || f.status == 5

/-- The alignments of R206 with the tracking offsets t and the room that each feed has under R183: clamped at
0, or at the longest delay (DESIGN CHOICE, log entry 69), a feed has status 5 unless it has status 4. -/
def MeasRun.aligned (r : MeasRun) (t : Nat → Int) (room : Nat → Int) : MeasRun :=
  if !bit (u8 r.cmd.body 55) 0 then r else
    let far := r.made.foldl (fun m f => maxQ m f.arrival) 0
    let one : MeasFeed → MeasFeed := fun f =>
      let raw := roundEven (1024 * (far - f.arrival)) - t f.feed
      let a := clampI 0 (max 0 (room f.feed)) raw
      { f with align := a.toNat, track := t f.feed, clamped := a != raw,
               status := if f.status = 4 then 4 else if a = raw then 0 else 5 }
    let res := r.results.map fun f => if r.made.contains f then one f else f
    { r with results := res, clamped := res.any MeasFeed.clamped }

/-- The longest host alignment of a feed with an equalised total E (R183). -/
def Feed.alignRoom (f : Feed) (e : Nat) : Int :=
  f.paths.foldl (fun m p => min m ((delayMax : Int) - (e * 1024 - p.g : Int) - f.track)) (delayMax : Int)

/-- The baseline that an aligning run takes from its arrivals (R206, R213): the feeds and channels of the
tracking range and mask. -/
def Track.baseOf (t : Track) (r : MeasRun) (c : Rat) (offset : Nat → Int) : Track :=
  let set := t.next.getD t.set
  let arr : Nat → List (Nat × Rat) := fun i =>
    (r.pairs.filter fun p => p.feed == i && p.status == 0 && maskBit set.mask 0 p.mic).map fun p => (p.mic, p.arrival)
  let feeds := (span set.first set.count).foldl (fun m i =>
    if (arr i).isEmpty then m
    else tins m i { tget t.feeds i {} with base := arr i, t0 := offset i, drift := none, rejected := [] }) []
  { t with hasBase := true, cBase := c, feeds := feeds }

/-- The swap that a calibration run issued starts or is refused (R206, R207): with time alignment the
alignments are computed and written at the swap's effect sample, by delay fades, and the run takes its baseline. -/
def Scene.runSwap (x : Scene) (c : Ctx) (ok : Bool) : Scene :=
  match x.meas.run with
  | none => x
  | some r =>
    if !ok then x.noteSwap 2
    else if !bit (u8 r.cmd.body 55) 0 then x.noteSwap 1
    else
      let t : Nat → Int := fun i => (x.feed i).track
      let q := r.aligned t fun i => (x.feed i).alignRoom x.out.e
      let y := { x with meas := { x.meas with run := some { q with swap := 1 },
                                              track := x.meas.track.baseOf q x.rend.soundSpeed t } }
      q.made.foldl (fun y f =>
        y.modFeed f.feed fun g => ({ g with set := { g.set with align := f.align } } : Feed).startDelay c) y

/-- Effect of `OUT_BANK_SWAP` (R193 to R195): `waited` marks a queued swap that starts now, unless another
fade on one of its feeds is in progress. The courses take the bank's rows (R192). -/
def startSwap (c : Ctx) (p : Pend) (waited : Bool) (x : Leaf) : LEff :=
  let b := p.cmd.body
  let k := u8 b 0
  let op := u8 b 1
  let sc := x.scene
  let bank := sc.bank k
  let force := sc.inForce k
  let feeds := if op = 0 then bank.feeds else force
  let busy := sc.out.fades.filter fun f => f.feeds.any fun i => bank.feeds.contains i
  if !busy.isEmpty then
    let last := busy.foldl (fun m f => if m.stop < f.stop then f else m) (busy.headD {})
    let put : SwapFade → SwapFade := fun f => if f.bank = last.bank ∧ f.first = last.first then { f with waiting := some p } else f
    let y := { sc with out := { sc.out with fades := sc.out.fades.map put } }
    let out := match last.waiting with
      | none => false
      | some w => w.ofRun
    { x := { x with scene := if out then y.noteSwap 2 else y }, mode := 1,
      done := match last.waiting with
        | none => []
        | some w => if w.ofRun then [] else [{ cmd := w.cmd, released := true, status := sAborted }] }
  else if (op = 0 ∧ bank.state ≠ 2) ∨ (op = 1 ∧ bank.state ≠ 4) then .no x sBadState
  else
    let gs := feeds.foldl (fun l _ => l ++ [if op = 0 then bank.g else 0]) sc.groupDelays
    let e := max sc.out.e (equalTotal gs sc.out.eFloor)
    let newPath : Nat → Path := fun i => if op = 0 then bank.pathFor k i e else passPath e
    let peak := sc.tapPeak [(c.first + u16 b 4, sc.tapGain feeds (if op = 0 then bank.n else 0))]
    if (x.tapBudget : Int) < peak + (sc.out.q : Int) then .no x sNoCapacity
    else if (List.range (feedCap x.clk.dom.rate)).any fun i =>
        !(({ sc.feed i with run := { (sc.feed i).run with
            next := if feeds.contains i then some (newPath i) else (sc.feed i).run.next } } : Feed).fits e) then
      .no x sNoCapacity
    else
      let y := sc.setTotal c e
      let y := y.modFeeds feeds fun i f =>
        { f with run := { f.run with next := some ((newPath i).startFrom f.run.path f.set.align) } }
      let y := y.modBank k fun q => if op = 0 then { q with state := 3, rows := 2 } else q
      let fade : SwapFade := { bank := k, op := op, curve := u8 b 2, first := c.first, len := u16 b 4,
                               feeds := feeds, tag := p.cmd.tag }
      let y := { y with out := { y.out with fades := y.out.fades ++ [fade] } }
      { x := { x with scene := y }, detail := if waited then 1 else 0,
        evs := [{ code := 0x04F1, sev := 0, subject := k,
                  payload := le8 op ++ le8 (u8 b 2) ++ le16 feeds.length ++ le32 (u16 b 4) }] ++
               delayChanged sc.out.e e 0 }

/-- `OUT_BANK_SWAP` (R197). -/
def specOutBankSwap : Spec where
  op := 0x0403
  len := fixedLen 8
  timed := true
  fields := fun _ c =>
    let b := c.body
    [(0, decide (u8 b 0 < 64)), rng 1 (u8 b 1) 0 1, rng 2 (u8 b 2) 0 1, resv c 3 1, rng 4 (u16 b 4) 64 65535, resv c 6 2]
  run := onLeaves fun c m _ x => startSwap c { cmd := m, released := true } false x

/-- `OUT_SWAP_RESERVE` (R191, R197). -/
def specOutSwapReserve : Spec where
  op := 0x0404
  len := fixedLen 8
  timed := true
  fields := fun s c => [(0, decide (u32 c.body 0 ≤ tapCap (s.fnDom c.fn).rate)), resv c 4 4]
  run := onLeaves fun _ c _ x =>
    let q := u32 c.body 0
    let sc := x.scene
    if q < sc.reserveUsed then .no x sBadState
    else if (x.tapBudget : Int) < sc.tapPeak [] + (q : Int) then .no x sNoCapacity
    else { x := { x with scene := { sc with out := { sc.out with q := q } } } }

/-- Effect of `OUT_SCENE_DELAY` (R186, R197). -/
def runSceneDelay (c : Ctx) (m : Cmd) (_ : List Byte) (x : Leaf) : LEff :=
  let sc := x.scene
  let floor := u32 m.body 0
  let re := u8 m.body 4 == 1
  let e0 := equalTotal sc.groupDelays floor
  let e := if re then e0 else max sc.out.e e0
  if (List.range (feedCap x.clk.dom.rate)).any fun i => !(sc.feed i).fits e then .no x sNoCapacity
  else
    let y := { sc with out := { sc.out with eFloor := floor } }
    { x := { x with scene := y.setTotal c e }, evs := delayChanged sc.out.e e (if re then 2 else 1) }

/-- `OUT_SCENE_DELAY` (R197). -/
def specOutSceneDelay : Spec where
  op := 0x0405
  len := fixedLen 8
  timed := true
  fields := fun _ c => [(0, decide (u32 c.body 0 ≤ 8388607)), rng 4 (u8 c.body 4) 0 1, resv c 5 3]
  run := onLeaves runSceneDelay

/-- The smoothed gain of a feed after its latest sample (R111). -/
def Feed.smoothed (f : Feed) (fs : Nat) : Rat :=
  match f.run.seen with
  | none => f.run.s
  | some q => limSmooth q.2 f.set.limRelease fs

/-- The response of `OUT_FEED_QUERY` (R197), at the latest meridian. -/
def feedQueryResp (x : Leaf) (i : Nat) : List Byte :=
  let sc := x.scene
  let f := sc.feed i
  let n := x.clk.dom.sample
  let fade := sc.out.fades.find? fun q => q.feeds.contains i
  let state := match fade with
    | some q => if q.waiting.isSome then 2 else 1
    | none => if f.run.delayF.isSome then 3 else 0
  let left := match fade with
    | some q => q.stop - (n + 1)
    | none => match f.run.delayF with
      | some d => d.level.first + d.level.len - (n + 1)
      | none => 0
  let t := (f.run.glide.at_ n).floor
  le8 f.run.path.bank ++ le8 state ++ le16 (min 65535 left) ++ le32 f.run.path.g ++
    le32 (renderedDelay (pathDelay f.run.path t)) ++ le32 sc.out.e ++ le32 f.set.align ++ sle32 f.track ++
    sle16 (cdbOf f.run.compGain) ++ sle16 (cdbOf (f.smoothed x.fs)) ++ le8 (b2n f.run.slewed) ++ zeros 3

/-- `OUT_FEED_QUERY` (R197). -/
def specOutFeedQuery : Spec where
  op := 0x0406
  len := fixedLen 4
  fields := fun s c => [(0, decide (u16 c.body 0 < s.feedCap c.fn)), resv c 2 2]
  run := onLeaves fun _ c _ x => { x := x, resp := feedQueryResp x (u16 c.body 0) }

/-- `OUT_BANK_QUERY` (R197). -/
def specOutBankQuery : Spec where
  op := 0x0407
  len := fixedLen 4
  fields := fun _ c => [(0, decide (u8 c.body 0 < 64)), resv c 1 3]
  run := onLeaves fun _ c _ x =>
    let sc := x.scene
    let k := u8 c.body 0
    let b := sc.bank k
    { x := x, resp := le8 b.state ++ le8 (b2n b.shared) ++ le16 b.n ++ le8 b.shift ++ zeros 1 ++
        le16 (if b.state = 4 then (sc.inForce k).length else b.feeds.length) ++ le32 b.g ++ le32 (sc.bankTaps k) ++
        le32 sc.installed ++ le32 sc.out.q ++ le32 sc.reserveUsed ++ le32 (tapCap x.clk.dom.rate) }

/-! Device steps of the chapter. -/

/-- The end of a swap fade (R193): the old path stops, banks change state and free their rows, the feed holds
the inputs that its present FIR uses (R518), and the waiting swap starts. Answers the leaf, the events and the completion of the waiting swap. -/
def endSwap (c : Ctx) (bank : Nat) (x : Leaf) : LEff :=
  let sc := x.scene
  match sc.out.fades.find? fun f => f.bank == bank && decide (f.stop ≤ c.n) with
  | none => { x := x }
  | some f =>
    let old := (f.feeds.map fun i => (sc.feed i).run.path.bank).eraseDups
    let y := sc.modFeeds f.feeds fun _ q =>
      let p := q.run.next.getD q.run.path
      { q with run := { q.run with path := p, next := none, uHist := q.run.uHist.take (p.set.taps.length - 1) } }
    let y := y.modBank bank fun q => if f.op = 0 then { q with state := 4, run := false } else q
    let empty := (if f.op = 1 then bank :: old else old).eraseDups.filter fun k =>
      k != 255 && (f.op == 1 || k != bank) && (y.inForce k).isEmpty && (y.bank k).state == 4
    let y := empty.foldl (fun y k => y.modBank k fun _ => bank0) y
    let y := { y with out := { y.out with fades := y.out.fades.filter fun q => !(q.bank == f.bank && q.first == f.first) } }
    let ev : Ev := { code := 0x04F2, sev := 0, subject := bank, tag := f.tag,
                     payload := le16 (y.inForce bank).length ++ le8 empty.length }
    let z : Leaf := { x with scene := y }
    match f.waiting with
    | none => { x := z, evs := [ev] }
    | some p =>
      let r := startSwap { c with prep := true } p true z
      let ok := !noEffect r.status
      let evs := ev :: (if ok then r.evs.map (fun e => { e with tag := p.cmd.tag }) else [])
      let z := if ok then r.x else z
      if p.ofRun then { x := z.modScene fun q => q.runSwap { c with prep := true } ok, evs := evs }
      else { x := z, evs := evs,
             done := [{ cmd := p.cmd, released := p.released, status := if ok then sOk else r.status,
                        detail := if ok then 1 else r.detail, at_ := if ok then x.nextTns else 0 }] }

/-- The end of a delay fade (R184): a waiting change is applied. -/
def Feed.delayEnd (f : Feed) (n : Nat) : Feed :=
  match f.run.delayF with
  | none => f
  | some q =>
    if q.level.busy (n - 1) then f
    else
      let g : Feed := { f with run := { f.run with delayF := none } }
      if q.waiting then g.startDelay { n := n, prep := true } else g

/-- `DELAY_FADE_END` (R184). -/
def execDelayFadeEnd (l : LeafId) (feed : Nat) (s : State) : Res :=
  .next (s.eachScene l fun s => s.modLeaf l fun x => x.modScene fun y => y.modFeed feed fun f => f.delayEnd x.next)

/-- Apply a leaf effect of a device step and post the completions of the commands it ends. The effect
sample of a command is the coming one. -/
def State.leafStep (s : State) (l : LeafId) (g : Leaf → LEff) : State :=
  let e := g (s.leaf l)
  let s := s.setLeaf l e.x
  let s := e.evs.foldl (fun s v => s.leafEvent l v.code v.sev v.subject v.payload v.autonomy v.flags v.tag) s
  if s.red.mode = 1 ∧ s.red.active ≠ l then s
  else e.done.foldl (fun s d => s.final d.cmd d.released d.status d.detail d.at_) s

/-- `SWAP_FADE_END` (R193)
(DESIGN CHOICE, log entry 36). -/
def execSwapFadeEnd (l : LeafId) (bank : Nat) (s : State) : Res :=
  .next (s.eachScene l fun s => s.leafStep l fun x => endSwap { leaf := l, fn := s.fnOf l, n := x.next, prep := true } bank x)

end Sys2Proof.Machine
end

