-- ==== Sys2Proof/Machine/Operands.lean ====
section
/-! DEFINITION. Source references and selection points of the signal graph (chapter 10): which
references are legal, which rate domain they belong to, and how a selection changes and fades. -/

namespace Sys2Proof.Machine

/-- Kind of a source reference (R259). -/
def srcKind (r : Nat) : Nat := bits r 31 24
/-- Index of a source reference. -/
def srcIndex (r : Nat) : Nat := bits r 15 0
/-- A source reference from its parts. -/
def srcRef (kind index : Nat) : Nat := kind * 16777216 + index

/-- Number of sources of a kind at a rate (R259). -/
def srcCount (rate : Nat) : Nat → Nat
  | 0 => 1
  | 1 => 4096
  | 2 => 512
  | 3 => 4096
  | 4 => 128
  | 5 => 256
  | 6 => feedCap rate
  | 7 => 16
  | 8 => objCap rate
  | _ => 0

/-- The reference that point `i` of a run of points takes (R287). -/
def srcAt (r i : Nat) : Nat := if srcKind r = 0 then 0 else r + i

/-- A reference with `n` consecutive indices is well formed and of an accepted kind (R259, R260,
R287). -/
def srcOk (rate : Nat) (kinds : List Nat) (r n : Nat) : Bool :=
  bits r 23 16 == 0 && kinds.contains (srcKind r) &&
    (if srcKind r = 0 then srcIndex r == 0 else decide (srcIndex r + n ≤ srcCount rate (srcKind r)))

/-- The field checks of a source reference with `n` consecutive indices: the reference itself at `i`, and
at the offset `j` of the count the run that the two join (R52, R260). -/
def srcFields (rate : Nat) (kinds : List Nat) (i j r n : Nat) : List (Nat × Bool) :=
  let one := srcOk rate kinds r (min 1 n)
  [(i, one), (j, !one || srcOk rate kinds r n)]

/-- Kinds that an object input takes from `RTE_SOURCE` (R260). -/
def objectKinds : List Nat := [0, 1, 3, 4, 5]
/-- Kinds of a monitor bus input. -/
def busKinds : List Nat := [0, 1, 3, 4, 5, 6, 8]
/-- Kinds of an inbound bridge input. -/
def inboundKinds : List Nat := [0, 1]
/-- Kinds of an outbound bridge input. -/
def outboundKinds : List Nat := [0, 1, 3, 4, 6, 7, 8]
/-- Kinds of an egress stream channel and of a coping output. -/
def egressKinds : List Nat := [0, 1, 3, 4, 5, 6, 7, 8]

/-- The default ingress stream. -/
def rx0 : RxStream := {}
/-- The default egress stream. -/
def tx0 : TxStream := {}
/-- The default bridge channel. -/
def bridge0 : Bridge := {}
/-- The default bus. -/
def bus0 : Bus := {}
/-- The default selection: none. -/
def sel0 : Sel := {}
/-- An ingress stream of a scene. -/
def Scene.rx (x : Scene) (i : Nat) : RxStream := tget x.net.rx i rx0
/-- An egress stream of a scene. -/
def Scene.tx (x : Scene) (i : Nat) : TxStream := tget x.net.tx i tx0
/-- A scene with one ingress stream changed. -/
def Scene.modRx (x : Scene) (i : Nat) (f : RxStream → RxStream) : Scene :=
  { x with net := { x.net with rx := tmod x.net.rx i rx0 f } }
/-- A scene with one egress stream changed. -/
def Scene.modTx (x : Scene) (i : Nat) (f : TxStream → TxStream) : Scene :=
  { x with net := { x.net with tx := tmod x.net.tx i tx0 f } }
/-- A bridge channel of a scene. -/
def Scene.bridge (x : Scene) (i : Nat) : Bridge := tget x.route.bridges i bridge0
/-- A scene with one bridge channel changed. -/
def Scene.modBridge (x : Scene) (i : Nat) (f : Bridge → Bridge) : Scene :=
  { x with route := { x.route with bridges := tmod x.route.bridges i bridge0 f } }
/-- A monitor bus of a scene. -/
def Scene.bus (x : Scene) (i : Nat) : Bus := tget x.route.buses i bus0
/-- A scene with one monitor bus changed. -/
def Scene.modBus (x : Scene) (i : Nat) (f : Bus → Bus) : Scene :=
  { x with route := { x.route with buses := tmod x.route.buses i bus0 f } }
/-- The default bus input. -/
def busIn0 : BusIn := {}

/-! Rate domains (R261). -/

/-- Domain of a source; none for a reference that belongs to every domain. -/
def Scene.srcDomain (x : Scene) (r : Nat) : Option Nat :=
  match srcKind r with
  | 0 => none
  | 1 => some (x.rx (srcIndex r / 64)).set.domain
  | 5 => let b := x.bridge (srcIndex r)
         if b.op = 0 then none else some (if b.op = 2 then b.domain else 0)
  | _ => some 0

/-- Domain of a selection point: 0 object, 1 stream channel, 2 coping output, 3 bus input, 4 bridge. -/
def Scene.pointDomain (x : Scene) (kind i : Nat) : Nat :=
  match kind with
  | 1 => (x.tx (i / 64)).set.domain
  | 4 => let b := x.bridge i
         if b.dir = 1 then b.domain else 0
  | _ => 0

/-- A source and a point lie in one domain. -/
def Scene.sameDomain (x : Scene) (d r : Nat) : Bool :=
  match x.srcDomain r with
  | none => true
  | some k => k == d

/-! Microphone channels as sources (R376, R377). -/

/-- The default PDM clock. -/
def micClock0 : MicClock := {}
/-- The default microphone channel. -/
def micChan0 : MicChan := {}
/-- A PDM clock of a leaf. -/
def Leaf.micClock (x : Leaf) (k : Nat) : MicClock := tget x.mics.clocks k micClock0
/-- A microphone channel of a leaf. -/
def Leaf.mic (x : Leaf) (i : Nat) : MicChan := tget x.mics.chans i micChan0

/-- Audio-clock periods per render sample (R376). -/
def audioPerSample (rate : Nat) : Nat := 4096 / rateMul rate

/-- A clock's setting is render-locked at a rate (R376). -/
def MicClock.locked (k : MicClock) (rate : Nat) : Bool :=
  rate != 0 && k.ratio * (65536 * k.n + k.f) == 65536 * audioPerSample rate

/-- A channel's bit in its clock's mask. -/
def Leaf.micMasked (x : Leaf) (i : Nat) : Bool :=
  let k := x.micClock (i / 16)
  k.on && bit k.mask (i % 16)

/-- A channel counts as enabled for calibration: settled (R384). -/
def Leaf.micOn (x : Leaf) (i : Nat) : Bool := x.micMasked i && (x.mic i).settle == 0

/-- A channel of a clock that runs at a free rate (R377). -/
def Leaf.micFree (x : Leaf) (i : Nat) : Bool :=
  let k := x.micClock (i / 16)
  k.on && !k.locked x.clk.dom.rate

/-- A selection of this source is refused on a leaf: another domain, a free-rate microphone channel,
or any microphone channel in twin mode (R261, R377, R387). -/
def Leaf.badSource (x : Leaf) (twin : Bool) (d r : Nat) : Bool :=
  !x.scene.sameDomain d r || (srcKind r == 4 && (twin || x.micFree (srcIndex r)))

/-! Changing a selection (R265 to R267). -/

/-- A fade of the selection has steps left at or after the coming sample. -/
def Sel.busy (s : Sel) (n : Nat) : Bool := s.eff.isSome && decide (n < s.first + s.len)

/-- What a change does to a point: the new selection, whether the change waits, and the identity of
a waiting change that it supersedes. -/
def Sel.change (s : Sel) (c : Ctx) (src len id : Nat) : Sel × Bool × Option Nat :=
  let past := s.waiting.map SelChange.seq
  if s.eff = some c.n then ({ s with src := src, first := c.first, len := len, waiting := none }, false, past)
  else if s.busy c.n then ({ s with waiting := some { src := src, len := len, seq := id } }, true, past)
  else ({ src := src, old := s.src, first := c.first, len := len, eff := some c.n }, false, past)

/-- The waiting change starts once the fade has ended. -/
def Sel.start (s : Sel) (n : Nat) : Sel × Option Nat :=
  match s.waiting with
  | none => (s, none)
  | some w =>
    if s.busy n then (s, none)
    else ({ src := w.src, old := s.src, first := n, len := w.len, eff := some n }, some w.seq)

/-- What the point reads at sample n from its two sources (R265). -/
def Sel.mix (s : Sel) (n : Nat) (old new : Int) : Int :=
  match s.eff with
  | none => new
  | some _ =>
    if n < s.first then old
    else if s.len = 0 ∨ s.first + s.len ≤ n + 1 then new
    else
      let w : Rat := ((n - s.first + 1 : Nat) : Rat) / (s.len : Rat)
      coarseMix old new w

/-- The source in force at the coming sample is being faded out of still. -/
def Sel.sources (s : Sel) (n : Nat) : List Nat := if s.busy n then [s.src, s.old] else [s.src]

end Sys2Proof.Machine
end

