-- ==== Sys2Proof/Machine/Routing.lean ====
section
/-! DEFINITION. The signal graph's selections, monitor buses, bridges and meters (chapter 10), and the
commands of group 0x08 but for `RTE_DOMAIN`. -/

namespace Sys2Proof.Machine

/-- A selection point: kind 0 object, 1 stream channel, 2 coping output, 3 bus input, 4 bridge. -/
def Scene.sel (x : Scene) (kind i : Nat) : Sel :=
  match kind with
  | 0 => (x.obj i).sel
  | 1 => tget x.route.egress i sel0
  | 2 => tget x.route.coping i sel0
  | 3 => (tget (x.bus (i / 64)).inputs (i % 64) busIn0).sel
  | _ => (x.bridge i).sel

/-- A scene with one selection point set. -/
def Scene.setSel (x : Scene) (kind i : Nat) (v : Sel) : Scene :=
  match kind with
  | 0 => x.modObj i fun o => { o with sel := v }
  | 1 => { x with route := { x.route with egress := tset x.route.egress i v sel0 } }
  | 2 => { x with route := { x.route with coping := tset x.route.coping i v sel0 } }
  | 3 => x.modBus (i / 64) fun b =>
      { b with inputs := tmod b.inputs (i % 64) busIn0 fun q => { q with sel := v } }
  | _ => x.modBridge i fun b => { b with sel := v }

/-- The selection points that are listed: kind and number. -/
def Scene.points (x : Scene) : List (Nat × Nat) :=
  (x.objs.objs.map fun p => (0, p.1)) ++ (x.route.egress.map fun p => (1, p.1)) ++
    (x.route.coping.map fun p => (2, p.1)) ++
    (x.route.buses.flatMap fun b => b.2.inputs.map fun p => (3, b.1 * 64 + p.1)) ++
    (x.route.bridges.map fun p => (4, p.1))

/-- One point of a waiting command starts or is superseded; a command with none left completes
(R267). -/
def Scene.resolveWait (x : Scene) (past : Bool) (id : Nat) : Scene × List Done :=
  match x.route.waits.find? fun w => w.cmd.acc == id with
  | none => (x, [])
  | some w =>
    let w := { w with left := w.left - 1, superseded := w.superseded + b2n past }
    let rest := x.route.waits.filter fun q => q.cmd.acc != id
    if w.left = 0 then
      ({ x with route := { x.route with waits := rest } },
       [{ cmd := w.cmd, status := sOk, detail := 1 + 65536 * w.superseded, at_ := w.at_ }])
    else ({ x with route := { x.route with waits := rest ++ [w] } }, [])

/-- Apply a selection to several points: the scene, how many wait, and the commands completed. -/
def Scene.select (x : Scene) (c : Ctx) (kind : Nat) (pts : List (Nat × Nat)) (len id : Nat) :
    Scene × Nat × List Done :=
  pts.foldl (fun acc p =>
    let r := (acc.1.sel kind p.1).change c p.2 len id
    let y := acc.1.setSel kind p.1 r.1
    let z := match r.2.2 with
      | none => (y, [])
      | some k => y.resolveWait true k
    (z.1, acc.2.1 + b2n r.2.1, acc.2.2 ++ z.2)) (x, 0, [])

/-- The answer of a selection command over its points (R265 to R267). -/
def selectEff (c : Ctx) (m : Cmd) (x : Leaf) (kind : Nat) (pts : List (Nat × Nat)) (len : Nat) : LEff :=
  let r := x.scene.select c kind pts len m.acc
  if r.2.1 = 0 then { x := { x with scene := r.1 }, done := r.2.2 }
  else
    let w : SelWait := { cmd := m, left := r.2.1, at_ := x.nextTns }
    { x := { x with scene := { r.1 with route := { r.1.route with waits := r.1.route.waits ++ [w] } } },
      mode := 1, done := r.2.2 }

/-- Every point whose fade has ended starts its waiting change at the coming sample (R267). -/
def Scene.startSel (x : Scene) (n : Nat) (p : Nat × Nat) : Scene × List Done :=
  let r := (x.sel p.1 p.2).start n
  match r.2 with
  | none => (x, [])
  | some id => (x.setSel p.1 p.2 r.1).resolveWait false id

/-- The points of a command and their sources. -/
def selPoints (first count src : Nat) : List (Nat × Nat) :=
  (List.range count).map fun i => (first + i, srcAt src i)

/-- Twin mode is in force. -/
def State.twin (s : State) : Bool := s.red.mode == 1

/-- `RTE_SOURCE` (R265, R288). -/
def specRteSource : Spec where
  op := 0x0802
  len := fixedLen 12
  timed := true
  fields := fun s c =>
    let b := c.body
    let rate := (s.fnDom c.fn).rate
    [(0, decide (u16 b 0 + u16 b 2 ≤ objCap rate)), (2, within 1 (objCap rate) (u16 b 2)),
     (8, decide (u16 b 8 ≤ 4096)), resv c 10 2] ++ srcFields rate objectKinds 4 2 (u32 b 4) (u16 b 2)
  run := fun c prep d s => onLeaves (fun g m _ x =>
    let b := m.body
    let pts := selPoints (u16 b 0) (u16 b 2) (u32 b 4)
    let bound : Nat → Bool := fun i =>
      let o := x.scene.obj i
      o.run.adm.isSome || srcKind ((o.sel.waiting.map SelChange.src).getD o.sel.src) == 2
    if pts.any fun p => bound p.1 || x.badSource s.twin 0 p.2 then .no x sBadState
    else selectEff g m x 0 pts (u16 b 8)) c prep d s

/-- A split-mode scene owns an egress stream (R426). -/
def State.ownsTx (s : State) (fn : FnId) (i : Nat) : Bool :=
  s.red.mode != 2 || (if fn = .f0 then decide (i < s.red.splitTx) else decide (s.red.splitTx ≤ i))

/-- A split-mode scene owns an ingress stream (R426). -/
def State.ownsRx (s : State) (fn : FnId) (i : Nat) : Bool :=
  s.red.mode != 2 || (if fn = .f0 then decide (i < s.red.splitRx) else decide (s.red.splitRx ≤ i))

/-- `RTE_EGRESS` (R265, R288). -/
def specRteEgress : Spec where
  op := 0x0803
  present := fun v c => !(u8 c.body 0 == 1 && !v.hasCoping)
  len := fixedLen 12
  timed := true
  fields := fun s c =>
    let b := c.body
    let cap := if u8 b 0 = 0 then 4096 else 32
    [rng 0 (u8 b 0) 0 1, resv c 1 1, (2, decide (u16 b 2 < cap) && decide (u16 b 2 + u16 b 4 ≤ cap)),
     (6, decide (u16 b 6 ≤ 4096))] ++ srcFields (s.fnDom c.fn).rate egressKinds 8 4 (u32 b 8) (u16 b 4)
  run := fun c prep d s => onLeaves (fun g m _ x =>
    let b := m.body
    let kind := if u8 b 0 = 0 then 1 else 2
    let pts := selPoints (u16 b 2) (u16 b 4) (u32 b 8)
    if pts.any fun p => (kind == 1 && !s.ownsTx m.fn (p.1 / 64)) ||
        x.badSource s.twin (x.scene.pointDomain kind p.1) p.2 then .no x sBadState
    else selectEff g m x kind pts (u16 b 6)) c prep d s

/-- A gain of a monitor bus in range (R288). -/
def busGainOk (b : List Byte) (i : Nat) : Bool := s16 b i == -32768 || within (-12000) 2400 (s16 b i)

/-- `RTE_BUS` (R268, R288). -/
def specRteBus : Spec where
  op := 0x0804
  len := fixedLen 16
  timed := true
  fields := fun s c =>
    let b := c.body
    let ins := bit (u8 b 3) 0
    [(0, decide (u8 b 0 < 16)), (1, !ins || decide (u8 b 1 < 64)),
     (2, !ins || (decide (1 ≤ u8 b 2) && decide (u8 b 1 + u8 b 2 ≤ 64))), (3, within 1 3 (u8 b 3)),
     (8, !ins || busGainOk b 8), (10, !ins || decide (u16 b 10 ≤ 4096)), (12, !bit (u8 b 3) 1 || busGainOk b 12),
     resv c 14 2] ++ if ins then srcFields (s.fnDom c.fn).rate busKinds 4 2 (u32 b 4) (u8 b 2) else [(4, u8 b 6 == 0)]
  run := fun c prep d s => onLeaves (fun g m _ x =>
    let b := m.body
    let k := u8 b 0
    let pts := if bit (u8 b 3) 0 then selPoints (k * 64 + u8 b 1) (u8 b 2) (u32 b 4) else []
    if pts.any fun p => x.badSource s.twin 0 p.2 then .no x sBadState
    else
      let setGain : Bus → Nat → Bus := fun q i =>
        { q with inputs := tmod q.inputs i busIn0 fun r =>
            { r with gain := s16 b 8, ramp := r.ramp.go g.n g.first 64 (amp (s16 b 8)) } }
      let y := x.modScene fun sc => sc.modBus k fun q =>
        let q := pts.foldl (fun q p => setGain q (p.1 % 64)) q
        if bit (u8 b 3) 1 then { q with gain := s16 b 12, ramp := q.ramp.go g.n g.first 64 (amp (s16 b 12)) } else q
      selectEff g m y 3 pts (u16 b 10)) c prep d s

/-- A side domain of a leaf is enabled. -/
def Leaf.sideRate (x : Leaf) (d : Nat) : Nat :=
  match d with
  | 0 => x.clk.dom.rate
  | 1 => x.clk.side1.rate
  | _ => x.clk.side2.rate

/-- Effect of `RTE_BRIDGE` (R274, R288). -/
def runBridge (twin : Bool) (g : Ctx) (m : Cmd) (_ : List Byte) (x : Leaf) : LEff :=
  let b := m.body
  let is := span (u16 b 0) (u16 b 2)
  let op := u8 b 4
  let fade := u16 b 6
  if op = 0 then
    let off : Bridge → Bridge := fun q => { q with op := 0, level := q.level.go g.n g.first fade 0 }
    { x := x.modScene fun sc => is.foldl (fun sc i => sc.modBridge i off) sc }
  else if x.sideRate (u8 b 5) = 0 then .no x sBadState
  else
    let d := if op = 1 then u8 b 5 else 0
    let pts := selPoints (u16 b 0) (u16 b 2) (u32 b 8)
    if pts.any fun p => x.badSource twin d p.2 then .no x sBadState
    else
      let on : Bridge → Bridge := fun q =>
        if q.op = op ∧ q.domain = u8 b 5 then q
        else { q with op := op, dir := op, domain := u8 b 5, level := Ramp.rest 1, ratio := 0, measured := 0, fill := 0, fifo := [],
                      adopt := none }
      let y := x.modScene fun sc => is.foldl (fun sc i => sc.modBridge i on) sc
      selectEff g m y 4 pts fade

/-- `RTE_BRIDGE` (R288). -/
def specRteBridge : Spec where
  op := 0x0805
  len := fixedLen 16
  timed := true
  fields := fun s c =>
    let b := c.body
    let kinds := if u8 b 4 = 1 then inboundKinds else outboundKinds
    [(0, decide (u16 b 0 < 256)), (2, decide (1 ≤ u16 b 2) && decide (u16 b 0 + u16 b 2 ≤ 256)),
     (4, decide (u8 b 4 < 3)), (5, u8 b 4 == 0 || within 1 2 (u8 b 5)), (6, decide (u16 b 6 ≤ 4096)),
     resv c 12 4] ++ if u8 b 4 = 0 then [(8, u8 b 10 == 0)] else srcFields (s.fnDom c.fn).rate kinds 8 2 (u32 b 8) (u16 b 2)
  run := fun c prep d s => onLeaves (runBridge s.twin) c prep d s

/-- A rate domain of a leaf. -/
def Leaf.domain (x : Leaf) (d : Nat) : Domain :=
  match d with
  | 0 => x.clk.dom
  | 1 => x.clk.side1
  | _ => x.clk.side2

/-- The response of `RTE_QUERY` at the latest meridian (R288). -/
def rteQueryResp (x : Leaf) (what i : Nat) : List Byte :=
  let sc := x.scene
  let n := x.clk.dom.sample
  if what = 5 then
    let d := x.domain i
    let tb := x.tb d.tb
    let hz : Rat := if d.rate = 0 then 0 else Config.of "measuredRate" [(rateHz d.rate : Rat), (tb.y : Rat)]
    zeros 4 ++ le32 4294967295 ++ zeros 4 ++ f32le hz ++ zeros 6 ++ le8 d.rate ++ le8 d.tb ++ le8 tb.state ++ zeros 7
  else
    let v := sc.sel what i
    let br := sc.bridge i
    let d := sc.pointDomain what i
    let dom := x.domain (if what = 4 then br.domain else d)
    let busy := v.busy (n + 1)
    let state := if !sc.sameDomain d v.src then 3 else if !busy then 0 else if v.waiting.isSome then 2 else 1
    let isBr := what == 4
    le32 v.src ++ le32 ((v.waiting.map SelChange.src).getD 4294967295) ++
      le16 (if busy then v.first + v.len - (n + 1) else 0) ++ le8 state ++ zeros 1 ++
      f32le (if isBr then br.measured else 0) ++ sle32 (if isBr then br.fill else 0) ++
      sle16 (if what = 3 then (tget (sc.bus (i / 64)).inputs (i % 64) busIn0).gain else 0) ++
      le8 dom.rate ++ le8 dom.tb ++ le8 (x.tb dom.tb).state ++ zeros 3 ++ le32 (if isBr then br.slips else 0)

/-- `RTE_QUERY` (R288). -/
def specRteQuery : Spec where
  op := 0x0806
  len := fixedLen 8
  fields := fun s c =>
    let b := c.body
    let cap := match u8 b 0 with
      | 0 => s.objCap c.fn
      | 1 => 4096
      | 2 => 32
      | 3 => 1024
      | 4 => 256
      | _ => 3
    [(0, decide (u8 b 0 < 6)), resv c 1 1, (2, decide (u16 b 2 < cap)), resv c 4 4]
  run := onLeaves fun _ c _ x => { x := x, resp := rteQueryResp x (u8 c.body 0) (u16 c.body 2) }

/-! Meters (R269, R270). -/

/-- The default meter. -/
def meter0 : Meter := {}
/-- The default meter record: silence. -/
def meterRec0 : MeterRec := {}

/-- A meter takes one sample in A40 scale
(DESIGN CHOICE, log entry 19; DEDUCED, log entry 38). -/
def Meter.take (m : Meter) (window : Nat) (v : Int) (limited : Bool) : Meter :=
  let sq := if m.sq.isEmpty && v = 0 then [] else push window v m.sq
  { m with peak := max m.peak v.natAbs, sq := sq, limited := m.limited + b2n limited }

/-- A meter's frame ends: its record and its state for the next frame. -/
def Meter.frameEnd (m : Meter) (set : MeterSet) (fs : Nat) (quad : Bool) : Meter × MeterRec :=
  let peak : Rat := a40Val m.peak
  let window := set.rms * fs / 1000
  let ms : Rat := if window = 0 then 0 else
    sumQ ((m.sq.take window).map fun v => a40Val v * a40Val v) / (window : Rat)
  let rms := if ms = 0 then -32768 else cdbOf (sqrtQ (2 * ms))
  let tp := if !bit set.flags 0 then -32768
    else if quad || m.peak = 0 then cdbOf peak
    else cdbOf (maxQ peak (Config.of "truePeak" ((m.sq.take window).map a40Val)))
  let fall : Rat := dbAmp (-(set.decay : Rat) / 100 / 50)
  let old := if set.hold = 65535 ∨ m.age < set.hold then m.hold else m.hold * fall
  let new := if old ≤ peak then (peak, 0) else (old, m.age + 20)
  let sq := if m.sq.all fun v => v == 0 then [] else m.sq
  ({ sq := sq, hold := new.1, age := if new.1 = 0 then 0 else new.2 },
   { peak := cdbOf peak, rms := rms, truePeak := tp, hold := cdbOf new.1, limited := min 65535 m.limited })

/-- End the frames of a table of meters. -/
def endMeters (t : List (Nat × Meter)) (set : MeterSet) (fs : Nat) (quad : Bool) :
    List (Nat × Meter) × List (Nat × MeterRec) :=
  (t.foldl (fun r p => tset r p.1 (p.2.frameEnd set fs quad).1 meter0) [],
   t.foldl (fun r p => tset r p.1 (p.2.frameEnd set fs quad).2 meterRec0) [])

/-- The meter frame that ends before the coming sample, once (R270). -/
def Scene.meterFrame (x : Scene) (n rate at_ : Nat) : Scene :=
  let m := x.route.meters
  let fs := rateHz rate
  if fs = 0 ∨ n % (fs / 50) ≠ 0 ∨ m.endAt = at_ then x else
    let quad := rateMul rate == 4
    let o := endMeters m.objs m.set fs quad
    let f := endMeters m.feeds m.set fs quad
    let b := endMeters m.buses m.set fs quad
    let m := { m with objs := o.1, feeds := f.1, buses := b.1, recO := o.2, recF := f.2, recB := b.2,
                      seq := (m.seq + 1) % 4294967296, endAt := at_, rate := rate, tp := bit m.set.flags 0,
                      set := m.next.getD m.set, next := none }
    { x with route := { x.route with meters := m } }

/-- `METER_FRAME_END`: a frame ends at the coming sample (R270). -/
def execMeterFrameEnd (l : LeafId) (s : State) : Res :=
  .next (s.eachScene l fun s => s.modLeaf l fun x => x.modScene fun sc => sc.meterFrame x.next x.clk.dom.rate x.nextTns)

/-- `MTR_CONFIG` (R288). -/
def specMtrConfig : Spec where
  op := 0x0807
  len := fixedLen 12
  timed := true
  fields := fun _ c =>
    let b := c.body
    [rng 0 (u16 b 0) 20 3000, (2, decide (u16 b 2 ≤ 60000) || u16 b 2 == 65535), rng 4 (u16 b 4) 10 10000,
     (6, decide (u8 b 6 < 2)), resv c 7 5]
  run := onLeaves fun _ c _ x =>
    let b := c.body
    let set : MeterSet := { rms := u16 b 0, hold := u16 b 2, decay := u16 b 4, flags := u8 b 6 }
    { x := x.modScene fun sc => { sc with route := { sc.route with meters := { sc.route.meters with next := some set } } } }

/-- One meter record as bytes (R288). -/
def MeterRec.bytes (r : MeterRec) : List Byte :=
  sle16 r.peak ++ sle16 r.rms ++ sle16 r.truePeak ++ sle16 r.hold ++ le16 r.limited ++ zeros 6

/-- The latest meter frame as bytes. -/
def Meters.bytes (m : Meters) (rate : Nat) : List Byte :=
  le32 m.seq ++ zeros 4 ++ le64 m.endAt ++ le16 (objCap rate) ++ le16 (feedCap rate) ++ le16 16 ++ le8 m.rate ++
    le8 (b2n m.tp) ++ zeros 8 ++
    ((List.range (objCap rate)).flatMap fun i => (tget m.recO i meterRec0).bytes) ++
    ((List.range (feedCap rate)).flatMap fun i => (tget m.recF i meterRec0).bytes) ++
    ((List.range 16).flatMap fun i => (tget m.recB i meterRec0).bytes)

/-- Size of a meter frame (R288). -/
def meterSize (rate : Nat) : Nat := 32 + 16 * (objCap rate + feedCap rate + 16)

/-- `MTR_READ` (R288). -/
def specMtrRead : Spec where
  op := 0x0808
  len := fixedLen 32
  fields := fun s c => [(0, decide (u8 c.body 0 < 2)), resv c 1 15, (24, u32 c.body 24 == meterSize (s.fnDom c.fn).rate)]
  refs := fun _ => [16]
  toHost := true
  run := onLeaves fun _ c _ x =>
    let m := x.scene.route.meters
    let clear : List (Nat × Meter) → List (Nat × Meter) := fun t =>
      t.foldl (fun r p => tset r p.1 { p.2 with hold := 0, age := 0 } meter0) []
    let m' := if bit (u8 c.body 0) 0 then { m with objs := clear m.objs, feeds := clear m.feeds, buses := clear m.buses } else m
    { x := x.modScene fun sc => { sc with route := { sc.route with meters := m' } },
      out := some (m.bytes x.clk.dom.rate), detail := m.seq }

/-! Selections and bridges over time. -/

/-- `SELECTION_FADE_END`: the waiting change of a point starts once its fade has ended (R267)
(DESIGN CHOICE, log entry 36). -/
def execSelectionFadeEnd (l : LeafId) (kind point : Nat) (s : State) : Res :=
  .next (s.eachScene l fun s => s.leafStep l fun x =>
    let r := x.scene.startSel x.next (kind, point)
    { x := { x with scene := r.1 }, done := r.2 })

/-- A bridge channel of a direction takes its input at sample n: enabled, or disabled and still fading (R274). -/
def Bridge.passes (b : Bridge) (dir n : Nat) : Bool := b.dir == dir && (b.op != 0 || b.level.busy n)

/-- A re-centring of a bridge channel begins (R277). -/
def Bridge.recentre (b : Bridge) (n : Nat) (ratio : Rat) : Bridge :=
  { b with adopt := some ratio, level := b.level.go n n 64 0, slips := (b.slips + 1) % 4294967296 }

/-- A re-centring adopts its ratio once the output is silent, and fades back in
(DESIGN CHOICE, log entry 19). -/
def Bridge.tick (b : Bridge) (n : Nat) : Bridge :=
  match b.adopt with
  | none => b
  | some r =>
    if b.level.target = 0 ∧ b.level.first + b.level.len ≤ n then
      { b with ratio := r, fill := 0, fifo := [], adopt := none, level := b.level.go n n 64 1 }
    else b

/-- `BRIDGE_RATIO_WINDOW`: a 100 ms window ends (R276, R277). The first window of a channel sets its
ratio; later the servo moves it with a time constant of 1 s on the fill, by a law left open. -/
def execBridgeRatioWindow (l : LeafId) (ch : Nat) (ratio : Rat) (fill : Int) (s : State) : Res :=
  .next <| s.eachScene l fun s =>
  let x := s.leaf l
  let b := x.scene.bridge ch
  if b.op = 0 ∨ 256 ≤ ch then s else
    let margin : Nat := 4 * x.fs * 1024 / 1000
    let step := b.measured != 0 && decide (b.measured / 1000 < absQ (ratio - b.measured))
    let out := decide (margin < fill.natAbs)
    let b := { b with measured := ratio, fill := fill }
    if (step || out) && b.adopt.isNone then
      let s := s.modLeaf l fun x => x.modScene fun sc => sc.modBridge ch fun _ => b.recentre x.next ratio
      s.reportOn (s.fnOf l) l
        { code := 0x08F0, subject := ch, sev := 2, front := le8 (if step then 1 else 0) ++ le8 b.domain, width := 2,
          extra := f32le ratio, count := 1 }
    else
      let r := if b.ratio = 0 then ratio else Config.of "bridgeServo" [b.ratio, ratio, (fill : Rat)]
      s.modLeaf l fun x => x.modScene fun sc => sc.modBridge ch fun _ => { b with ratio := r }

/-- A feed is live: an enabled egress stream's channel or a coping output carries it (R209). -/
def State.liveFeed (s : State) (x : Leaf) (i : Nat) : Bool :=
  let sc := x.scene
  let n := x.next
  let uses : Sel → Bool := fun v => (v.sources n).any fun r => srcKind r == 6 && srcIndex r == i
  (sc.route.egress.any fun p =>
    let t := sc.tx (p.1 / 64)
    t.on && decide (p.1 % 64 < t.set.channels) && uses p.2) ||
    (s.variant.hasCoping && sc.route.coping.any fun p => uses p.2)

end Sys2Proof.Machine
end

