-- ==== Sys2Proof/Machine/Clips.lean ====
section
/-! DEFINITION. The clip store and the clip players (chapter 10), and the commands of group 0x07. -/

namespace Sys2Proof.Machine

/-- The default clip: empty. -/
def clip0 : Clip := {}
/-- The default player: idle. -/
def player0 : Player := {}
/-- A clip of a scene. -/
def Scene.clip (x : Scene) (i : Nat) : Clip := tget x.clips.clips i clip0
/-- A scene with one clip set. -/
def Scene.setClip (x : Scene) (i : Nat) (v : Clip) : Scene :=
  { x with clips := { x.clips with clips := tset x.clips.clips i v clip0 } }
/-- A player of a scene. -/
def Scene.player (x : Scene) (i : Nat) : Player := tget x.clips.players i player0
/-- A scene with one player set. -/
def Scene.setPlayer (x : Scene) (i : Nat) (v : Player) : Scene :=
  { x with clips := { x.clips with players := tset x.clips.players i v player0 } }

/-- Bytes of one sample of a format. -/
def sampleBytes (format : Nat) : Nat := if format = 0 then 2 else if format = 1 then 3 else 4
/-- Bytes of one frame. -/
def Clip.frameBytes (k : Clip) : Nat := k.channels * sampleBytes k.format
/-- A count rounded up to a multiple of 4. -/
def up4 (n : Nat) : Nat := (n + 3) / 4 * 4
/-- Bytes that a clip counts against the store (R278). -/
def Clip.size (k : Clip) : Nat := up4 (k.frames * k.frameBytes)
/-- The clip is loaded: its last frame is written. -/
def Clip.loaded (k : Clip) : Bool := k.channels != 0 && decide (k.frames * k.frameBytes ≤ k.data.length)

/-- Bytes of the clip store in use by a scene. -/
def Scene.clipBytes (x : Scene) : Nat := (x.clips.clips.map fun p => p.2.size).sum
/-- Bytes of the capture rings of a leaf (R383, R389). -/
def Leaf.ringBytes (x : Leaf) : Nat :=
  ((List.range 128).map fun i => 4 * 2 ^ (x.mic i).k).sum
/-- Bytes that a wave slot counts against the store (R239). -/
def Wave.size (w : Wave) : Nat :=
  max w.loading (match w.kind with
    | 0 => 0
    | 1 => w.frames * 11 * 8192
    | _ => w.frames * sampleBytes w.format)
/-- Bytes of the wave store in use by a scene. -/
def Scene.waveBytes (x : Scene) : Nat := (x.vox.waves.map fun p => p.2.size).sum
/-- Both scenes that a leaf holds. -/
def Leaf.scenes (x : Leaf) : List Scene := x.scene :: x.guest.toList
/-- Bytes of the wave store in use. -/
def Leaf.waveBytes (x : Leaf) : Nat := (x.scenes.map Scene.waveBytes).sum
/-- Bytes of the clip store in use on a leaf. -/
def Leaf.clipBytes (x : Leaf) : Nat := (x.scenes.map Scene.clipBytes).sum
/-- Free bytes of the media area of 12 GiB (R458). -/
def Leaf.mediaFree (x : Leaf) : Nat := 12884901888 - (x.waveBytes + x.clipBytes + x.ringBytes)
/-- Free bytes for a further clip. -/
def Leaf.clipFree (x : Leaf) : Nat := min (8589934592 - x.clipBytes) x.mediaFree

/-- One sample of a clip as A40 (R278, R102). -/
def Clip.sample (k : Clip) (frame ch : Nat) : Int :=
  if k.channels ≤ ch then 0 else
    let w := sampleBytes k.format
    let i := frame * k.frameBytes + ch * w
    match k.format with
    | 0 => s16 k.data i * 131072
    | 1 => l24to40 (signed 24 (u16 k.data i + 65536 * u8 k.data (i + 2)))
    | _ => a32to40 (s32 k.data i)

/-! Players (R279 to R283). -/

/-- The fade length of a transport command (R281). -/
def clipFade (k : Clip) (fade : Nat) : Nat := if fade = 0 ∧ k.exact = false then 32 else fade

/-- A player returns to its cue point. -/
def Player.recue (p : Player) : Player :=
  { p with state := 1, pos := p.cue, plays := 0, arrived := false, level := {} }

/-- Choose the next frame at `loop_end` (R283). -/
def Player.loopTick (p : Player) : Player :=
  if !p.arrived then p
  else if p.loops = 0 ∨ p.plays < p.loops then { p with pos := p.loopS, arrived := false }
  else { p with arrived := false }

/-- A fade that has ended before the coming sample pauses or cues the player (R282). -/
def Player.fadeTick (p : Player) (n : Nat) : Player :=
  if p.level.first + p.level.len ≤ n then
    (if p.state = 3 then { p.loopTick with state := 4 } else if p.state = 5 then p.recue else p)
  else p

/-- The player is giving sound. -/
def Player.active (p : Player) : Bool := p.state == 2 || p.state == 3 || p.state == 5

/-- The player has passed the last frame of its clip (R283). -/
def Player.ended (p : Player) (k : Clip) : Bool := p.active && !p.arrived && decide (k.frames ≤ p.pos)

/-- What happens at the start of sample n: a fade ends, the loop continues, or the clip has ended. -/
def Player.begin_ (p : Player) (k : Clip) (n : Nat) : Player × Bool :=
  let p := p.fadeTick n
  if !p.active then (p, false) else
    let p := p.loopTick
    if p.ended k then (p.recue, true) else (p, false)

/-- One sample of a player: its position moves on (R280, R283). -/
def Player.advance (p : Player) (n : Nat) : Player :=
  if !p.active || decide (n < p.first) then p else
    let nx := p.pos + 1
    let arr := p.loopE != 0 && nx == p.loopE
    { p with shown := p.pos, pos := nx, played := p.played + 1, arrived := arr,
             plays := if arr then p.plays + 1 else p.plays }

/-- What a player's channel gives at sample n, before it advances. -/
def Player.out (p : Player) (k : Clip) (n ch : Nat) : Int :=
  if !p.active || decide (n < p.first) then 0 else scale (k.sample p.pos ch) (p.level.at_ n)

/-- The event of a clip's end (R286). -/
def clipEnded (i : Nat) (p : Player) : Ev :=
  { code := 0x07F0, sev := 0, subject := i, payload := le16 p.clip ++ le32 p.played }

/-- Begin sample n on every player (R283). -/
def Leaf.beginPlayers (x : Leaf) (n : Nat) : Leaf × List Ev :=
  x.scene.clips.players.foldl (fun acc q =>
    let r := q.2.begin_ (acc.1.scene.clip q.2.clip) n
    (acc.1.modScene fun sc => sc.setPlayer q.1 r.1, acc.2 ++ if r.2 then [clipEnded q.1 q.2] else [])) (x, [])

/-- Advance every player past sample n. -/
def Scene.advancePlayers (x : Scene) (n : Nat) : Scene :=
  x.clips.players.foldl (fun sc q => sc.setPlayer q.1 ((sc.player q.1).advance n)) x

/-- `CLIP_LOOP_END` (R283). -/
def execClipLoopEnd (l : LeafId) (player : Nat) (s : State) : Res :=
  .next (s.eachScene l fun s => s.modLeaf l fun x => x.modScene fun sc => sc.setPlayer player (sc.player player).loopTick)

/-- `CLIP_END_PASSED` (R283). -/
def execClipEndPassed (l : LeafId) (player : Nat) (s : State) : Res :=
  .next (s.eachScene l fun s => s.leafStep l fun x =>
    let p := x.scene.player player
    if p.ended (x.scene.clip p.clip) then
      { x := x.modScene fun sc => sc.setPlayer player p.recue, evs := [clipEnded player p] }
    else { x := x })

/-- `CLIP_FADE_END` (R282). -/
def execClipFadeEnd (l : LeafId) (player : Nat) (s : State) : Res :=
  .next (s.eachScene l fun s => s.modLeaf l fun x => x.modScene fun sc => sc.setPlayer player ((sc.player player).fadeTick x.next))

/-! Group 0x07. -/

/-- The clip that a `CLIP_LOAD` declares. -/
def clipOf (b : List Byte) : Clip :=
  { channels := u8 b 2, format := u8 b 3, frames := u32 b 4, rate := u8 b 8, exact := bit (u8 b 9) 0 }

/-- The size of the part is right (R285). -/
def partOk (b : List Byte) : Bool :=
  let k := clipOf b
  let left := (k.frames - u32 b 12) * k.frameBytes
  let n := u32 b 24
  n == up4 left || (decide (n < left) && k.frameBytes != 0 && n % k.frameBytes == 0 && n % 4 == 0)

/-- Frames that a part carries. -/
def partFrames (b : List Byte) : Nat :=
  let k := clipOf b
  min (k.frames - u32 b 12) (u32 b 24 / k.frameBytes)

/-- The header of a later part equals the first part's. -/
def Clip.sameHeader (k j : Clip) : Bool :=
  k.channels == j.channels && k.format == j.format && k.frames == j.frames && k.rate == j.rate && k.exact == j.exact

/-- A player has a clip cued. -/
def Scene.clipCued (x : Scene) (i : Nat) : Bool :=
  x.clips.players.any fun p => p.2.state != 0 && p.2.clip == i

/-- Change a clip on every leaf that serves the function. -/
def onClip (c : Cmd) (f : Clip → Clip) (s : State) : State :=
  (s.servers c.fn).foldl (fun s lg => s.modLeaf lg.1 fun x =>
    let x := if lg.2 then x.swapGuest else x
    let y := x.modScene fun sc => sc.setClip (u16 c.body 0) (f (sc.clip (u16 c.body 0)))
    if lg.2 then y.swapGuest else y) s

/-- Effect of `CLIP_LOAD`: empty the clip, or add a part that has arrived (R285). -/
def runClipLoad (_ : Ctx) (m : Cmd) (d : List Byte) (x : Leaf) : LEff :=
  let b := m.body
  let i := u16 b 0
  let k := x.scene.clip i
  if u8 b 2 = 0 then
    (if x.scene.clipCued i then .no x sBadState else { x := x.modScene fun sc => sc.setClip i clip0 })
  else if !k.parts.contains m.acc then .no x sAborted
  else { x := x.modScene fun sc => sc.setClip i { k with data := k.data ++ d, parts := k.parts.filter fun p => p != m.acc } }

/-- `CLIP_LOAD` (R285): its state checks run at validation, in front of its transfer. -/
def specClipLoad : Spec where
  op := 0x0701
  len := fixedLen 32
  fields := fun _ c =>
    let b := c.body
    let ld := u8 b 2 != 0
    [(0, decide (u16 b 0 < 1024)), (2, decide (u8 b 2 ≤ 16)), (3, !ld || decide (u8 b 3 < 3)),
     (4, !ld || decide (1 ≤ u32 b 4)), (8, !ld || within 1 6 (u8 b 8)), (9, decide (u8 b 9 < 2)), resv c 10 2,
     (12, if ld then decide (u32 b 12 < u32 b 4) else u32 b 12 == 0), (16, ld || allZero b 16 16), (24, !ld || partOk b)]
  refs := fun c => if u8 c.body 2 = 0 then [] else [16]
  pre := fun s c =>
    match s.fnLeaf c.fn with
    | none => (sNotActive, 0)
    | some x =>
      let b := c.body
      let k := x.scene.clip (u16 b 0)
      if u8 b 2 = 0 then (sOk, 0)
      else if x.scene.clipCued (u16 b 0) then (sBadState, 0)
      else if u32 b 12 = 0 then
        (if x.clipFree + k.size < (clipOf b).size then (sNoCapacity, 0) else (sOk, 0))
      else if k.sameHeader (clipOf b) && k.sent == u32 b 12 then (sOk, 0) else (sBadState, 0)
  stage := fun c s =>
    let b := c.body
    if u8 b 2 = 0 then s
    else onClip c (fun k =>
      let k := if u32 b 12 = 0 then clipOf b else k
      { k with parts := k.parts ++ [c.acc], sent := u32 b 12 + partFrames b }) s
  undo := fun c s => onClip c (fun k => if k.parts.contains c.acc then clip0 else k) s
  run := onLeaves runClipLoad

/-- Effect of `CLIP_CUE` (R285). -/
def runClipCue (_ : Ctx) (m : Cmd) (_ : List Byte) (x : Leaf) : LEff :=
  let b := m.body
  let p := x.scene.player (u16 b 0)
  let k := x.scene.clip (u16 b 2)
  if p.active || p.state == 6 then .no x sBadState
  else if u16 b 2 = 65535 then { x := x.modScene fun sc => sc.setPlayer (u16 b 0) player0 }
  else if !k.loaded || decide (k.frames ≤ u32 b 4) || decide (k.frames < u32 b 12) then .no x sBadState
  else
    let q : Player := { state := 1, clip := u16 b 2, cue := u32 b 4, loopS := u32 b 8, loopE := u32 b 12, loops := u16 b 16,
                        pos := u32 b 4 }
    { x := x.modScene fun sc => sc.setPlayer (u16 b 0) q }

/-- `CLIP_CUE` (R285). -/
def specClipCue : Spec where
  op := 0x0702
  len := fixedLen 24
  timed := true
  fields := fun _ c =>
    let b := c.body
    let idle := u16 b 2 == 65535
    [(0, decide (u16 b 0 < 256)), (2, decide (u16 b 2 < 1024) || idle), (4, !idle || u32 b 4 == 0),
     (8, if idle || u32 b 12 == 0 then u32 b 8 == 0 else decide (u32 b 8 < u32 b 12)), (12, !idle || u32 b 12 == 0),
     (16, !idle || u16 b 16 == 0), resv c 18 6]
  run := onLeaves runClipCue

/-- The shared body of the transport commands (R285). -/
def transportFields (_ : State) (c : Cmd) : List (Nat × Bool) := [(0, decide (u16 c.body 0 < 256)), resv c 4 4]

/-- Effect of `CLIP_PLAY` (R280 to R282). -/
def runClipPlay (c : Ctx) (m : Cmd) (_ : List Byte) (x : Leaf) : LEff :=
  let i := u16 m.body 0
  let p := x.scene.player i
  let k := x.scene.clip p.clip
  let len := clipFade k (u16 m.body 2)
  if p.state ≠ 1 ∧ p.state ≠ 3 ∧ p.state ≠ 4 then .no x sBadState
  else if k.rate ≠ x.clk.dom.rate then .no x sBadState
  else
    let q := if p.state = 3 then { p with state := 2, level := p.level.go c.n c.first len 1, played := 0 }
      else { p with state := 2, first := c.first, played := 0, shown := p.pos,
                    level := { start := 0, target := 1, first := c.first, len := len } }
    { x := x.modScene fun sc => sc.setPlayer i q }

/-- `CLIP_PLAY` (R282). -/
def specClipPlay : Spec where
  op := 0x0703
  len := fixedLen 8
  timed := true
  fields := transportFields
  run := onLeaves runClipPlay

/-- `CLIP_PAUSE` (R282). -/
def specClipPause : Spec where
  op := 0x0704
  len := fixedLen 8
  timed := true
  fields := transportFields
  run := onLeaves fun c m _ x =>
    let i := u16 m.body 0
    let p := x.scene.player i
    if p.state ≠ 2 then .no x sBadState
    else
      let len := clipFade (x.scene.clip p.clip) (u16 m.body 2)
      let q := { p with state := 3, level := p.level.go c.n c.first len 0 }
      { x := x.modScene fun sc => sc.setPlayer i (q.fadeTick c.n) }

/-- `CLIP_STOP` (R282). -/
def specClipStop : Spec where
  op := 0x0705
  len := fixedLen 8
  timed := true
  fields := transportFields
  run := onLeaves fun c m _ x =>
    let i := u16 m.body 0
    let p := x.scene.player i
    if p.state = 0 ∨ p.state = 5 ∨ p.state = 6 then .no x sBadState
    else
      let len := clipFade (x.scene.clip p.clip) (u16 m.body 2)
      let q := if p.state = 2 ∨ p.state = 3 then ({ p with state := 5, level := p.level.go c.n c.first len 0 } : Player).fadeTick c.n
        else p.recue
      { x := x.modScene fun sc => sc.setPlayer i q }

/-- The response of `CLIP_QUERY` at the latest meridian (R285). -/
def clipQueryResp (x : Leaf) (i : Nat) : List Byte :=
  let p := x.scene.player i
  let k := x.scene.clip p.clip
  let n := x.clk.dom.sample
  let left := if p.active then p.level.first + p.level.len - (n + 1) else 0
  le8 p.state ++ le8 (b2n k.exact) ++ le16 p.clip ++
    le32 (if p.active then p.shown else if p.state = 1 ∨ p.state = 4 then p.pos else 0) ++
    le32 p.cue ++ le32 p.loopS ++ le32 p.loopE ++
    le16 (if p.loops = 0 ∨ p.loopE = 0 then 0 else p.loops - p.plays) ++ le16 (min 65535 left) ++
    le32 (x.clipFree / 1024) ++ zeros 4

/-- `CLIP_QUERY` (R285). -/
def specClipQuery : Spec where
  op := 0x0706
  len := fixedLen 4
  fields := fun _ c => [(0, decide (u16 c.body 0 < 256)), resv c 2 2]
  run := onLeaves fun _ c _ x => { x := x, resp := clipQueryResp x (u16 c.body 0) }

end Sys2Proof.Machine
end

