-- ==== Sys2Proof/Machine/Voice.lean ====
section
/-! DEFINITION. The voice engine's signal path (chapter 9): oscillators, filters, envelopes, LFOs and the
modulation matrix of one voice. The polynomial step corrections and the gains of the band-limited tables are
open. -/

namespace Sys2Proof.Machine

/-- The default pool: empty. -/
def pool0 : Pool := {}
/-- The default group: unbound. -/
def vgroup0 : VGroup := {}
/-- The default wave slot: empty. -/
def wave0 : Wave := {}
/-- A pool of a scene. -/
def Scene.pool (x : Scene) (i : Nat) : Pool := tget x.vox.pools i pool0
/-- A scene with one pool changed. -/
def Scene.modPool (x : Scene) (i : Nat) (f : Pool → Pool) : Scene :=
  { x with vox := { x.vox with pools := tmod x.vox.pools i pool0 f } }
/-- A voice group of a scene. -/
def Scene.vgroup (x : Scene) (i : Nat) : VGroup := tget x.vox.groups i vgroup0
/-- A scene with one voice group changed. -/
def Scene.modGroup (x : Scene) (i : Nat) (f : VGroup → VGroup) : Scene :=
  { x with vox := { x.vox with groups := tmod x.vox.groups i vgroup0 f } }
/-- A wave slot of a scene. -/
def Scene.wave (x : Scene) (i : Nat) : Wave := tget x.vox.waves i wave0

/-! Patch fields (R241). -/

/-- Offset of oscillator block `i`. -/
def oscOff (i : Nat) : Nat := 32 + 24 * i
/-- Offset of envelope block `e`. -/
def envOff (e : Nat) : Nat := 160 + 24 * e
/-- Offset of LFO block `l`. -/
def lfoOff (l : Nat) : Nat := 232 + 16 * l
/-- Offset of matrix slot `m`. -/
def matOff (m : Nat) : Nat := 264 + 8 * m

/-- A key in key units from its 1/512 steps. -/
def keyOf (k : Nat) : Rat := (k : Rat) / 512

/-- A value of a voice's generator in [−1, 1): seeded from the note sequence number (R227)
(DESIGN CHOICE, log entry 19). -/
def drawOf (seq osc k : Nat) : Rat :=
  let v := Config.of "voiceRandom" [(seq : Rat), (osc : Rat), (k : Rat)]
  if v < -1 then -1 else if 1 ≤ v then 0 else v

/-- A pitch bend of −1 to 1 from its u32. -/
def bendOf (v : Nat) : Rat := (((v : Int) - 2147483648 : Int) : Rat) / 2147483648

/-! The matrix (R231, R232). -/

/-- What the matrix reads beside the voice: the group, and the object's distance and azimuth. -/
structure MatEnv where
  press : Nat
  bend : Nat
  dist : Rat
  az : Rat

/-- The value of a matrix source. -/
def Voice.source (v : Voice) (e : MatEnv) (code : Nat) : Rat :=
  let u32r : Nat → Rat := fun x => (x : Rat) / 4294967295
  match code with
  | 1 => (v.envs.getD 0 {}).y
  | 2 => (v.envs.getD 1 {}).y
  | 3 => (v.envs.getD 2 {}).y
  | 4 => (v.lfos.getD 0 {}).x
  | 5 => (v.lfos.getD 1 {}).x
  | 6 => (v.vel : Rat) / 65535
  | 7 => (keyOf v.key - 64) / 64
  | 8 => u32r e.press
  | 9 => u32r v.press
  | 10 => u32r (v.ctrls.getD 0 0)
  | 11 => u32r (v.ctrls.getD 1 0)
  | 12 => u32r (v.ctrls.getD 2 0)
  | 13 => u32r (v.ctrls.getD 3 0)
  | 14 => v.rand
  | 15 => clampQ 0 1 (e.dist / 100)
  | 16 => e.az / 180
  | 17 => 1
  | _ => 0

/-- The shape functions of the matrix. -/
def matShape (k : Nat) (s : Rat) : Rat :=
  match k with
  | 0 => s
  | 1 => s * absQ s
  | 2 => s * s * s
  | _ => if 0 ≤ s then (exp2 (4 * s) - 1) / 15 else -((exp2 (-4 * s) - 1) / 15)

/-- The sum of the slots of one destination. -/
def Voice.dest (v : Voice) (e : MatEnv) (d : Nat) : Rat :=
  sumQ ((List.range 16).map fun m =>
    let o := matOff m
    let p := v.patch
    if u8 p (o + 2) != d || u8 p o = 0 then 0 else
      let via := if u8 p (o + 1) = 0 then 1 else v.source e (u8 p (o + 1))
      f32D p (o + 4) * matShape (u8 p (o + 3)) (v.source e (u8 p o)) * via)

/-- What a destination adds to the patch's base value: its sum, held so that both together stay in the
destination's range (R231): oscillator level, shape by the oscillator's type, and amplitude. -/
def Voice.destIn (v : Voice) (e : MatEnv) (d : Nat) : Rat :=
  let p := v.patch
  let held : Rat → Rat → Rat → Rat := fun lo hi base => clampQ lo hi (base + v.dest e d) - base
  if within 6 9 d then
    let l := s16 p (oscOff (d - 6) + 6)
    if l = -32768 then 0 else held (-120) 0 ((l : Rat) / 100)
  else if within 10 13 d then
    let o := oscOff (d - 10)
    match u8 p o with
    | 1 => held 0 1 ((u16 p (o + 10) : Rat) / 65535)
    | 4 => held (1 / 100) (99 / 100) ((u16 p (o + 8) : Rat) / 10000)
    | 7 => held 0 8 ((u16 p (o + 12) : Rat) / 1000)
    | _ => v.dest e d
  else if d = 18 then held (-120) 12 ((s16 p 2 : Rat) / 100)
  else v.dest e d

/-- The value of a destination in force at sample n. -/
def Voice.m (v : Voice) (n d : Nat) : Rat := (tget v.mat d {}).at_ n

/-! Envelopes and LFOs (R229, R230). -/

/-- Samples of a time in microseconds. -/
def usSamples (fs us : Nat) : Nat := (us * fs + 500000) / 1000000

/-- A power with the exponent of a curve value. -/
def curvePow (x : Rat) (c : Int) : Rat :=
  if c = 0 ∨ x = 0 ∨ x = 1 then x else powQ x (exp2 ((c : Rat) / 25))

/-- Length of an envelope segment in samples; a segment of length 0 passes in one sample. -/
def envLen (fs : Nat) (p : List Byte) (e seg : Nat) : Nat :=
  let o := envOff e
  max 1 (usSamples fs (match seg with
    | 0 => u32 p o
    | 1 => u32 p (o + 4)
    | 2 => u32 p (o + 8)
    | 3 => u32 p (o + 12)
    | _ => u32 p (o + 16)))

/-- One sample of an envelope (R229). -/
def Env.step (v : Env) (fs : Nat) (p : List Byte) (e : Nat) : Env :=
  let o := envOff e
  let s : Rat := (u16 p (o + 20) : Rat) / 65535
  let len := envLen fs p e v.seg
  let x : Rat := ((v.pos + 1 : Nat) : Rat) / (len : Rat)
  let nxt : Nat → Env → Env := fun seg q => if len ≤ v.pos + 1 then { q with seg := seg, pos := 0 } else { q with pos := v.pos + 1 }
  match v.seg with
  | 0 => nxt 1 { v with y := 0 }
  | 1 => nxt 2 { v with y := curvePow x (s8 p (o + 22)) }
  | 2 => nxt 3 { v with y := 1 }
  | 3 => nxt (if s = 0 then 6 else 4) { v with y := s + (1 - s) * curvePow (1 - x) (s8 p (o + 23)) }
  | 4 => { v with y := s }
  | 5 => nxt 6 { v with y := v.l0 * curvePow (1 - x) (s8 p (o + 23)) }
  | _ => { v with y := 0 }

/-- The release of an envelope begins from the level reached. -/
def Env.release (v : Env) : Env := if 5 ≤ v.seg then v else { v with seg := 5, pos := 0, l0 := v.y }

/-- The fraction of a phase. -/
def frac (q : Rat) : Rat := q - q.floor

/-- The shape of an LFO at a phase. -/
def lfoShape (shape : Nat) (phi sh : Rat) : Rat :=
  match shape with
  | 0 => sinPi (2 * phi)
  | 1 => 1 - 4 * absQ (phi - 1 / 2)
  | 2 => 2 * phi - 1
  | 3 => 1 - 2 * phi
  | 4 => if phi < 1 / 2 then 1 else -1
  | _ => sh

/-- One sample of an LFO (R230), with a draw for sample-and-hold at each cycle. -/
def Voice.lfoStep (v : Voice) (fs n k : Nat) : Voice :=
  let o := lfoOff k
  let p := v.patch
  let l := v.lfos.getD k {}
  let f := clampQ (1 / 100) 50 (f32D p (o + 4) * exp2 (v.m n (22 + k)))
  let ph0 : Rat := (u16 p (o + 2) : Rat) / 65536
  let phi := if u8 p (o + 1) = 0 then frac (ph0 + f * (n : Rat) / (fs : Rat))
    else if l.age = 0 then ph0 else frac (l.phase + f / (fs : Rat))
  let wrap := l.age = 0 ∨ phi < l.phase
  let draw := u8 p o = 5 ∧ wrap
  let sh := if draw then drawOf v.seq 4 v.drawn else l.sh
  let delay := usSamples fs (u32 p (o + 8))
  let fade := usSamples fs (u32 p (o + 12))
  let depth : Rat := if l.age < delay then 0 else if fade = 0 ∨ delay + fade ≤ l.age then 1
    else ((l.age - delay + 1 : Nat) : Rat) / (fade : Rat)
  let l' : Lfo := { phase := phi, age := l.age + 1, sh := sh, x := depth * lfoShape (u8 p o) phi sh }
  { v with lfos := v.lfos.set k l', drawn := if draw then v.drawn + 1 else v.drawn }

/-! Oscillators (R224 to R227). -/

/-- Frequency of oscillator i. -/
def Voice.freq (v : Voice) (e : MatEnv) (tuning : Rat) (n i : Nat) : Rat :=
  let p := v.patch
  let o := oscOff i
  let mod := v.m n 1 + v.m n (2 + i)
  if u8 p (o + 14) = 0 then f32D p (o + 16) * exp2 (mod / 12)
  else
    let pitch := keyOf v.key + (u8 p 5 : Rat) * bendOf e.bend + (u8 p 6 : Rat) * bendOf v.bend +
      (s16 p (o + 4) : Rat) / 100 + mod
    tuning * exp2 ((pitch - 69) / 12)

/-- One sample of a wave slot's data as a fraction of full scale. -/
def Wave.sample (w : Wave) (i : Nat) : Rat :=
  match w.format with
  | 0 => (s16 w.data (2 * i) : Rat) / 32768
  | 1 => (signed 24 (u16 w.data (3 * i) + 65536 * u8 w.data (3 * i + 2)) : Rat) / 8388608
  | _ => (s32 w.data (4 * i) : Rat) / 2147483648

/-- Harmonics of band-limited level k of a wavetable frame: 11 levels of 2 048 samples, each with half the
harmonics of the one before it (R225)
(DEDUCED, log entry 71). -/
def levelTop (k : Nat) : Nat := 1024 / 2 ^ k

/-- The level used at a phase step: the lowest whose harmonics all lie below 0.45 of the rate (R225). -/
def waveLevel (delta : Rat) : Nat :=
  ((List.range 11).find? fun k => decide ((levelTop k : Rat) * delta < 9 / 20)).getD 10

/-- Sample i of a band-limited level of a frame: the frame's harmonics up to the level's, each at a gain of
at most 1 that the manual leaves open (R225)
(DESIGN CHOICE, log entry 71). -/
def levelSample (w : Wave) (frame level i : Nat) : Rat :=
  let data := (List.range 2048).map fun j => w.sample (frame * 2048 + j)
  idft 2048 (fun b =>
    let h := min b (2048 - b)
    let g := if levelTop level < h then 0 else clampQ 0 1 (Config.of "levelGain" [(level : Rat), (h : Rat)])
    let z := dft 2048 data b
    (g * z.1, g * z.2)) (i : Rat)

/-- A wavetable read: linear interpolation over the 2 048 samples of a band-limited level of a frame
(R225). -/
def waveFrame (w : Wave) (frame : Nat) (phi delta : Rat) : Rat :=
  let t := phi * 2048
  let k := t.floor.toNat
  let at_ : Nat → Rat := fun i => levelSample w frame (waveLevel delta) (i % 2048)
  at_ k + (t - (k : Rat)) * (at_ (k + 1) - at_ k)

/-- Cubic Hermite interpolation over 4 points with central-difference slopes. -/
def hermite (a b c d x : Rat) : Rat :=
  let c1 := (c - a) / 2
  let c3 := (d - a) / 2 + 3 * (b - c) / 2
  let c2 := c - b - c1 - c3
  b + x * (c1 + x * (c2 + x * c3))

/-- One oscillator at sample n: its new state and output, and the generator's count
(DESIGN CHOICE, log entry 19). -/
def Voice.oscStep (v : Voice) (sc : Scene) (e : MatEnv) (fs n i : Nat) : Voice :=
  let p := v.patch
  let o := oscOff i
  let s := v.oscs.getD i {}
  let f := v.freq e sc.vox.tuning n i
  let ty := u8 p o
  let raw := f / (fs : Rat)
  let delta := if ty = 1 ∨ 3 ≤ ty then minQ (9 / 20) raw else raw
  let shape := v.m n (10 + i)
  let slot := u16 p (o + 2)
  let w := sc.wave slot
  let adv : Osc := { s with phi := frac (s.phi + delta) }
  let r : Osc × Rat := match ty with
    | 1 =>
      if w.kind ≠ 1 then (adv, 0) else
        let pos := clampQ 0 1 ((u16 p (o + 10) : Rat) / 65535 + shape) * ((w.frames - 1 : Nat) : Rat)
        let k := pos.floor.toNat
        let a := waveFrame w k s.phi delta
        let b := waveFrame w (min (k + 1) (w.frames - 1)) s.phi delta
        (adv, clampQ (-1) 1 (a + (pos - (k : Rat)) * (b - a)))
    | 2 =>
      if w.kind ≠ 2 ∨ s.ended = true then (s, 0) else
        let root := sc.vox.tuning * exp2 ((w.root - 69) / 12)
        let rho := minQ (768000 / (fs : Rat)) (f / root * w.rate / (fs : Rat))
        let loop := bit (u8 p (o + 15)) 1
        let at_ : Int → Rat := fun k => if k < 0 ∨ (w.frames : Int) ≤ k then 0 else w.sample k.toNat
        let k := s.q.floor
        let y := clampQ (-1) 1 (hermite (at_ (k - 1)) (at_ k) (at_ (k + 1)) (at_ (k + 2)) (s.q - (k : Rat)))
        let q := s.q + rho
        if loop ∧ (w.loopE : Rat) ≤ q ∧ w.loopS < w.loopE then
          let span : Rat := ((w.loopE - w.loopS : Nat) : Rat)
          let past := (q - (w.loopE : Rat)) / span
          ({ s with q := (w.loopS : Rat) + (past - (past.floor : Rat)) * span }, y)
        else if (w.frames : Rat) ≤ q then ({ s with q := q, ended := true }, y)
        else ({ s with q := q }, y)
    | 3 => (adv, clampQ (-1) 1 (2 * s.phi - 1 - Config.of "stepCorrection" [s.phi, delta]))
    | 4 =>
      let width := clampQ (1 / 100) (99 / 100) ((u16 p (o + 8) : Rat) / 10000 + shape)
      let y : Rat := if s.phi < width then 1 else -1
      (adv, clampQ (-1) 1 (y + Config.of "stepCorrection" [s.phi, delta] -
        Config.of "stepCorrection" [frac (s.phi + 1 - width), delta]))
    | 5 => (adv, clampQ (-1) 1 (1 - 4 * absQ (s.phi - 1 / 2) + Config.of "rampCorrection" [s.phi, delta]))
    | 6 => (s, drawOf v.seq i v.drawn)
    | 7 =>
      let src := v.oscs.getD (u8 p (o + 1)) {}
      let d := clampQ 0 8 ((u16 p (o + 12) : Rat) / 1000 + shape)
      (adv, sinPi (2 * (s.phi + d * src.x)))
    | _ => (s, 0)
  { v with oscs := v.oscs.set i { r.1 with x := r.2 }, drawn := if ty = 6 then v.drawn + 1 else v.drawn }

/-- A level in dB added to a cdb level, as amplitude
(DESIGN CHOICE, log entry 19). -/
def levelAmp (cdb : Int) (db : Rat) : Rat := if cdb = -32768 then 0 else amp cdb * dbAmp db

/-! Filters (R228). -/

/-- A filter's value held in A40: rounded to nearest even and clamped. -/
def toA40 (q : Rat) : Int := sat40 (roundEven (q * (2 : Rat) ^ 32))

/-- Cutoff of a filter block in Hz. -/
def Voice.cutoff (v : Voice) (fs off : Nat) (mod : Rat) : Rat :=
  let p := v.patch
  let track : Rat := (u8 p (off + 1) : Rat) / 100
  clampQ 20 (9 * (fs : Rat) / 20) (f32D p (off + 4) * exp2 ((mod + track * (keyOf v.key - 60)) / 12))

/-- The filter coefficients at a control block: g and 1/Q, g and r. -/
def Voice.coefs' (v : Voice) (e : MatEnv) (fs : Nat) : List Rat :=
  let p := v.patch
  let g : Rat → Rat := fun fc => tanPi (fc / (fs : Rat))
  [g (v.cutoff fs 128 (v.dest e 14)), 1 / clampQ (1 / 2) 40 (f32D p 136 + v.dest e 15),
   g (v.cutoff fs 144 (v.dest e 16)), clampQ 0 4 (f32D p 152 + v.dest e 17)]

/-- The state-variable filter: output and states. -/
def svfStep (out : Nat) (g k x : Rat) (st : List Int) : Rat × List Int :=
  let s1 := a40Val (st.getD 0 0)
  let s2 := a40Val (st.getD 1 0)
  let hp := (x - (k + g) * s1 - s2) / (1 + g * k + g * g)
  let bp := g * hp + s1
  let lp := g * bp + s2
  (match out with
    | 0 => lp
    | 1 => bp
    | 2 => hp
    | _ => lp + hp,
   [toA40 (g * hp + bp), toA40 (g * bp + lp)])

/-- The ladder: output and states, the last of them y4. -/
def ladStep (g r drive x : Rat) (st : List Int) : Rat × List Int :=
  let sat : Rat → Rat := fun u => tanhQ (drive * u) / drive
  let res := (List.range 4).foldl (fun (a : Rat × List Int) i =>
    let s := a40Val (st.getD i 0)
    let w := (sat a.1 - s) * g / (1 + g)
    let y := w + s
    (y, a.2 ++ [toA40 (y + w)])) (x - r * a40Val (st.getD 4 0), [])
  (res.1, res.2 ++ [toA40 res.1])

/-- The filters in the patch's route. -/
def Voice.filter (v : Voice) (n : Nat) (x : Rat) : Rat × List Int × List Int :=
  let p := v.patch
  let c : Nat → Rat := fun i => (v.coefs.getD i {}).at_ n
  let s := fun y => svfStep (u8 p 128) (c 0) (c 1) y v.svf
  let l := fun y => ladStep (c 2) (c 3) (f32D p 156) y v.lad
  match u8 p 1 with
  | 0 => let a := s x; let b := l a.1; (b.1, a.2, b.2)
  | 1 => let a := l x; let b := s a.1; (b.1, b.2, a.2)
  | 2 => let a := s x; let b := l x; (a.1 + b.1, a.2, b.2)
  | 3 => let a := s x; (a.1, a.2, v.lad)
  | 4 => let b := l x; (b.1, v.svf, b.2)
  | _ => (x, v.svf, v.lad)

/-! One sample of a voice. -/

/-- Evaluate the matrix: at the start sample every value stands, later it ramps to the next
evaluation (R231). -/
def Voice.evalMatrix (v : Voice) (e : MatEnv) (fs n : Nat) : Voice :=
  let len := 16 - n % 16
  let go : Ramp → Rat → Ramp := fun r t => if v.evald then r.go n n len t else Ramp.rest t
  let mat := (List.range 24).filterMap fun d =>
    if d = 0 ∨ d = 18 then none else
      let t := v.destIn e d
      let r := go (tget v.mat d {}) t
      if r = { } then none else some (d, r)
  let coefs := (v.coefs' e fs).zipIdx.map fun (p : Rat × Nat) => go (v.coefs.getD p.2 {}) p.1
  { v with mat := mat, coefs := coefs, evald := true }

/-- An oscillator whose wave read fails outputs 0 for the sample (R465). -/
def Voice.quietOsc (v : Voice) (i : Nat) : Voice :=
  { v with oscs := v.oscs.set i { v.oscs.getD i {} with x := 0 } }

/-- A release that has come to its sample starts the envelopes' release (R88, R229). -/
def Voice.letGo (v : Voice) (n : Nat) : Voice :=
  match v.relAt with
  | none => v
  | some k => if n < k then v else { v with envs := v.envs.map Env.release, relAt := none }

/-- A change of a voice that reads its event values as they stand for sample n (R88). -/
def Voice.reading (v : Voice) (n : Nat) (g : Voice → Voice) : Voice :=
  match v.was with
  | none => g v
  | some h =>
    if h.at_ < n then { g v with was := none }
    else
      let w := g { v with press := h.press, bend := h.bend, ctrls := h.ctrls }
      { w with press := v.press, bend := v.bend, ctrls := v.ctrls }

/-- The signal path of a voice for one sample (R223 to R233). -/
def Voice.sound (v : Voice) (sc : Scene) (e : MatEnv) (fs n : Nat) (quiet : List Nat) : Voice :=
  let v := v.letGo n
  let v := { v with envs := v.envs.zipIdx.map fun (p : Env × Nat) => p.1.step fs v.patch p.2 }
  let v := (List.range 2).foldl (fun v k => v.lfoStep fs n k) v
  let v := if v.evald && n % 16 != 0 then v else v.evalMatrix e fs n
  let v := (List.range 4).foldl (fun v i =>
    let w := v.oscStep sc e fs n i
    if quiet.contains i then w.quietOsc i else w) v
  let x := sumQ ((List.range 4).map fun i =>
    (v.oscs.getD i {}).x * levelAmp (s16 v.patch (oscOff i + 6)) (v.m n (6 + i)))
  let f := v.filter n x
  let y := f.1 * (v.envs.getD 0 {}).y * levelAmp (s16 v.patch 2) (v.destIn e 18)
  let g := match v.fade with
    | none => y
    | some r => y * r.at_ n
  { v with svf := f.2.1, lad := f.2.2, out := toA40 g }

/-- One sample of a voice that has started; `quiet` lists the oscillators whose wave read failed. -/
def Voice.step (v : Voice) (sc : Scene) (e : MatEnv) (fs n : Nat) (quiet : List Nat) : Voice :=
  if n < v.start then v else v.reading n fun v => v.sound sc e fs n quiet

/-- A voice has ended: envelope 0 has finished, or its fade has (R229, R249). -/
def Voice.ended (v : Voice) (n : Nat) : Bool :=
  (decide (v.start ≤ n) && (v.envs.getD 0 {}).seg == 6) ||
    (match v.fade with
     | none => false
     | some r => decide (r.first + r.len ≤ n))

end Sys2Proof.Machine
end

