-- ==== Sys2Proof/Machine/Alloc.lean ====
section
/-! DEFINITION. Voice pools, allocation and stealing, note events, voice groups, patches and the wave
store (chapter 9), and the commands of group 0x06. -/

namespace Sys2Proof.Machine

/-! Pools and voices (R247). -/

/-- First voice of a pool: pools take consecutive voices in pool order. -/
def Scene.poolBase (x : Scene) (p : Nat) : Nat := ((List.range p).map fun i => (x.pool i).size).sum
/-- A voice that is not free: it sounds or fades, or its note stands on a shadow voice (R247). -/
def Scene.voiceTaken (x : Scene) (i : Nat) : Bool :=
  (tfind x.vox.voices i).isSome || x.vox.shadows.any fun q => q.2.into == some i
/-- The lowest-index free voice of a pool. -/
def Scene.freeVoice (x : Scene) (p : Nat) : Option Nat :=
  (span (x.poolBase p) (x.pool p).size).find? fun i => !x.voiceTaken i
/-- A calibration run holds shadow voice 63 (R201). -/
def Scene.shadowHeld (x : Scene) : Bool :=
  match x.meas.run with
  | none => false
  | some r => !r.returned
/-- The lowest-index free shadow voice (R249). -/
def Scene.freeShadow (x : Scene) : Option Nat :=
  (List.range (if x.shadowHeld then 63 else 64)).find? fun i => (tfind x.vox.shadows i).isNone
/-- A scene with a voice set or freed. -/
def Scene.setVoice (x : Scene) (i : Nat) (v : Option Voice) : Scene :=
  { x with vox := { x.vox with voices := match v with
      | none => tdel x.vox.voices i
      | some v => tins x.vox.voices i v } }
/-- A scene with a shadow voice set or freed. -/
def Scene.setShadow (x : Scene) (i : Nat) (v : Option Shadow) : Scene :=
  { x with vox := { x.vox with shadows := match v with
      | none => tdel x.vox.shadows i
      | some v => tins x.vox.shadows i v } }

/-- Steal fade of a pool in samples (R249). -/
def Pool.fadeLen (p : Pool) (fs : Nat) : Nat := (p.fade * fs + 5000) / 10000

/-- A voice begins to fade to zero. -/
def Voice.fadeOut (v : Voice) (first len : Nat) : Voice :=
  if v.fade.isSome then v else { v with fade := some { start := 1, target := 0, first := first, len := len } }

/-- The older of two voices: earlier start sample, then lower index. -/
def olderOf (a b : Nat × Voice) : Nat × Voice :=
  if b.2.start < a.2.start ∨ (b.2.start = a.2.start ∧ b.1 < a.1) then b else a

/-- The oldest of a list. -/
def oldest : List (Nat × Voice) → Option (Nat × Voice)
  | [] => none
  | v :: r => some (r.foldl olderOf v)

/-- The least of a list by a value, ties to the oldest. -/
def leastBy (f : Voice → Rat) (l : List (Nat × Voice)) : Option (Nat × Voice) :=
  match l with
  | [] => none
  | v :: r =>
    let m := r.foldl (fun m q => minQ m (f q.2)) (f v.2)
    oldest (l.filter fun q => f q.2 == m)

/-- The victim of a steal (R248). -/
def pickVoice (policy : Nat) (cand : List (Nat × Voice)) (g key : Nat) : Option (Nat × Voice) :=
  match policy with
  | 0 =>
    let r := cand.filter fun q => q.2.released
    if r.isEmpty then oldest cand else leastBy (fun v => (v.envs.getD 0 {}).y) r
  | 2 => leastBy (fun v => (u8 v.patch 4 : Rat)) cand
  | 3 =>
    let r := cand.filter fun q => q.2.group == g && q.2.key / 512 == key / 512
    if r.isEmpty then oldest cand else oldest r
  | _ => oldest cand

/-- What allocation reports: kind 0 steal, 1 advice, 2 dropped; pool, group, key, whether a cut, the
cause of a drop and the note sequence number. -/
structure NoteRep where
  kind : Nat
  pool : Nat
  group : Nat := 0
  key : Nat := 0
  cut : Bool := false
  cause : Nat := 0
  seq : Nat := 0

/-- A new voice for a note on. -/
def startVoice (x : Scene) (first : Nat) (ev : NoteEv) (seq : Nat) : Voice :=
  let g := x.vgroup ev.group
  let patch := (tfind x.vox.patches g.patch).getD []
  let retrig : Nat → Bool := fun i => bit (u8 patch (oscOff i + 15)) 0
  let r := (List.range 4).foldl (fun (a : List Osc × Nat) i =>
    let q : Rat := (u32 patch (oscOff i + 20) : Rat)
    if retrig i then (a.1 ++ [{ q := q }], a.2)
    else (a.1 ++ [{ q := q, phi := (drawOf seq i a.2 + 1) / 2 }], a.2 + 1)) ([], 0)
  { group := ev.group, pool := g.pool, noteId := ev.noteId, key := ev.key, vel := bits ev.value 15 0, start := first,
    seq := seq, patch := patch, oscs := r.1, rand := drawOf seq 5 r.2, drawn := r.2 + 1 }

/-- Release one note from the first sample of a change (R88). -/
def Voice.release (c : Ctx) (v : Voice) : Voice :=
  if v.released then { v with held := false } else { v with released := true, held := false, relAt := some c.first }

/-- What a voice or its group still reads at the effect sample of an unprepared event: the values of before
(R88). -/
def keptVals (c : Ctx) (was : Option NoteVals) (now : NoteVals) : Option NoteVals :=
  if c.prep then was
  else match was with
    | some h => if h.at_ = c.n then some h else some { now with at_ := c.n }
    | none => some { now with at_ := c.n }

/-- An event changes the values of a voice. -/
def Voice.takeEvent (c : Ctx) (g : Voice → Voice) (v : Voice) : Voice :=
  { g v with was := keptVals c v.was { press := v.press, bend := v.bend, ctrls := v.ctrls } }

/-- An event changes the values of a group. -/
def VGroup.takeEvent (c : Ctx) (f : VGroup → VGroup) (g : VGroup) : VGroup :=
  { f g with was := keptVals c g.was { press := g.press, bend := g.bend } }

/-- Change the sounding notes that a test picks, on voices and shadow voices; voices fading after a
steal match no event (R244). -/
def Scene.modNotes (x : Scene) (p : Voice → Bool) (f : Voice → Voice) : Scene :=
  let q : Voice → Bool := fun v => v.fade.isNone && p v
  { x with vox := { x.vox with
      voices := x.vox.voices.map fun e => (e.1, if q e.2 then f e.2 else e.2),
      shadows := x.vox.shadows.map fun e => (e.1, if q e.2.v then { e.2 with v := f e.2.v } else e.2) } }

/-- The note that an event addresses. -/
def NoteEv.hits (ev : NoteEv) (v : Voice) : Bool :=
  v.group == ev.group && (if ev.noteId = 0 then v.key / 512 == ev.key / 512 else v.noteId == ev.noteId)

/-- End every voice of the groups that a test picks with its pool's steal fade (R235, R244). -/
def Scene.endNotes (x : Scene) (c : Ctx) (fs : Nat) (p : Nat → Bool) : Scene :=
  x.modNotes (fun v => p v.group) fun v => v.fadeOut c.first ((x.pool v.pool).fadeLen fs)

/-- Allocation of a note on (R247, R250). -/
def noteOn (x : Scene) (c : Ctx) (fs : Nat) (ev : NoteEv) : Scene × List NoteRep :=
  let x := if ev.noteId = 0 then x else x.modNotes (fun v => v.group == ev.group && v.noteId == ev.noteId) (Voice.release c)
  let seq := x.vox.noteSeq
  let x := { x with vox := { x.vox with noteSeq := (seq + 1) % 4294967296 } }
  let g := x.vgroup ev.group
  let p := g.pool
  let pool := x.pool p
  let rep : NoteRep := { kind := 2, pool := p, group := ev.group, key := ev.key, seq := seq }
  let drop : Nat → Scene × List NoteRep := fun cause =>
    (x.modPool p fun q => { q with dropped := (q.dropped + 1) % 4294967296 }, [{ rep with cause := cause }])
  if pool.size = 0 then drop 0
  else if g.bound = false then drop 1
  else if (tfind x.vox.patches g.patch).isNone then drop 2
  else
    let live := x.vox.voices.filter fun q => q.2.fade.isNone
    let liveG := (live.filter fun q => q.2.group == ev.group).length +
      (x.vox.shadows.filter fun q => q.2.v.group == ev.group && q.2.v.fade.isNone).length
    let full := g.limit != 0 && decide (g.limit ≤ liveG)
    let v := startVoice x c.first ev seq
    let free := if full then none else x.freeVoice p
    match free with
    | some i => (x.setVoice i (some v), [])
    | none =>
      let base := x.poolBase p
      let cand := if full then live.filter fun q => q.2.group == ev.group
        else live.filter fun q => decide (base ≤ q.1) && decide (q.1 < base + pool.size)
      match pickVoice pool.policy cand ev.group ev.key with
      | none => drop 3
      | some w =>
        if pool.mode ≠ 2 then
          (x.modPool p fun q => { q with dropped := (q.dropped + 1) % 4294967296 },
           if pool.mode = 1 then [{ rep with kind := 1 }] else [])
        else
          let y := x.modPool p fun q => { q with steals := (q.steals + 1) % 4294967296 }
          match y.freeShadow with
          | some s =>
            let len := pool.fadeLen fs
            ((y.setVoice w.1 (some (w.2.fadeOut c.first len))).setShadow s
              (some { v := v, into := some w.1, at_ := c.first + len }), [{ rep with kind := 0 }])
          | none =>
            ((y.modPool p fun q => { q with cuts := (q.cuts + 1) % 4294967296 }).setVoice w.1 (some v),
             [{ rep with kind := 0, cut := true }])

/-- One note event at its sample (R244). -/
def applyNote (x : Scene) (c : Ctx) (fs : Nat) (ev : NoteEv) : Scene × List NoteRep :=
  let all := ev.group = 65535
  let inG : Voice → Bool := fun v => all || v.group == ev.group
  match ev.type with
  | 1 => noteOn x c fs ev
  | 2 =>
    if (x.vgroup ev.group).sustain then (x.modNotes ev.hits fun v => { v with held := true }, [])
    else (x.modNotes ev.hits (Voice.release c), [])
  | 3 => (x.modNotes ev.hits (Voice.takeEvent c fun v => { v with press := ev.value }), [])
  | 4 => (x.modNotes ev.hits (Voice.takeEvent c fun v => { v with ctrls := v.ctrls.set ev.index ev.value }), [])
  | 5 => (x.modNotes ev.hits (Voice.takeEvent c fun v => { v with bend := ev.value }), [])
  | 6 => (x.modGroup ev.group (VGroup.takeEvent c fun g => { g with press := ev.value }), [])
  | 7 => (x.modGroup ev.group (VGroup.takeEvent c fun g => { g with bend := ev.value }), [])
  | 8 =>
    let down := decide (2147483648 ≤ ev.value)
    let y := x.modGroup ev.group fun g => { g with sustain := down }
    (if down then y else y.modNotes (fun v => v.group == ev.group && v.held) (Voice.release c), [])
  | 9 => (x.modNotes inG (Voice.release c), [])
  | 10 => (x.endNotes c fs fun g => all || g == ev.group, [])
  | 11 => (x.modGroup ev.group fun g => { g with patch := ev.value }, [])
  | 12 =>
    let set' : Voice → Voice := fun v =>
      { v with ctrls := (List.range 4).map fun i => if u8 v.patch (8 + i) = ev.index then ev.value else v.ctrls.getD i 0 }
    (x.modNotes ev.hits (Voice.takeEvent c set'), [])
  | _ => (x, [])

/-- Voices and shadow voices whose note has ended are freed, and notes whose steal fade has ended move
into the stolen voice (R229, R249, R251): the state at the start of sample n. -/
def Scene.voxTick (x : Scene) (n : Nat) : Scene :=
  let m := n - 1
  let vs := x.vox.voices.filter fun q => !q.2.ended m
  let sh := x.vox.shadows.filter fun q => !q.2.v.ended m
  let y := { x with vox := { x.vox with voices := vs, shadows := sh } }
  sh.foldl (fun y q =>
    if q.2.into.isNone && !q.2.waits || decide (n < q.2.at_) then y
    else if q.2.waits then
      (match y.freeVoice q.2.v.pool with
       | none => y
       | some i => (y.setVoice i (some q.2.v)).setShadow q.1 none)
    else match q.2.into with
      | none => y
      | some i => (y.setVoice i (some q.2.v)).setShadow q.1 none) y

/-- Post what allocation reports (R250, R257). -/
def State.noteReports (s : State) (l : LeafId) (reps : List NoteRep) : State :=
  reps.foldl (fun s r =>
    let x := s.leaf l
    if r.kind = 2 then
      s.leafEvent l 0x06F2 2 r.group (le8 r.cause ++ le16 r.key ++ le32 r.seq)
    else
      let pool := x.scene.pool r.pool
      let q : Rep := { subject := r.pool, width := 2, count := 1, extra := le16 r.group ++ le16 r.key, autonomy := pool.mode, every := 160000000 }
      s.reportOn (s.fnOf l) l
        (if r.kind = 0 then { q with code := 0x06F0, sev := 0, front := le8 pool.policy, width2 := 2, count2 := b2n r.cut, flags := 1 }
         else { q with code := 0x06F1, sev := 1 })) s

/-! Note commands (R242, R243, R255). -/

/-- The effect meridian of an event has come. -/
def NoteEv.due (e : NoteEv) (count : Nat) : Bool := decide (e.count ≤ count)

/-- Complete the note commands that have no record left (R255). -/
def finishNotes (x : Scene) : Scene × List Done :=
  let left : NoteCmd → Bool := fun k => x.vox.pending.any fun e => e.acc == k.cmd.acc
  ({ x with vox := { x.vox with cmds := x.vox.cmds.filter left } },
   (x.vox.cmds.filter fun k => !left k).map fun k =>
     { cmd := k.cmd, released := k.released, status := if k.late = 0 then sOk else sLate,
       detail := min 65535 k.late + 65536 * min 65535 k.discarded, at_ := k.at_ })

/-- Apply every note event of the coming sample, in acceptance order (R243). -/
def applyNotes (x : Leaf) : Leaf × List NoteRep × List Done :=
  let d := x.clk.dom
  let c : Ctx := { n := x.next }
  let due := x.scene.vox.pending.filter fun e => e.due d.nextCount
  let r := due.foldl (fun (a : Scene × List NoteRep) e =>
    let q := applyNote a.1 { c with prep := e.prepared } x.fs e
    (q.1, a.2 ++ q.2)) (x.scene, [])
  let accs := due.map NoteEv.acc
  let y := r.1
  let y := { y with vox := { y.vox with
      pending := y.vox.pending.filter fun e => !e.due d.nextCount,
      cmds := mapIf (fun k => accs.contains k.cmd.acc) (fun k => { k with at_ := x.nextTns }) y.vox.cmds } }
  let f := finishNotes y
  ({ x with scene := f.1 }, r.2, f.2)

/-- Apply the note events due on a leaf, with their reports and completions. -/
def State.noteStep (s : State) (l : LeafId) : State :=
  let r := applyNotes (s.leaf l)
  let s := s.leafStep l fun _ => { x := r.1, done := r.2.2 }
  if s.red.mode = 1 ∧ s.red.active ≠ l then s else s.noteReports l r.2.1

/-- `NOTE_EVENT_APPLY` (R243): the events of the coming sample. -/
def execNoteEventApply (l : LeafId) (s : State) : Res := .next (s.eachScene l fun s => s.noteStep l)

/-- `VOICE_END` (R229): a voice whose note has ended at the latest sample is freed
(DESIGN CHOICE, log entry 36). -/
def execVoiceEnd (l : LeafId) (voice : Nat) (s : State) : Res :=
  .next (s.eachScene l fun s => s.modLeaf l fun x => x.modScene fun sc =>
    match tfind sc.vox.voices voice with
    | none => sc
    | some v => if v.ended x.clk.dom.sample then sc.setVoice voice none else sc)

/-- `STEAL_MIGRATE` (R249): the note of a shadow voice moves into the stolen voice. -/
def execStealMigrate (l : LeafId) (shadow : Nat) (s : State) : Res :=
  .next (s.eachScene l fun s => s.modLeaf l fun x => x.modScene fun sc =>
    match tfind sc.vox.shadows shadow with
    | none => sc
    | some q =>
      match q.into with
      | none => sc
      | some i => if x.next < q.at_ then sc else (sc.setVoice i (some q.v)).setShadow shadow none)

/-- The lead voice of a group at sample n (R237). -/
def Scene.leadVoice (x : Scene) (g n : Nat) : Option Voice :=
  let l := (x.vox.voices.map Prod.snd ++ x.vox.shadows.map fun q => q.2.v).filter fun v =>
    v.group == g && v.fade.isNone && decide (v.start ≤ n)
  match l with
  | [] => none
  | v :: r => some (r.foldl (fun m w => if m.start < w.start ∨ (m.start = w.start ∧ m.seq < w.seq) then w else m) v)

/-- The object of each object group takes the offset that the lead voice computed at its previous
control block (R237). -/
def Scene.leadOffsets (x : Scene) (n : Nat) : Scene :=
  x.vox.groups.foldl (fun y g =>
    if !g.2.bound || g.2.kind != 0 then y else
      let off : V3 := match y.leadVoice g.1 n with
        | none => {}
        | some v => ⟨v.m (n - 1) 19, v.m (n - 1) 20, v.m (n - 1) 21⟩
      y.modObj g.2.target fun o => { o with run := { o.run with off := off } }) x

/-- What the matrix of a group's voices reads at sample n: the trajectory position of its object at the latest
gain-solver block, without the voices' own offsets (R232), and the group's event values (R88). -/
def Scene.matEnv (x : Scene) (g n : Nat) : MatEnv :=
  let q := x.vgroup g
  let p : V3 := if q.bound ∧ q.kind = 0 then (x.obj q.target).run.seat else {}
  let h : NoteVals := match q.was with
    | some h => if h.at_ < n then { press := q.press, bend := q.bend } else h
    | none => { press := q.press, bend := q.bend }
  { press := h.press, bend := h.bend, dist := vlen p,
    az := if norm2 p = 0 then 0 else atan2Deg (-p.x) p.y }

/-- `VOICE_MATRIX_EVAL` (R231): at a multiple of 16 every voice evaluates its matrix. -/
def execVoiceMatrixEval (l : LeafId) (s : State) : Res :=
  .next (s.eachScene l fun s => s.modLeaf l fun x =>
    let n := x.next
    if n % 16 ≠ 0 then x else x.modScene fun sc =>
      let sc := sc.leadOffsets n
      let ev : Voice → Voice := fun v => if n < v.start then v else v.reading n fun v => v.evalMatrix (sc.matEnv v.group n) x.fs n
      { sc with vox := { sc.vox with voices := sc.vox.voices.map fun q => (q.1, ev q.2),
                                     shadows := sc.vox.shadows.map fun q => (q.1, { q.2 with v := ev q.2.v }) } })

/-! The engine's sample. -/

/-- Nominal azimuths of a bed's channels at elevation 0 with their objects, LFE channels excluded (R236). -/
def bedRing (base system : Nat) : Layout :=
  let cs := (bedChannels system).zipIdx.filter fun c => !c.1.2.2 && c.1.2.1 == 0
  { speakers := cs.map fun c => (base + c.2, { kind := 1, pos := polar c.1.1 0 1 }) }

/-- Gains of a voice across the channels of its group: object index and gain (R236). -/
def Scene.voicePan (x : Scene) (g : VGroup) (v : Voice) (n : Nat) : List (Nat × Rat) :=
  if g.kind = 0 then [(g.target, 1)]
  else match x.objs.beds.find? fun b => b.base == g.target with
    | none => []
    | some b =>
      let l := bedRing b.base b.system
      match l.full with
      | [q] => [(q.1, 1)]
      | vs => pan l { dim := 1, faces := ringPairs vs } (polar ((s16 v.patch 12 : Rat) / 100 + v.m n 19) 0 1)

/-- One sample of the engine: every voice, then the groups' sums (R223, R234). `quiet` lists the voices,
shadow voices from 1 024 on, and oscillators whose wave read failed (R465). -/
def Scene.voxSample (x : Scene) (fs n : Nat) (quiet : List (Nat × Nat)) : Scene :=
  let step : Nat → Voice → Voice := fun i v => v.step x (x.matEnv v.group n) fs n ((quiet.filter fun q => q.1 == i).map Prod.snd)
  let vs := x.vox.voices.map fun q => (q.1, step q.1 q.2)
  let sh := x.vox.shadows.map fun q => (q.1, { q.2 with v := step (1024 + q.1) q.2.v })
  let all := (vs.map Prod.snd ++ sh.map fun q => q.2.v).filter fun v => decide (v.start ≤ n)
  let groups := x.vox.groups.map fun g =>
    let mine := all.filter fun v => v.group == g.1
    let parts := mine.flatMap fun v => (x.voicePan g.2 v n).map fun p => (p.1, v.out, p.2 * g.2.ramp.at_ n)
    let objs := (parts.map fun p => p.1).eraseDups
    let sum : Nat → Int := fun i =>
      coarseOut (accum 3 0 ((parts.filter fun p => p.1 == i).map fun p => (p.2.1, c24 3 p.2.2))).1
    (g.1, { g.2 with out := objs.map fun i => (i, sum i) })
  { x with vox := { x.vox with voices := vs, shadows := sh, groups := groups } }

/-! Group 0x06. -/

/-- Group 0x06 exists where the variant has a voice engine (R6). -/
def voxPresent (v : Variant) (_ : Cmd) : Bool := v.hasVoice

/-- `VOX_CONFIG` (R256). -/
def specVoxConfig : Spec where
  op := 0x0601
  present := voxPresent
  len := fixedLen 8
  timed := true
  fields := fun _ c => [(0, f32In c.body 0 400 480), resv c 4 4]
  run := onLeaves fun _ c _ x =>
    { x := x.modScene fun sc => { sc with vox := { sc.vox with tuning := f32D c.body 0 } } }

/-- A change of pool sizes rearranges the voices (R251). -/
def Scene.resizePool (x : Scene) (c : Ctx) (fs p size : Nat) : Scene :=
  let old := x
  let y := x.modPool p fun q => { q with size := size }
  let pools := (List.range 16).filter fun q => decide (0 < (old.pool q).size)
  let poolAt : Nat → Nat := fun i =>
    (pools.find? fun q => decide (old.poolBase q ≤ i) && decide (i < old.poolBase q + (old.pool q).size)).getD 0
  let newAt : Nat → Option Nat := fun i =>
    let q := poolAt i
    let off := i - old.poolBase q
    if off < (y.pool q).size then some (y.poolBase q + off) else none
  let kept := x.vox.voices.filterMap fun v => (newAt v.1).map fun i => (i, v.2)
  let lost := x.vox.voices.filter fun v => (newAt v.1).isNone
  let sh := x.vox.shadows.map fun q => match q.2.into with
    | none => q
    | some i => match newAt i with
      | some j => (q.1, { q.2 with into := some j })
      | none => (q.1, { q.2 with into := none, waits := true })
  let y := { y with vox := { y.vox with
      voices := kept.foldl (fun t v => tins t v.1 v.2) [], shadows := sh } }
  lost.foldl (fun y v =>
    if v.2.fade.isSome then y else
      match y.freeShadow with
      | some s => y.setShadow s (some { v := v.2.fadeOut c.first ((old.pool p).fadeLen fs) })
      | none => y.modPool p fun q => { q with cuts := (q.cuts + 1) % 4294967296 }) y

/-- `VOX_POOL` (R251, R256). -/
def specVoxPool : Spec where
  op := 0x0602
  present := voxPresent
  len := fixedLen 8
  timed := true
  fields := fun _ c =>
    let b := c.body
    [(0, decide (u8 b 0 < 16)), (1, decide (u8 b 1 < 4)), (2, decide (u8 b 2 < 3)), resv c 3 1,
     (4, decide (u16 b 4 ≤ 1024)), rng 6 (u16 b 6) 5 100]
  run := onLeaves fun g c _ x =>
    let b := c.body
    let p := u8 b 0
    let sc := x.scene
    if 1024 < sc.poolBase 16 - (sc.pool p).size + u16 b 4 then .no x sNoCapacity
    else
      let y := if u16 b 4 = (sc.pool p).size then sc else sc.resizePool g x.fs p (u16 b 4)
      { x := { x with scene := y.modPool p fun q => { q with policy := u8 b 1, mode := u8 b 2, fade := u16 b 6 } } }

/-- Objects that a binding takes. -/
def Scene.bindObjs (x : Scene) (kind target : Nat) : List Nat :=
  if kind = 0 then [target]
  else match x.objs.beds.find? fun b => b.base == target with
    | none => []
    | some b => span b.base (bedCount b.system)

/-- Unbind a group: its voices fade, its objects return to no source (R235). -/
def Scene.unbind (x : Scene) (c : Ctx) (fs g : Nat) : Scene × List Done :=
  let q := x.vgroup g
  if !q.bound then (x, []) else
    let y := x.endNotes c fs fun k => k == g
    let pts := (y.objs.objs.filter fun p => p.2.sel.src == srcRef 2 g ||
      ((p.2.sel.waiting.map fun w => w.src == srcRef 2 g).getD false)).map fun p => (p.1, 0)
    let r := y.select c 0 pts 64 0
    ((r.1.modGroup g fun q => { q with bound := false }).modObjs (pts.map Prod.fst) fun _ o => { o with run := { o.run with off := {} } },
     r.2.2)

/-- Effect of `VOX_GROUP` (R234, R235). -/
def runVoxGroup (c : Ctx) (m : Cmd) (_ : List Byte) (x : Leaf) : LEff :=
  let b := m.body
  let g := u16 b 0
  let sc := x.scene
  let q := sc.vgroup g
  if u8 b 2 = 0 then
    let r := sc.unbind c x.fs g
    { x := { x with scene := r.1 }, done := r.2 }
  else
    let kind := u8 b 3
    let target := u16 b 4
    let same := q.bound && q.kind == kind && q.target == target
    let objs := sc.bindObjs kind target
    let other : Nat → Bool := fun i =>
      let o := sc.obj i
      let k := ((o.sel.waiting.map SelChange.src).getD o.sel.src)
      srcKind k == 2 && k != srcRef 2 g
    let bad := objs.isEmpty || objs.any other ||
      (kind == 0 && ((sc.obj target).run.bed.isSome || (sc.obj target).run.adm.isSome))
    if !same && bad then .no x sBadState
    else
      let r := if same then (sc, []) else sc.unbind c x.fs g
      let set' : VGroup → VGroup := fun q =>
        let q := { q with bound := true, kind := kind, target := target, pool := u8 b 6, limit := u16 b 8,
                          patch := u16 b 10, gain := s16 b 12 }
        if same then { q with ramp := q.ramp.go c.n c.first 64 (amp (s16 b 12)) }
        else { q with ramp := Ramp.rest (amp (s16 b 12)), press := 0, bend := 2147483648, sustain := false }
      let y := r.1.modGroup g set'
      let z := if same then (y, 0, []) else y.select c 0 (objs.map fun i => (i, srcRef 2 g)) 64 0
      { x := { x with scene := z.1 }, done := r.2 ++ z.2.2 }

/-- `VOX_GROUP` (R256). -/
def specVoxGroup : Spec where
  op := 0x0603
  present := voxPresent
  len := fixedLen 16
  timed := true
  fields := fun s c =>
    let b := c.body
    let on := u8 b 2 == 1
    [(0, decide (u16 b 0 < 512)), rng 2 (u8 b 2) 0 1, (3, !on || decide (u8 b 3 < 2)),
     (4, !on || decide (u16 b 4 < s.objCap c.fn)), (6, !on || decide (u8 b 6 < 16)), resv c 7 1,
     (8, !on || decide (u16 b 8 ≤ 1024)), (10, !on || decide (u16 b 10 < 4096)), (12, !on || busGainOk b 12), resv c 14 2]
  run := onLeaves runVoxGroup

/-- Unbind the groups of a bed that is removed, or every group at `SCN_CLEAR` (R235). -/
def Scene.unbindAll (x : Scene) (c : Ctx) (fs : Nat) (p : VGroup → Bool) : Scene × List Done :=
  x.vox.groups.foldl (fun a g => if p g.2 then
      (let r := a.1.unbind c fs g.1; (r.1, a.2 ++ r.2)) else a) (x, [])

/-- A scene command that also ends the voices of the groups that a test picks. -/
def endingGroups (p : Cmd → VGroup → Bool) (run : Ctx → Cmd → List Byte → Leaf → LEff) (c : Ctx) (m : Cmd)
    (d : List Byte) (x : Leaf) : LEff :=
  let e := run c m d x
  if noEffect e.status then e else
    let r := e.x.scene.unbindAll c x.fs fun g => g.bound && p m g
    { e with x := { e.x with scene := r.1 }, done := e.done ++ r.2 }

/-- `SCN_CLEAR` with its effect on voice groups (R143, R235). -/
def specScnClearAll : Spec :=
  { specScnClear with run := onLeaves (endingGroups (fun _ _ => true) runScnClear) }

/-- `OBJ_BED` with its effect on a group bound to a bed that it removes (R144, R235). -/
def specObjBedAll : Spec :=
  { specObjBed with run := onLeaves (endingGroups
      (fun m g => u8 m.body 2 == 0 && g.kind == 1 && g.target == u16 m.body 0) runObjBed) }

/-- The reserved bytes of a patch record (R10, R241). -/
def patchReserved (p : List Byte) (i : Nat) : List (Nat × Bool) :=
  let z : Nat → Nat → Nat × Bool := fun o n => (o, allZero p (i + o) n)
  [z 7 1, z 14 18, z 130 2, z 146 2, z 392 120] ++
    (List.range 4).map fun k => (oscOff k + 15, decide (u8 p (i + oscOff k + 15) < 4))

/-- The checks of an oscillator block: of what its type uses (R52, R241). -/
def oscChecks (p : List Byte) (i k : Nat) : List (Nat × Bool) :=
  let o := oscOff k
  let ty := u8 p (i + o)
  let need : List Nat → Bool → Bool := fun tys ok => !tys.contains ty || ok
  let pitched := [1, 2, 3, 4, 5, 7]
  let keyed := u8 p (i + o + 14)
  [(o, decide (ty < 8)), (o + 1, need [7] (decide (u8 p (i + o + 1) < 4) && u8 p (i + o + 1) != k)),
   (o + 2, need [1, 2] (decide (u16 p (i + o + 2) < 4096))),
   (o + 4, need pitched (keyed == 0 || within (-4800) 4800 (s16 p (i + o + 4)))),
   (o + 6, need (6 :: pitched) (s16 p (i + o + 6) == -32768 || within (-12000) 0 (s16 p (i + o + 6)))),
   (o + 8, need [4] (within 100 9900 (u16 p (i + o + 8)))), (o + 12, need [7] (decide (u16 p (i + o + 12) ≤ 8000))),
   (o + 14, need pitched (decide (keyed < 2))),
   (o + 16, need pitched (keyed == 1 || f32In p (i + o + 16) (1 / 10) 20000))]

/-- The checks of a filter block: of what the route uses (R52, R228, R241). -/
def filterChecks (p : List Byte) (i o : Nat) : List (Nat × Bool) :=
  let b := fun k => u8 p (i + o + k)
  let used := !((if o = 128 then [4, 5] else [3, 5]).contains (u8 p (i + 1)))
  [(o, if o = 128 then !used || decide (b 0 < 4) else b 0 == 0), (o + 1, !used || decide (b 1 ≤ 100)),
   (o + 4, !used || f32In p (i + o + 4) 20 20000),
   (o + 8, !used || (if o = 128 then f32In p (i + o + 8) (1 / 2) 40 else f32In p (i + o + 8) 0 4)),
   (o + 12, !used || o == 128 || f32In p (i + o + 12) 1 16)]

/-- The checks of a patch record: offset within it and whether it holds (R241). An empty patch uses no field
(R52). -/
def patchChecks (p : List Byte) (i : Nat) : List (Nat × Bool) :=
  let b := fun o => u8 p (i + o)
  let cdbIn : Nat → Int → Int → Nat × Bool := fun o lo hi => (o, within lo hi (s16 p (i + o)))
  patchReserved p i ++ if b 0 = 0 then [] else
    [(0, b 0 == 1), (1, decide (b 1 < 6)), cdbIn 2 (-12000) 1200, (5, decide (b 5 ≤ 48)), (6, decide (b 6 ≤ 96)),
     cdbIn 12 (-18000) 18000] ++
    (List.range 4).flatMap (oscChecks p i) ++ [128, 144].flatMap (filterChecks p i) ++
    ((List.range 3).flatMap fun k =>
      let o := envOff k
      ((List.range 5).map fun j => (o + 4 * j, decide (u32 p (i + o + 4 * j) ≤ 30000000))) ++
        [(o + 22, within (-100) 100 (s8 p (i + o + 22))), (o + 23, within (-100) 100 (s8 p (i + o + 23)))]) ++
    ((List.range 2).flatMap fun k =>
      let o := lfoOff k
      [(o, decide (b o < 6)), (o + 1, decide (b (o + 1) < 2)), (o + 4, f32In p (i + o + 4) (1 / 100) 50),
       (o + 8, decide (u32 p (i + o + 8) ≤ 10000000)), (o + 12, decide (u32 p (i + o + 12) ≤ 10000000))]) ++
    (List.range 16).flatMap fun k =>
      let o := matOff k
      [(o, decide (b o ≤ 17)), (o + 1, decide (b (o + 1) ≤ 17)), (o + 2, decide (b (o + 2) ≤ 23)), (o + 3, decide (b (o + 3) < 4)),
       (o + 4, f32In p (i + o + 4) (-1000) 1000)]

/-- `VOX_PATCH_LOAD` (R238, R256): the patches act on notes from the coming meridian. -/
def specVoxPatchLoad : Spec where
  op := 0x0604
  present := voxPresent
  len := fixedLen 32
  fields := fun _ c =>
    let b := c.body
    [(2, within 1 4096 (u16 b 2) && decide (u16 b 0 + u16 b 2 ≤ 4096)), resv c 4 12, (24, u32 b 24 == 512 * u16 b 2)]
  refs := fun _ => [16]
  run := onLeaves fun _ c d x =>
    let b := c.body
    let n := u16 b 2
    let bad := (List.range n).findSome? fun k =>
      (lowestBad (patchChecks d (512 * k))).map fun o => 512 * k + o
    match bad with
    | some o => .no x sBadField (2147483648 + o)
    | none =>
      let put : List (Nat × List Byte) → Nat → List (Nat × List Byte) := fun t k =>
        if u8 d (512 * k) = 0 then tdel t (u16 b 0 + k) else tins t (u16 b 0 + k) (slice d (512 * k) 512)
      { x := x.modScene fun sc => { sc with vox := { sc.vox with patches := (List.range n).foldl put sc.vox.patches } } }

/-- A voice or shadow voice reads a wave slot (R239). -/
def Scene.waveRead (x : Scene) (slot : Nat) : Bool :=
  let uses : Voice → Bool := fun v => (List.range 4).any fun i =>
    (u8 v.patch (oscOff i) == 1 || u8 v.patch (oscOff i) == 2) && u16 v.patch (oscOff i + 2) == slot
  (x.vox.voices.any fun q => uses q.2) || x.vox.shadows.any fun q => uses q.2.v

/-- A scene with one wave slot set. -/
def Scene.setWave (x : Scene) (i : Nat) (w : Wave) : Scene :=
  { x with vox := { x.vox with waves := tset x.vox.waves i w wave0 } }

/-- Change a wave slot on every leaf that serves the function. -/
def onWave (c : Cmd) (f : Wave → Wave) (s : State) : State :=
  (s.servers c.fn).foldl (fun s lg => s.modLeaf lg.1 fun x =>
    let x := if lg.2 then x.swapGuest else x
    let y := x.modScene fun sc => sc.setWave (u16 c.body 0) (f (sc.wave (u16 c.body 0)))
    if lg.2 then y.swapGuest else y) s

/-- The wave slot that a load declares. -/
def waveOf (b : List Byte) : Wave :=
  { kind := u8 b 2, format := u8 b 3, frames := u32 b 4, rate := f32D b 8, root := f32D b 12,
    loopS := u32 b 16, loopE := u32 b 20 }

/-- Data size of a wave load. -/
def waveDataSize (b : List Byte) : Nat :=
  up4 (if u8 b 2 = 1 then u32 b 4 * 8192 else u32 b 4 * sampleBytes (u8 b 3))

/-- `VOX_WAVE_LOAD` (R239, R256). -/
def specVoxWaveLoad : Spec where
  op := 0x0605
  present := voxPresent
  len := fixedLen 48
  fields := fun _ c =>
    let b := c.body
    let k := u8 b 2
    let smp := k == 2
    [(0, decide (u16 b 0 < 4096)), (2, decide (k < 3)), (3, k == 0 || (if smp then decide (u8 b 3 < 3) else u8 b 3 == 2)),
     (4, k == 0 || (if smp then within 2 16777216 (u32 b 4) else within 1 256 (u32 b 4))),
     (8, !smp || f32In b 8 8000 192000), (12, !smp || f32In b 12 0 (12799 / 100)),
     (16, !smp || decide (u32 b 16 < u32 b 20)), (20, !smp || decide (u32 b 20 ≤ u32 b 4)), resv c 24 8,
     (32, k != 0 || allZero b 32 16), (40, k == 0 || u32 b 40 == waveDataSize b)]
  refs := fun c => if u8 c.body 2 = 0 then [] else [32]
  pre := fun s c =>
    match s.fnLeaf c.fn with
    | none => (sNotActive, 0)
    | some x =>
      let b := c.body
      let w := x.scene.wave (u16 b 0)
      if x.scene.waveRead (u16 b 0) then (sBadState, 0)
      else if u8 b 2 = 0 then (sOk, 0)
      else if min (4294967296 - x.waveBytes) x.mediaFree + w.size < (waveOf b).size then (sNoCapacity, 0)
      else (sOk, 0)
  stage := fun c s => if u8 c.body 2 = 0 then s else
    onWave c (fun w => { w with loading := (waveOf c.body).size }) s
  undo := fun c s => onWave c (fun w => { w with loading := 0 }) s
  run := fun c prep d s =>
    let e := onLeaves (fun _ c d x =>
      if x.scene.waveRead (u16 c.body 0) then .no x sBadState
      else { x := x.modScene fun sc => sc.setWave (u16 c.body 0)
               (if u8 c.body 2 = 0 then wave0 else { waveOf c.body with data := d }) }) c prep d s
    if noEffect e.status then { e with s := onWave c (fun w => { w with loading := 0 }) s } else e

/-- A note event of a record of `NOTE_EVENTS` (R256): time and event. -/
def noteRecord (b : List Byte) (i : Nat) : Nat × NoteEv :=
  (u64 b i, { group := u16 b (i + 8), type := u8 b (i + 10), index := u8 b (i + 11), noteId := u16 b (i + 12),
              key := u16 b (i + 14), value := u32 b (i + 16) })

/-- A MIDI 2.0 packet as an event (R245, R246); none for one that is discarded. -/
def umpEvent (x : Scene) (w0 w1 : Nat) : Option (Option NoteEv) :=
  if bits w0 31 28 ≠ 4 then none
  else match tfind x.vox.chmap (bits w0 27 24 * 16 + bits w0 19 16) with
    | none => none
    | some g =>
      let note := bits w0 14 8
      let ev : NoteEv := { group := g, key := note * 512, value := w1 }
      some (match bits w0 23 20 with
        | 9 => some { ev with type := 1, value := bits w1 31 16,
                              key := if bits w0 7 0 = 3 then bits w1 15 0 else note * 512 }
        | 8 => some { ev with type := 2 }
        | 10 => some { ev with type := 3 }
        | 1 => some { ev with type := 12, index := bits w0 7 0 }
        | 6 => some { ev with type := 5 }
        | 13 => some { ev with type := 6 }
        | 14 => some { ev with type := 7 }
        | 11 => if note = 64 then some { ev with type := 8 } else if note = 120 then some { ev with type := 10 }
                else if note = 123 then some { ev with type := 9 } else none
        | 12 => some { ev with type := 11, value := bits w1 30 24 + (if bit w0 0 then 128 * (bits w1 7 0 % 32) else 0) }
        | _ => none)

/-- Take note records into the queue: late ones at the coming meridian or discarded, the others at
their samples (R242, R255). -/
def runNotes (recs : Scene → List Byte → List (Nat × Option (Option NoteEv))) (_ : Ctx) (m : Cmd)
    (_ : List Byte) (x : Leaf) : LEff :=
  let sc := x.scene
  let rs := recs sc m.body
  let next := x.clk.dom.nextCount
  let k : NoteCmd := { cmd := m }
  let step : List NoteEv × NoteCmd × Nat → Nat × Option (Option NoteEv) → List NoteEv × NoteCmd × Nat := fun a r =>
    match r.2 with
    | none => (a.1, { a.2.1 with discarded := a.2.1.discarded + 1 }, a.2.2 + 1)
    | some none => a
    | some (some ev) =>
      let c := countOf x.fs r.1
      if r.1 = 0 then (a.1 ++ [{ ev with count := 0, acc := m.acc }], a.2.1, a.2.2)
      else if c < next then
        let k := { a.2.1 with late := a.2.1.late + 1 }
        if bit m.flags 0 then (a.1, { k with discarded := k.discarded + 1 }, a.2.2)
        else (a.1 ++ [{ ev with count := 0, acc := m.acc }], k, a.2.2)
      else (a.1 ++ [{ ev with count := c, t := r.1, prepared := decide (next < c), acc := m.acc }], a.2.1, a.2.2)
  let r := rs.foldl step ([], k, 0)
  if 4096 < sc.vox.pending.length + r.1.length then .no x sNoCapacity else
  let soon := r.1.all fun e => decide (e.count ≤ next)
  let k := { r.2.1 with released := !soon }
  let vox := { sc.vox with pending := sc.vox.pending ++ r.1, late := (sc.vox.late + k.late) % 4294967296,
                           discarded := (sc.vox.discarded + r.2.2) % 4294967296 }
  let fin := r.1.isEmpty
  { x := { x with scene := { sc with vox := { vox with cmds := if fin then vox.cmds else vox.cmds ++ [k] } } },
    mode := if fin then 0 else if soon then 2 else 1,
    applied := if fin then some 0 else none,
    status := if fin && k.late != 0 then sLate else sOk,
    detail := min 65535 k.late + 65536 * min 65535 k.discarded }

/-- A record's time lies in the window of R242. -/
def noteTimeOk (now t : Nat) : Bool := t == 0 || (decide (now ≤ t + 1000000000) && decide (t ≤ now + 10000000000))

/-- `NOTE_EVENTS` (R242 to R244, R255, R256). -/
def specNoteEvents : Spec where
  op := 0x0606
  present := voxPresent
  len := fun c =>
    let n := u16 c.body 0
    (0, if within 1 19 n then c.bodyLen == 8 + 24 * n else decide (32 ≤ c.bodyLen) && decide (c.bodyLen ≤ 464))
  fields := fun s c =>
    let b := c.body
    let now := s.fnNow c.fn
    [rng 0 (u16 b 0) 1 19, resv c 2 6] ++ ((List.range (min 19 (u16 b 0))).flatMap fun k =>
      let i := 8 + 24 * k
      let ty := u8 b (i + 10)
      [(i, noteTimeOk now (u64 b i)), (i + 8, decide (u16 b (i + 8) < 512) || (u16 b (i + 8) == 65535 && (ty == 9 || ty == 10))),
       (i + 10, within 1 11 ty), (i + 11, if ty = 4 then decide (u8 b (i + 11) < 4) else u8 b (i + 11) == 0),
       (i + 16, ty != 11 || decide (u32 b (i + 16) < 4096)), resv c (i + 20) 4])
  run := onLeaves (runNotes fun _ b =>
    (List.range (u16 b 0)).map fun k => let r := noteRecord b (8 + 24 * k); (r.1, some (some r.2)))

/-- `NOTE_UMP` (R245, R246, R255). -/
def specNoteUmp : Spec where
  op := 0x0607
  present := voxPresent
  len := fun c =>
    let n := u16 c.body 0
    (0, if within 1 29 n then c.bodyLen == 8 + 16 * n else decide (24 ≤ c.bodyLen) && decide (c.bodyLen ≤ 472))
  fields := fun s c =>
    let b := c.body
    let now := s.fnNow c.fn
    [rng 0 (u16 b 0) 1 29, resv c 2 6] ++
      (List.range (min 29 (u16 b 0))).map fun k => (8 + 16 * k, noteTimeOk now (u64 b (8 + 16 * k)))
  run := onLeaves (runNotes fun sc b =>
    (List.range (u16 b 0)).map fun k =>
      let i := 8 + 16 * k
      (u64 b i, umpEvent sc (u32 b (i + 8)) (u32 b (i + 12))))

/-- `VOX_CHANNEL_MAP` (R256). -/
def specVoxChannelMap : Spec where
  op := 0x0608
  present := voxPresent
  len := fixedLen 8
  timed := true
  fields := fun _ c =>
    let b := c.body
    [(0, decide (u8 b 0 < 16)), (1, decide (u8 b 1 < 16)), (2, decide (u16 b 2 < 512) || u16 b 2 == 65535), resv c 4 4]
  run := onLeaves fun _ c _ x =>
    let b := c.body
    let k := u8 b 0 * 16 + u8 b 1
    { x := x.modScene fun sc => { sc with vox := { sc.vox with
        chmap := if u16 b 2 = 65535 then tdel sc.vox.chmap k else tins sc.vox.chmap k (u16 b 2) } } }

/-- The response of `VOX_QUERY` (R256). -/
def voxQueryResp (x : Leaf) (p : Nat) : List Byte :=
  let sc := x.scene
  let pool := sc.pool p
  let base := sc.poolBase p
  let mine := (span base pool.size).filter sc.voiceTaken
  le16 ((List.range 1024).filter sc.voiceTaken).length ++ le16 (sc.vox.shadows.length + b2n sc.shadowHeld) ++ le16 pool.size ++ le16 mine.length ++
    le32 pool.steals ++ le32 pool.cuts ++ le32 pool.dropped ++ le32 sc.vox.late ++ le32 sc.vox.discarded ++
    le16 sc.vox.pending.length ++ zeros 2

/-- `VOX_QUERY` (R256). -/
def specVoxQuery : Spec where
  op := 0x0609
  present := voxPresent
  len := fixedLen 4
  fields := fun _ c => [(0, decide (u8 c.body 0 < 16)), resv c 1 3]
  run := onLeaves fun _ c _ x => { x := x, resp := voxQueryResp x (u8 c.body 0) }

end Sys2Proof.Machine
end

