-- ==== Sys2Proof/Machine/Design.lean ====
section
/-! DEFINITION. The signal processing of a calibration run and of tracking (R201 to R205, R214): the
stimulus, the deconvolution of a capture, the smoothed response, the correction filters and the phase
transform. The manual names the methods; the windows, the transform sizes, the polynomial of the sequence
and the working precision are open (DESIGN CHOICE, log entries 68 and 70). -/

namespace Sys2Proof.Machine

/-! Settings of a run, read from the body of its `MEAS_START` (R220). -/

/-- Body of the run's command. -/
def MeasRun.b (r : MeasRun) : List Byte := r.cmd.body
/-- `design`. -/
def MeasRun.design (r : MeasRun) : Nat := u8 r.b 3
/-- The stimulus is the sweep. -/
def MeasRun.sweep (r : MeasRun) : Bool := u8 r.b 0 == 0
/-- `length`: samples of the sweep, or the order of the sequence. -/
def MeasRun.len (r : MeasRun) : Nat := u32 r.b 8
/-- `repeats`. -/
def MeasRun.reps (r : MeasRun) : Nat := u16 r.b 12
/-- `ir_len`. -/
def MeasRun.ir (r : MeasRun) : Nat := u32 r.b 16
/-- `gap`. -/
def MeasRun.gap (r : MeasRun) : Nat := u32 r.b 20
/-- `f_lo` in Hz. -/
def MeasRun.lo (r : MeasRun) : Rat := u16 r.b 24
/-- `f_hi` in Hz. -/
def MeasRun.hi (r : MeasRun) : Rat := u16 r.b 26
/-- Takeover fade F. -/
def MeasRun.fadeLen (r : MeasRun) : Nat := u16 r.b 28
/-- FIR length N. -/
def MeasRun.fir (r : MeasRun) : Nat := u16 r.b 52
/-- Period of the sequence (R201). -/
def MeasRun.period (r : MeasRun) : Nat := 2 ^ r.len - 1
/-- Stimulus span S (R201). -/
def MeasRun.span (r : MeasRun) : Nat :=
  if r.sweep then r.reps * (r.len + r.ir) else (r.reps + 1) * r.period + r.ir
/-- Slot length W. -/
def MeasRun.slot (r : MeasRun) : Nat := r.gap + r.span
/-- First sample of slot i. -/
def MeasRun.slotAt (r : MeasRun) (i : Nat) : Nat := r.n0 + r.fadeLen + i * r.slot
/-- Channels of the run. -/
def MeasRun.mics (r : MeasRun) : List Nat := (List.range 128).filter fun i => maskBit r.b 32 i

/-! The stimulus (R201). -/

/-- The natural logarithm of f_hi/f_lo. -/
def MeasRun.rise (r : MeasRun) : Rat := lnNear (r.hi / r.lo)

/-- Sample q of the sweep at peak 1: its frequency rises exponentially from f_lo to f_hi, from phase 0
(R201)
(DESIGN CHOICE, log entry 68). -/
def MeasRun.sweepAt (r : MeasRun) (fs q : Nat) : Rat :=
  let cycles := r.lo * (r.len : Rat) / ((fs : Rat) * r.rise) * (expQ (r.rise * (q : Rat) / (r.len : Rat)) - 1)
  sinPi (2 * cycles)

/-- Sample q of the sequence at peak 1: a sign. Its polynomial is open (R201)
(DESIGN CHOICE, log entry 68). -/
def MeasRun.sequenceAt (r : MeasRun) (q : Nat) : Rat :=
  if Config.of "sequence" [(r.len : Rat), ((q % r.period : Nat) : Rat)] < 0 then -1 else 1

/-- The stimulus at place k of a slot, in A40: silence in the gap, then the sweep or the sequence at peak
`level` (R201). -/
def MeasRun.stimulus (r : MeasRun) (fs k : Nat) : Int :=
  if k < r.gap then 0 else
    let p := k - r.gap
    let v : Rat :=
      if r.sweep then
        let q := p % (r.len + r.ir)
        if q < r.len then r.sweepAt fs q else 0
      else if p < (r.reps + 1) * r.period then r.sequenceAt p
      else 0
    toA40 (v * amp (s16 r.b 14))

/-! Captures (R202). -/

/-- Group delay of a channel in output samples (R379). -/
def groupDelay (ratio d : Nat) : Rat := 31 + (5 * ((ratio : Rat) - 1) / 2 + (d : Rat)) / (ratio : Rat)

/-- Place of a time on the samples that begin at time t. -/
def placeOf (fs t e : Nat) : Rat := ((e : Rat) - (t : Rat)) * (fs : Rat) / 1000000000

/-- The capture of a channel at a sample, by the time stamps of its frames; 0 where no frame lies (R202). -/
def capAt (fs t : Nat) (frames : List (Nat × Int)) (j : Int) : Rat :=
  ((frames.find? fun p => (placeOf fs t p.1).floor == j).map fun p => a40Val p.2).getD 0

/-- How far the frames of a channel lie behind the samples on which they are placed. -/
def capLag (fs t : Nat) (frames : List (Nat × Int)) : Rat :=
  match frames with
  | [] => 0
  | p :: _ => placeOf fs t p.1 - ((placeOf fs t p.1).floor : Rat)

/-! Deconvolution (R203). -/

/-- The samples of one repetition's inverse filter, time-reversed: the sweep under its rise of 6 dB an
octave, or the sequence (R203). Its gain makes a full-scale stimulus give a unit pulse. -/
def MeasRun.kernel (r : MeasRun) (fs q : Nat) : Rat :=
  let peak := amp (s16 r.b 14)
  if r.sweep then
    r.sweepAt fs q * expQ (r.rise * ((q : Rat) - (r.len : Rat)) / (r.len : Rat)) *
      (4 * r.rise * r.hi / ((fs : Rat) * (r.len : Rat) * peak))
  else r.sequenceAt q / (((r.period : Rat) + 1) * peak)

/-- Samples of one repetition's inverse filter. -/
def MeasRun.taps (r : MeasRun) : Nat := if r.sweep then r.len else r.period

/-- What the transform's working precision adds to a value: open (DESIGN CHOICE, log entry 68). -/
def working (key : List Rat) : Rat := clampQ (-1) 1 (Config.of "working" key) / (2 : Rat) ^ 20

/-- The impulse response of a capture: repetitions averaged, the sequence's first period left out
(R203, R204). -/
def MeasRun.impulse (r : MeasRun) (fs feed mic : Nat) (cap : Nat → Rat) : List Rat :=
  (List.range r.ir).map fun i =>
    let at_ : Nat → Nat → Nat := fun rep q =>
      if r.sweep then r.gap + rep * (r.len + r.ir) + i + q else r.gap + (rep + 1) * r.period + (q + i) % r.period
    sumQ ((List.range r.reps).map fun rep => sumQ ((List.range r.taps).map fun q => cap (at_ rep q) * r.kernel fs q)) /
      (r.reps : Rat) + working [(feed : Rat), (mic : Rat), (i : Rat)]

/-- The power that noise of a mean square gives in the impulse response. -/
def MeasRun.noiseGain (r : MeasRun) (fs : Nat) : Rat :=
  sumQ ((List.range r.taps).map fun q => r.kernel fs q * r.kernel fs q) / (r.reps : Rat)

/-- Mean of the squares of a list. -/
def meanSquare (l : List Rat) : Rat := if l.isEmpty then 0 else sumQ (l.map fun v => v * v) / (l.length : Rat)

/-- The largest magnitude of a list. -/
def peakOf (l : List Rat) : Rat := l.foldl (fun m v => maxQ m (absQ v)) 0

/-- The place of entry k of a list of magnitudes, refined by the parabola through it and its neighbours
(R204). -/
def refined (h : List Rat) (k : Nat) : Rat :=
  let a := if k = 0 then 0 else absQ (h.getD (k - 1) 0)
  let m := absQ (h.getD k 0)
  let z := absQ (h.getD (k + 1) 0)
  let den := 2 * (a - 2 * m + z)
  (k : Rat) + (if den = 0 then 0 else (a - z) / den)

/-- Decibels of a power ratio
(DESIGN CHOICE, log entry 8). -/
def db10 (q : Rat) : Rat := if q ≤ 0 then -1000 else 10 * log10 q

/-! The response (R204). -/

/-- The squared magnitude of a response at a frequency, smoothed to 1/s octave: the mean over the bins
within half that width (R204)
(DESIGN CHOICE, log entry 68). -/
def smoothed (h : List Rat) (fs s : Nat) (f : Rat) : Rat :=
  let n := h.length
  let bin := f * (n : Rat) / (fs : Rat)
  let half : Rat := 1 / (2 * (s : Rat))
  let lo := (bin * exp2 (-half)).ceil.toNat
  let hi := (bin * exp2 half).floor.toNat
  let bs := if lo ≤ hi then span lo (hi + 1 - lo) else [(bin + 1 / 2).floor.toNat]
  sumQ (bs.map fun b => cnorm (dft n h b)) / (bs.length : Rat)

/-- A feed's smoothed response at a frequency in dB: the power mean of its valid pairs' (R204). -/
def MeasRun.response (r : MeasRun) (fs feed : Nat) (f : Rat) : Rat :=
  let ps := r.pairs.filter fun p => p.feed == feed && p.status == 0
  if ps.isEmpty then -1000 else db10 (sumQ (ps.map fun p => smoothed p.h fs (u16 r.b 30) f) / (ps.length : Rat))

/-- A target curve at a frequency in dB: linear against the logarithm of the frequency, flat beyond its
ends (R220). -/
def curveAt : List (Rat × Int) → Rat → Rat
  | [], _ => 0
  | [p], _ => (p.2 : Rat) / 100
  | p :: q :: r, f =>
    if f ≤ p.1 then (p.2 : Rat) / 100
    else if f ≤ q.1 then ((p.2 : Rat) + ((q.2 : Rat) - (p.2 : Rat)) * (lnNear (f / p.1) / lnNear (q.1 / p.1))) / 100
    else curveAt (q :: r) f

/-! Correction design (R205). -/

/-- The size of the designer's transform: a power of two of at least four FIRs, open beyond that
(DESIGN CHOICE, log entry 68). -/
def gridSize (n : Nat) : Nat := 2 ^ (Nat.log2 (4 * n - 1) + 1 + (Config.of "designGrid" [(n : Rat)]).floor.toNat % 4)

/-- One resonance section: the bin of its centre, its cut in dB and its Q. -/
structure Reson where
  bin : Nat
  cut : Rat
  q : Rat

/-- What the designer computes of one feed: the correction in dB by bin up to half the transform, its
sections, and whether the cut allowed was too small. -/
structure Correction where
  m : Nat
  secs : List (List Int)
  db : List Rat
  limited : Bool

/-- The coefficients of a pass-through section (R181). -/
def passSec : List Int := [2 ^ 30, 0, 0, 0, 0]

/-- A peaking section as C32 coefficients, held strictly stable (R104, R181). Its form is the bilinear
one (DESIGN CHOICE, log entry 68). -/
def Reson.coefs (s : Reson) (m : Nat) : List Int :=
  let w := cis ((s.bin : Rat) / (m : Rat))
  let a := pow10 (-s.cut / 40)
  let al := w.2 / (2 * s.q)
  let a0 := 1 + al / a
  let k : Rat → Int := fun v => clampI (-(2 ^ 31)) (2 ^ 31 - 1) (coef 30 (v / a0))
  let a2 := clampI (1 - 2 ^ 30) (2 ^ 30 - 1) (k (1 - al / a))
  [k (1 + al * a), k (-2 * w.1), k (1 - al * a), clampI (-(2 ^ 30 + a2 - 1)) (2 ^ 30 + a2 - 1) (k (-2 * w.1)), a2]

/-- The response of a section at a bin in dB. -/
def secDb (c : List Int) (m b : Nat) : Rat :=
  let k : Nat → Rat := fun i => ((c.getD i 0 : Int) : Rat) / (2 : Rat) ^ 30
  let z := cis (-((b : Rat) / (m : Rat)))
  let z2 := cmul z z
  let poly : Rat → Rat → Rat → Cx := fun a b c => (a + b * z.1 + c * z2.1, b * z.2 + c * z2.2)
  db10 (cnorm (poly (k 0) (k 1) (k 2)) / cnorm (poly 1 (k 3) (k 4)))

/-- The resonance sections of a deviation (R205 step 2): its largest maxima below `f_bq`, each cut by its
height with the Q of its −3 dB width
(DESIGN CHOICE, log entry 68). -/
def resonances (d : List Rat) (lo hi count : Nat) : List Reson :=
  let at_ : Nat → Rat := fun b => d.getD b 0
  let tops := (span lo (hi - lo)).filter fun b =>
    decide (0 < at_ b) && decide (lo < b) && decide (at_ (b - 1) < at_ b) && decide (at_ (b + 1) ≤ at_ b)
  ((sortBy (fun a b => decide (at_ b ≤ at_ a)) tops).take count).map fun b =>
    let below := ((List.range b).reverse.find? fun k => decide (at_ k ≤ at_ b - 3)).getD 0
    let above := ((span b (d.length - b)).find? fun k => decide (at_ k ≤ at_ b - 3)).getD d.length
    { bin := b, cut := at_ b, q := (b : Rat) / ((above : Rat) - (below : Rat)) }

/-- The correction of a feed (R205 steps 1 to 4). `extra` is what level alignment takes off, in dB. -/
def MeasRun.correct (r : MeasRun) (fs feed : Nat) (extra : Rat) : Correction :=
  let m := gridSize r.fir
  let hz : Nat → Rat := fun b => (b : Rat) * (fs : Rat) / (m : Rat)
  let bin : Rat → Nat := fun f => (f * (m : Rat) / (fs : Rat)).floor.toNat
  let lo := bin r.lo + (if hz (bin r.lo) = r.lo then 0 else 1)
  let hi := bin r.hi
  let raw := (List.range (m / 2 + 1)).map fun b => if b = 0 then 0 else r.response fs feed (hz b) - curveAt r.curve (hz b)
  let band := Sys2Proof.Machine.span lo (hi + 1 - lo)
  let mean := if band.isEmpty then 0 else sumQ (band.map fun b => raw.getD b 0) / (band.length : Rat)
  let dev := raw.map fun v => v - mean
  let found := (resonances dev lo (min (hi + 1) ((u16 r.b 64 : Rat) * (m : Rat) / (fs : Rat)).ceil.toNat) (u8 r.b 54)).map fun s => s.coefs m
  let left := dev.zipIdx.map fun (p : Rat × Nat) => p.1 + sumQ (found.map fun c => secDb c m p.2)
  let cut : Rat := (u16 r.b 58 : Rat) / 100
  let inBand : Nat → Rat := fun b => clampQ (-cut) ((u16 r.b 56 : Rat) / 100) (-(left.getD b 0))
  let taper : Rat → Rat := fun ratio => maxQ 0 (1 - lnNear ratio / lnUnit 2)
  let c : Nat → Rat := fun b =>
    if b = 0 then 0 else if b < lo then inBand lo * taper (r.lo / hz b) else if hi < b then inBand hi * taper (hz b / r.hi) else inBand b
  let all := (List.range (m / 2 + 1)).map fun b => c b - extra
  { m := m, secs := found ++ List.replicate (16 - found.length) passSec, db := all.map fun v => maxQ (-cut) v,
    limited := decide (0 < extra) && band.any fun b => decide (all.getD b 0 < -cut) }

/-- The correction in dB at a bin of the whole transform. -/
def Correction.at_ (c : Correction) (b : Nat) : Rat := c.db.getD (if 2 * b ≤ c.m then b else c.m - b) 0

/-- The minimum-phase sequence of n places whose log magnitude by bin is given, by the real cepstrum. -/
def minPhase (m : Nat) (ln : Nat → Rat) (n : Nat) : List Rat :=
  let cep : Nat → Rat := fun i => idft m (fun b => (ln b, 0)) (i : Rat)
  let fold : Nat → Rat := fun i => if i = 0 ∨ 2 * i = m then cep i else if 2 * i < m then 2 * cep i else 0
  (List.range n).foldl (fun h i =>
    h ++ [if i = 0 then expQ (fold 0)
          else sumQ ((span 1 i).map fun (k : Nat) => (k : Rat) / (i : Rat) * fold k * h.getD (i - k) 0)]) []

/-- The natural logarithm of a magnitude from its square; a floor for 0
(DESIGN CHOICE, log entry 68). -/
def lnMag (p : Rat) : Rat := if p ≤ 0 then -100 else lnNear p / 2

/-- The designer's window of n taps: open (DESIGN CHOICE, log entry 68). -/
def designWindow (n phase i : Nat) : Rat := clampQ 0 1 (Config.of "designWindow" [(n : Rat), (phase : Rat), (i : Rat)])

/-- The inverse of the excess phase of a response about its arrival, delayed by `mix_delay` and cut to n
places (R205). -/
def inverseExcess (m n : Nat) (h : List Rat) (arrival delay : Rat) : List Rat :=
  let z : Nat → Cx := dft m h
  let low := minPhase m (fun b => lnMag (cnorm (z b))) m
  let ex : Nat → Cx := fun b => phaseOf (cmul (cmul (z b) (conj (dft m low b))) (cis ((b : Rat) * arrival / (m : Rat))))
  (List.range n).map fun (i : Nat) => idft m (fun b => conj (ex b)) ((i : Rat) - delay)

/-- The first n places of the convolution of two lists. -/
def convolve (n : Nat) (a b : List Rat) : List Rat :=
  (List.range n).map fun i => sumQ ((List.range (i + 1)).map fun k => a.getD k 0 * b.getD (i - k) 0)

/-- The FIR taps of a correction in the phase mode chosen (R205 step 5). `h` is the response on `ref_mic`
and `arrival` its arrival in it. -/
def MeasRun.firTaps (r : MeasRun) (c : Correction) (h : List Rat) (arrival : Rat) : List Rat :=
  let n := r.fir
  let phase := u8 r.b 51
  let min' := minPhase c.m (fun b => c.at_ b * lnNear 10 / 20) n
  let base := match phase with
    | 0 => min'
    | 1 => (List.range n).map fun (i : Nat) => idft c.m (fun b => (dbAmp (c.at_ b), 0)) ((i : Rat) - ((n : Rat) - 1) / 2)
    | _ => convolve n min' (inverseExcess c.m n h arrival ((u32 r.b 60 : Rat) / 1024))
  base.zipIdx.map fun (p : Rat × Nat) => p.1 * designWindow n phase p.2

/-- Declared group delay of the design (R205). -/
def MeasRun.delay (r : MeasRun) : Nat :=
  match u8 r.b 51 with
  | 0 => 0
  | 1 => 512 * (r.fir - 1)
  | _ => u32 r.b 60

/-- A list of taps fits C24 at a shift. -/
def tapsFit (s : Nat) (t : List Rat) : Bool := t.all fun v => within (-8388608) 8388607 (coef (22 - s) v)

/-- The smallest shift that holds every tap of every feed (R205 step 6); the largest where none does. -/
def bankShift (ts : List (List Rat)) : Nat := ((List.range 8).find? fun s => ts.all (tapsFit s)).getD 7

/-- The bank image of designed feeds in the layout of R197, one set per feed: each feed with its sections
and taps. -/
def designImage (shift : Nat) (fs : List (Nat × List (List Int) × List Rat)) : List Byte :=
  (fs.flatMap fun f => le16 f.1) ++ (if fs.length % 2 = 1 then le16 65535 else []) ++
    fs.flatMap fun f => (f.2.1.flatMap fun s => s.flatMap sle32) ++ f.2.2.flatMap fun t => sle32 (c24 shift t)

/-! The phase transform of tracking (R214). -/

/-- The generalised cross-correlation with phase transform of a window with a longer capture: its value
at every place of the window in the capture. -/
def gccPhat (window capture : List Rat) : List Rat :=
  let m := 2 ^ (Nat.log2 (capture.length - 1) + 1)
  let z : Nat → Cx := fun b => phaseOf (cmul (dft m capture b) (conj (dft m window b)))
  (List.range (capture.length + 1 - window.length)).map fun (k : Nat) => idft m z (k : Rat)

/-- The frames of a channel's ring with the end of each, newest first (R383). -/
def MicChan.stamped (c : MicChan) (fs : Nat) : List (Nat × Int) :=
  (c.cur :: c.ring).flatMap fun b =>
    (b.frames.zipIdx.map fun (p : Int × Nat) => (b.endAt + countTns fs p.2, a32to40 p.1)).reverse

/-- What the correlation of a feed's last window with one channel gives: whether the feed is above the
floor, the arrival, and whether the peak is clear (R214). -/
structure TrackObs where
  feed : Nat
  mic : Nat
  loud : Bool
  arrival : Rat
  clear : Bool

/-- One pair of an update (R214): the window of finished samples ends with the latest one, the capture is
aligned as in R202 and searched within ±`search` of the baseline. What has not been captured yet counts as 0
(DESIGN CHOICE, log entry 70). -/
def Leaf.observe (x : Leaf) (set : TrackSet) (feed mic : Nat) (base : Rat) : TrackObs :=
  let fs := x.fs
  let n := set.window * fs / 1000
  let s := set.search * fs / 1000
  let past := (tget x.scene.out.feeds feed {}).run.past
  let win := (List.range n).reverse.map fun i => a40Val (a32to40 (past.getD i 0))
  let frames := (x.mic mic).stamped fs
  let t := x.nextTns
  let g := groupDelay (x.micClock (mic / 16)).ratio (x.mic mic).d
  let lag := capLag fs t frames
  let from_ : Int := (base + g - lag).floor - (s : Int)
  let cap := (List.range (n + 2 * s)).map fun (j : Nat) => capAt fs t frames (from_ - (n : Int) + (j : Int))
  let r := gccPhat win cap
  let peak := peakOf r
  let k := ((List.range r.length).find? fun i => decide (absQ (r.getD i 0) = peak)).getD 0
  let other := peakOf ((r.zipIdx.filter fun (p : Rat × Nat) => decide (p.2 + 3 < k) || decide (k + 3 < p.2)).map Prod.fst)
  { feed := feed, mic := mic, loud := decide (amp set.floor * amp set.floor ≤ 2 * meanSquare win),
    arrival := (from_ : Rat) + refined r k + lag - g, clear := decide (2 * other ≤ peak) && peak != 0 }

end Sys2Proof.Machine
end

