-- ==== Sys2Proof/Machine/Measure.lean ====
section
/-! DEFINITION. Room measurement, correction design and in-show tracking (chapter 8), and the commands of
group 0x05: runs, captures, results, banks, baselines and updates. The signal processing is in
Machine/Design.lean. -/

namespace Sys2Proof.Machine

/-- The run is in progress. -/
def MeasRun.active (r : MeasRun) : Bool := r.phase != 0 && decide (r.phase < 5)
/-- The run has been aborted. -/
def MeasRun.aborted (r : MeasRun) : Bool := r.stop.isSome
/-- The scene's run in progress. -/
def Scene.activeRun (x : Scene) : Option MeasRun := x.meas.run.filter MeasRun.active

/-- The feed whose slot holds sample n, with the sample's place in the slot. -/
def MeasRun.inSlot (r : MeasRun) (n : Nat) : Option (Nat × Nat) :=
  if r.aborted || !r.active || n < r.slotAt 0 || r.slot = 0 then none
  else
    let k := n - r.slotAt 0
    (r.feeds[k / r.slot]?).map fun f => (f, k % r.slot)

/-- What a feed of a run carries at its injection point at sample n: the programme under its fade, and
the stimulus in the feed's own slot (R199, R200). -/
def Scene.inject (x : Scene) (fs point feed n : Nat) (v : Int) : Int :=
  match x.activeRun with
  | none => v
  | some r =>
    if u8 r.b 1 ≠ point ∨ !r.feeds.contains feed then v else
      let s := match r.inSlot n with
        | none => 0
        | some (f, k) => if f = feed then r.stimulus fs k else 0
      sat40 (scale v (r.fade.at_ n) + s)

/-- Lane-cycles of one pair of an analysis of `len` samples (R203, R218). -/
def pairCost (len : Nat) : Nat :=
  let e := if len ≤ 1 then 0 else Nat.log2 (len - 1) + 1
  48 * 2 ^ e * e

/-- The measurement and tracking line per period (R98). -/
def measLine (rate : Nat) : Nat := tapCap rate / 4

/-- Analysed length of a run (R203). -/
def MeasRun.anaLen (r : MeasRun) : Nat := if r.sweep then r.len + r.ir else r.period

/-! `MEAS_TARGET` and `MEAS_START`. -/

/-- `MEAS_TARGET` (R220). -/
def specMeasTarget : Spec where
  op := 0x0501
  len := fun c =>
    let n := u8 c.body 1
    (0, if within 2 32 n then c.bodyLen == 4 + 8 * n else decide (20 ≤ c.bodyLen) && decide (c.bodyLen ≤ 260))
  timed := true
  fields := fun _ c =>
    let b := c.body
    [(0, decide (u8 b 0 < 8)), rng 1 (u8 b 1) 2 32, resv c 2 2] ++ ((List.range (min 32 (u8 b 1))).flatMap fun k =>
      let i := 4 + 8 * k
      [(i, f32In b i 10 96000 && (k == 0 || decide (f32D b (i - 8) < f32D b i))),
       (i + 4, within (-2400) 2400 (s16 b (i + 4))), resv c (i + 6) 2])
  run := onLeaves fun _ c _ x =>
    let b := c.body
    let pts := (List.range (u8 b 1)).map fun k => (f32D b (4 + 8 * k), s16 b (8 + 8 * k))
    { x := x.modScene fun sc => { sc with meas := { sc.meas with curves := tins sc.meas.curves (u8 b 0) pts } } }

/-- Feeds of a run: those of the range that have a speaker (R210). -/
def Scene.runFeeds (x : Scene) (b : List Byte) : List Nat :=
  (span (u16 b 4) (u16 b 6)).filter fun i => (tget x.rend.lay.speakers i spk0).kind != 0

/-- Effect of `MEAS_START` (R199, R207, R209, R210). -/
def runMeasStart (twin hasVoice : Bool) (live : Leaf → Option Nat) (c : Ctx) (m : Cmd) (_ : List Byte) (x : Leaf) : LEff :=
  let b := m.body
  let sc := x.scene
  let feeds := sc.runFeeds b
  let design := u8 b 3
  let k := u8 b 49
  let bank := sc.bank k
  let mics := (List.range 128).filter fun i => maskBit b 32 i
  let taps := u16 b 52 * feeds.length
  let free := sc.out.q - sc.reserveUsed
  let player := ((List.range 256).find? fun i => (sc.player i).state == 0)
  if sc.activeRun.isSome || (mics.any fun i => !x.micOn i || x.micFree i) || feeds.isEmpty ||
      (design != 0 && bank.state != 0 && bank.state != 2) then .no x sBadState
  else if u8 b 2 = 0 ∧ (live x).isSome then .no x sPolicy ((live x).getD 0)
  else if twin && design == 2 then .no x sPolicy
  else if (design != 0 && decide (free < taps)) || (!hasVoice && player.isNone) then .no x sNoCapacity
  else
    let r : MeasRun := { cmd := m, n0 := c.n, t0 := x.nextTns, feeds := feeds,
                         curve := (tfind sc.meas.curves (u8 b 50)).getD [], phase := 1,
                         fade := { start := 1, target := 0, first := c.first, len := u16 b 28 },
                         player := if hasVoice then none else player }
    let y := { sc with meas := { sc.meas with run := some r, track := { sc.meas.track with due := [] } } }
    let y := if design = 0 || twin then y else
      y.modBank k fun _ => { state := 1, n := u16 b 52, feeds := feeds, run := true }
    let y := match r.player with
      | none => y
      | some p => y.setPlayer p { state := 6 }
    { x := { x with scene := y }, mode := 3 }

/-- The first live feed of a range on a leaf (R209). -/
def State.firstLive (s : State) (b : List Byte) (x : Leaf) : Option Nat :=
  (span (u16 b 4) (u16 b 6)).find? fun i => s.liveFeed x i

/-- `MEAS_START` (R199, R220). -/
def specMeasStart : Spec where
  op := 0x0502
  len := fixedLen 72
  timed := true
  fields := fun s c =>
    let b := c.body
    let cap := s.feedCap c.fn
    let fs := rateHz (s.fnDom c.fn).rate
    let fs := if fs = 0 then 48000 else fs
    let n := u16 b 52
    let des : Bool → Bool := fun ok => u8 b 3 == 0 || ok
    let band : Bool → Bool := fun ok => (u8 b 0 != 0 && u8 b 3 == 0) || ok
    [(0, decide (u8 b 0 < 2)), (1, decide (u8 b 1 < 2)), (2, decide (u8 b 2 < 2)),
     (3, decide (u8 b 3 < 3) && (u8 b 1 == 1 || u8 b 3 == 0)),
     (6, within 1 cap (u16 b 6) && decide (u16 b 4 + u16 b 6 ≤ cap)),
     (8, if u8 b 0 = 0 then within 4096 1440000 (u32 b 8) else within 12 20 (u32 b 8)),
     rng 12 (u16 b 12) 1 64, (14, within (-6000) (-600) (s16 b 14)), rng 16 (u32 b 16) 1024 262144,
     (20, decide (u32 b 20 ≤ 480000)), (24, band (within 10 1000 (u16 b 24) && decide (2 * u16 b 24 < u16 b 26))),
     (26, band (decide (1000 ≤ u16 b 26) && decide (20 * u16 b 26 ≤ 9 * fs))), rng 28 (u16 b 28) 16 4096,
     rng 30 (u16 b 30) 1 48,
     (32, (List.range 128).any fun i => maskBit b 32 i), (48, decide (u8 b 48 < 128) && maskBit b 32 (u8 b 48)),
     (49, des (decide (u8 b 49 < 64))), (50, des (decide (u8 b 50 < 8))), (51, des (decide (u8 b 51 < 3))),
     (52, des (within 64 32768 n)), (54, des (decide (u8 b 54 ≤ 16))), (55, decide (u8 b 55 < 4)),
     (56, des (decide (u16 b 56 ≤ 1200))), (58, des (decide (u16 b 58 ≤ 4000))),
     (60, des (u8 b 51 != 2 || decide (u32 b 60 ≤ 512 * (n - 1)))), (64, des (within 20 1000 (u16 b 64))),
     (66, u8 b 3 != 2 || decide (u8 b 66 < 2)), resv c 67 1, (68, u8 b 3 != 2 || decide (64 ≤ u16 b 68)), resv c 70 2]
  run := fun c prep d s =>
    let ok := (span (u16 c.body 4) (u16 c.body 6)).all (s.ownsFeed c.fn)
    if !ok then { s := s, status := sBadState }
    else onLeaves (runMeasStart s.twin s.variant.hasVoice (s.firstLive c.body)) c prep d s

/-! The run's progress. -/

/-- A leaf with its run changed. -/
def Scene.setRun (x : Scene) (r : MeasRun) : Scene := { x with meas := { x.meas with run := some r } }

/-- A bank that a run holds in loading returns to empty (R208). -/
def Scene.dropRunBank (x : Scene) (r : MeasRun) : Scene :=
  let k := u8 r.b 49
  if r.design != 0 && (x.bank k).state == 1 && (x.bank k).run then x.modBank k fun _ => bank0 else x

/-- A run's queued swap is withdrawn (R208). -/
def Scene.withdrawSwap (x : Scene) : Scene :=
  let drop : SwapFade → SwapFade := fun f =>
    match f.waiting with
    | none => f
    | some p => if p.ofRun then { f with waiting := none } else f
  { x with out := { x.out with fades := x.out.fades.map drop } }

/-- Effect of `MEAS_ABORT` (R208). -/
def runMeasAbort (c : Ctx) (_ : Cmd) (_ : List Byte) (x : Leaf) : LEff :=
  match x.scene.activeRun with
  | none => .no x sBadState
  | some r =>
    if r.aborted then .no x sBadState else
      let q := { r with stop := some c.n, slots := [], caps := [],
                        fade := if r.returned then r.fade else r.fade.go c.n c.first r.fadeLen 1 }
      { x := { x with scene := ((x.scene.setRun q).dropRunBank r).withdrawSwap } }

/-- A run whose command another leaf answers ends without a completion when the pair is dissolved
(DESIGN CHOICE, log entry 69). -/
def Leaf.orphanRun (x : Leaf) (l : LeafId) : Leaf :=
  ((runMeasAbort { leaf := l, n := x.next } {} [] x).x).modScene fun sc =>
    match sc.activeRun with
    | none => sc
    | some r => sc.setRun { r with cmd := { r.cmd with acc := 0 } }

/-- A body of one reserved u32 (R220). -/
def resvBody (_ : State) (c : Cmd) : List (Nat × Bool) := [resv c 0 4]

/-- `MEAS_ABORT` (R208). -/
def specMeasAbort : Spec where
  op := 0x0503
  len := fixedLen 4
  timed := true
  fields := resvBody
  run := onLeaves runMeasAbort

/-- The run has nothing left to do (R208). -/
def MeasRun.complete (r : MeasRun) : Bool :=
  r.active && r.returned && (r.aborted ||
    (decide (r.feeds.length ≤ r.analysed) && (r.design == 0 || (r.phase == 4 && (r.design == 1 || r.swap == 1 || r.swap == 2 || r.swap == 4)))))

/-- Feeds of a run with a status that is not good. -/
def MeasRun.issues (r : MeasRun) : Nat := (r.results.filter fun f => f.status != 0).length

/-- In twin mode only the active leaf captures, analyses, designs and answers (R212). -/
def State.leadsRun (s : State) (l : LeafId) : Bool := !(s.twin && s.red.active != l)

/-- The bank that a run has staged, or 0xFF (R220, R221): none in twin mode (R212). -/
def MeasRun.bankByte (r : MeasRun) : Nat := if r.staged then u8 r.b 49 else 255

/-- What the active leaf has found becomes a result of the run on the standby too, which goes on with its own
fades (R212)
(DESIGN CHOICE, log entry 69). -/
def MeasRun.follow (own lead : MeasRun) : MeasRun :=
  { own with phase := if lead.phase = 3 ∨ lead.phase = 4 then lead.phase else own.phase,
             analysed := lead.analysed, designed := lead.designed, pairs := lead.pairs, results := lead.results,
             image := lead.image, hasImage := lead.hasImage, shift := lead.shift, clamped := lead.clamped }

/-- The standby's run follows the active leaf's after a step of it (R212)
(DESIGN CHOICE, log entry 69). -/
def State.mirrorRun (s : State) (l : LeafId) : State :=
  if !s.twin || s.red.active != l then s else
    match (s.leaf l).scene.meas.run with
    | none => s
    | some r => s.modLeaf l.other fun x => x.modScene fun sc =>
        match sc.activeRun with
        | none => sc
        | some q => sc.setRun (q.follow r)

/-- The run of a scene ends and frees its stimulus source (R201, R208). -/
def Scene.endRun (x : Scene) (r : MeasRun) : Scene :=
  let y := x.setRun { r with phase := if r.aborted then 6 else 5 }
  match r.player with
  | none => y
  | some p => y.setPlayer p player0

/-- Complete a run that has nothing left to do: the final completion, `MEAS_DONE`, the stimulus source
freed on every leaf of the run (R208, R212, R221). -/
def State.measFinish (s : State) (l : LeafId) : State :=
  match (s.leaf l).scene.meas.run with
  | none => s
  | some r =>
    if !r.complete || !s.leadsRun l then s else
      let s := s.mirrorRun l
      let s := s.modLeaf l fun x => x.modScene fun sc => sc.endRun r
      let s := if !s.twin then s else s.modLeaf l.other fun x => x.modScene fun sc =>
        match sc.activeRun with
        | none => sc
        | some q => sc.endRun q
      let refused := b2n (r.swap == 2)
      let s := if r.aborted then s.final r.cmd true sAborted 0 0
        else s.final r.cmd true sOk (min 65535 r.issues + 65536 * refused + 131072 * b2n r.clamped) r.t0
      s.leafEvent l 0x05F0 0 4294967295 (le8 (b2n r.aborted) ++ le8 refused ++ le16 r.analysed ++ le16 r.issues ++
        le8 r.bankByte) 255 0 r.cmd.tag

/-- A step of the run of every scene that a leaf renders, then its completion if nothing is left to do
(R208, R212). -/
def State.runStep (s : State) (l : LeafId) (g : State → State) : State :=
  s.eachScene l fun s => ((g s).mirrorRun l).measFinish l

/-- Meridian of a sample by the media clock of the coming one, in tns. -/
def Leaf.sampleTns (x : Leaf) (n : Nat) : Nat := countTns x.fs (x.clk.dom.nextCount + n - x.next)

/-- A run's slot ends: its captures wait for their analysis with the stamps that align them (R202); after the
last slot the return fade starts (R199, R203). -/
def Leaf.slotEnd (lead : Bool) (x : Leaf) : Leaf :=
  match x.scene.activeRun with
  | none => x
  | some r =>
    let i := r.captured
    if r.aborted || x.next < r.slotAt (i + 1) || r.feeds.length ≤ i then x else
      let cost := r.mics.length * pairCost r.anaLen
      let line := measLine x.clk.dom.rate
      let due := max r.lineFree (r.slotAt (i + 1)) + (cost + line - 1) / line
      let delays := r.mics.map fun k => (k, groupDelay (x.micClock (k / 16)).ratio (x.mic k).d)
      let slot : MeasSlot := { feed := r.feeds.getD i 0, caps := r.caps, at_ := x.sampleTns (r.slotAt i), delays := delays,
                               dropped := r.dropped, due := due }
      let last := i + 1 == r.feeds.length
      x.modScene fun sc => sc.setRun
        { r with captured := i + 1, caps := [], lineFree := due, slots := if lead then r.slots ++ [slot] else [],
                 phase := if last then 2 else r.phase,
                 fade := if last then { start := 0, target := 1, first := r.slotAt (i + 1), len := r.fadeLen } else r.fade }

/-- `MEAS_SLOT_END` (R199, R203). -/
def execMeasSlotEnd (l : LeafId) (s : State) : Res :=
  .next (s.eachScene l fun s => s.modLeaf l (Leaf.slotEnd (s.leadsRun l)))

/-- A run's return fade ends (R199, R208). -/
def Leaf.returnEnd (x : Leaf) : Leaf :=
  match x.scene.activeRun with
  | none => x
  | some r =>
    let ending := r.aborted || decide (r.feeds.length ≤ r.captured)
    if !ending || r.fade.target = 0 || x.next < r.fade.first + r.fade.len then x
    else x.modScene fun sc => sc.setRun { r with returned := true }

/-- `MEAS_RETURN_END` (R208). -/
def execMeasReturnEnd (l : LeafId) (s : State) : Res :=
  .next (s.runStep l fun s => s.modLeaf l Leaf.returnEnd)

/-! Analysis (R203, R204). -/

/-- Samples within 2 ms of a place (R204). -/
def levelWindow (fs : Nat) : Nat := 2 * (fs / 500) + 1

/-- The pair of one feed and one channel (R202 to R204). -/
def analysePair (r : MeasRun) (fs : Nat) (s : MeasSlot) (mic : Nat) : MeasPair :=
  let frames := ((s.caps.find? fun c => c.1 == mic).map Prod.snd).getD []
  let p0 : MeasPair := { feed := s.feed, mic := mic }
  if s.dropped.contains mic then { p0 with status := 6 }
  else if frames.any fun v => decide (amp (-50) ≤ absQ (a40Val v.2)) then { p0 with status := 3 }
  else
    let cap : Nat → Rat := fun j => capAt fs s.at_ frames j
    let h := r.impulse fs s.feed mic cap
    let peak := peakOf h
    match (List.range h.length).find? fun i => decide (peak / 10 ≤ absQ (h.getD i 0)) && peak != 0 with
    | none => { p0 with status := 2, h := h }
    | some k =>
      let delay := ((s.delays.find? fun p => p.1 == mic).map Prod.snd).getD 0
      let w := fs / 500
      let e := sumQ ((h.zipIdx.filter fun (p : Rat × Nat) => decide (k ≤ p.2 + w) && decide (p.2 ≤ k + w)).map fun p => p.1 * p.1)
      let noise := (levelWindow fs : Rat) *
        if 4096 ≤ r.gap then meanSquare ((List.range r.gap).map cap) * r.noiseGain fs
        else meanSquare (h.drop (h.length - h.length / 10))
      let level := db10 e
      let snr := level - db10 noise
      { p0 with status := if snr < 20 then 1 else 0, arrival := refined h k + capLag fs s.at_ frames - delay,
                level := level, snr := snr, h := h }

/-- The summary of a feed from its pairs (R204, R220). -/
def feedResult (r : MeasRun) (feed : Nat) (ps : List MeasPair) : MeasFeed :=
  match ps.find? fun p => p.mic == u8 r.b 48 with
  | none => { feed := feed, status := 6 }
  | some p =>
    { feed := feed, status := p.status, mics := (ps.filter fun q => q.status == 0).length, arrival := p.arrival,
      level := p.level, snr := p.snr }

/-- The event of a feed's issue (R221). -/
def feedIssue (r : MeasRun) (f : MeasFeed) : List Ev :=
  if f.status = 0 then [] else
    [{ code := 0x05F1, sev := 2, subject := f.feed, tag := r.cmd.tag,
       payload := le8 f.status ++ le8 (if f.status ≤ 3 then u8 r.b 48 else 255) }]

/-- Feeds that are designed: those with a valid pair on `ref_mic`. -/
def MeasRun.designable (r : MeasRun) : List MeasFeed := r.results.filter fun f => f.status == 0

/-- The analysis of a run's oldest captured slot ends; after the last one the design begins (R199, R203,
R204). -/
def runAnalysis (x : Leaf) : LEff :=
  match x.scene.activeRun with
  | none => { x := x }
  | some r =>
    match r.slots with
    | [] => { x := x }
    | sl :: rest =>
      if x.next < sl.due then { x := x } else
        let ps := r.mics.map (analysePair r x.fs sl)
        let f := feedResult r sl.feed ps
        let q := { r with slots := rest, pairs := r.pairs ++ ps, results := r.results ++ [f], analysed := r.analysed + 1 }
        let last := q.analysed == r.feeds.length
        let per := if r.fir ≤ 8192 then 4 else 16
        let q := if last && r.design != 0 then
            { q with phase := 3, designDue := sl.due + q.designable.length * per * x.fs / 1000 } else q
        { x := x.modScene fun sc => sc.setRun q, evs := feedIssue r f }

/-- `MEAS_ANALYSIS_DONE` (R203, R204). -/
def execMeasAnalysisDone (l : LeafId) (s : State) : Res :=
  .next (s.runStep l fun s => s.leafStep l runAnalysis)

/-! Design and installation (R205 to R207). -/

/-- What level alignment takes off a feed (R205 step 4). -/
def MeasRun.lower (r : MeasRun) (f : MeasFeed) : Rat :=
  if bit (u8 r.b 55) 1 then f.level - r.designable.foldl (fun m q => minQ m q.level) f.level else 0

/-- The design of one feed: its summary, its sections and its taps (R205). -/
def designFeed (r : MeasRun) (fs : Nat) (f : MeasFeed) : MeasFeed × List (List Int) × List Rat :=
  let c := r.correct fs f.feed (r.lower f)
  let p := (r.pairs.find? fun p => p.feed == f.feed && p.mic == u8 r.b 48).getD {}
  let top : Rat → Nat := fun v => (roundEven (100 * maxQ 0 v)).toNat
  ({ f with boost := top (c.db.foldl maxQ 0), cut := top (-(c.db.foldl minQ 0)), g := r.delay,
            status := if c.limited then 4 else 0 }, c.secs, r.firTaps c p.h f.arrival)

/-- The run's design (R205 to R207): results with the alignments for the offsets now in force, image, shift
and, outside twin mode (R212), the staged bank. A run whose design has no feed stages nothing and has
nothing to install
(DESIGN CHOICE, log entry 69). -/
def runDesign (twin : Bool) (x : Leaf) : LEff :=
  match x.scene.activeRun with
  | none => { x := x }
  | some r =>
    if r.phase ≠ 3 ∨ x.next < r.designDue ∨ r.aborted then { x := x } else
      let sc := x.scene
      let ds := r.designable.map (designFeed r x.fs)
      let res := r.results.map fun f => ((ds.find? fun d => d.1.feed == f.feed).map fun d => d.1).getD f
      let q := ({ r with results := res } : MeasRun).aligned (fun i => (sc.feed i).track) fun i => (sc.feed i).alignRoom sc.out.e
      let feeds := ds.map fun d => d.1.feed
      let shift := bankShift (ds.map fun d => d.2.2)
      let any := !ds.isEmpty
      let img := if any then designImage shift (ds.map fun d => (d.1.feed, d.2)) else []
      let q := { q with phase := 4, designed := ds.length, image := img, hasImage := any, staged := any && !twin, shift := shift,
                        swap := if r.design = 2 ∧ !any then 4 else r.swap }
      let y := sc.setRun q
      let y := if twin then y else if any then
          y.modBank (u8 r.b 49) fun _ => { state := 2, n := r.fir, shift := shift, g := r.delay, feeds := feeds, run := true,
                                           rows := 1, sets := imageSets img feeds.length feeds.length r.fir }
        else y.dropRunBank r
      { x := { x with scene := y },
        evs := (q.results.filter fun f => f.status == 4 || f.status == 5).flatMap (feedIssue r) }

/-- `MEAS_DESIGN_DONE` (R205, R207). -/
def execMeasDesignDone (l : LeafId) (s : State) : Res :=
  .next (s.runStep l fun s => s.leafStep l (runDesign s.twin))

/-- The run issues its swap (R207). -/
def runInstall (c : Ctx) (x : Leaf) : LEff :=
  match x.scene.activeRun with
  | none => { x := x }
  | some r =>
    if r.phase ≠ 4 ∨ r.design ≠ 2 ∨ r.swap ≠ 0 ∨ r.aborted then { x := x } else
      let body := le8 (u8 r.b 49) ++ le8 0 ++ le8 (u8 r.b 66) ++ le8 0 ++ le16 (u16 r.b 68) ++ le16 0
      let p : Pend := { cmd := { r.cmd with body := body }, released := true }
      let e := startSwap c p false x
      if e.mode = 1 then { e with mode := 0, x := e.x.modScene fun sc => sc.noteSwap 3 }
      else if noEffect e.status then { x := x.modScene fun sc => sc.runSwap c false }
      else { e with x := e.x.modScene fun sc => sc.runSwap c true, detail := 0,
                    evs := e.evs.map fun v => { v with tag := r.cmd.tag } }

/-- `MEAS_INSTALL_SWAP` (R207). -/
def execMeasInstallSwap (l : LeafId) (s : State) : Res :=
  .next (s.runStep l fun s => s.leafStep l fun x => runInstall { leaf := l, n := x.next, prep := true } x)

/-- The response of `MEAS_QUERY` (R220). -/
def measQueryResp (x : Leaf) : List Byte :=
  match x.scene.meas.run with
  | none => zeros 1 ++ le8 255 ++ zeros 30
  | some r =>
    let n := x.clk.dom.sample
    let left := if r.aborted then 0 else r.slotAt r.feeds.length - (n + 1)
    le8 r.phase ++ le8 r.bankByte ++ le16 r.feeds.length ++ le16 r.captured ++ le16 r.analysed ++
      le16 r.designed ++ le16 r.issues ++ le32 left ++ le64 r.t0 ++ le32 r.cmd.tag ++ zeros 4

/-- `MEAS_QUERY` (R220). -/
def specMeasQuery : Spec where
  op := 0x0504
  len := fixedLen 4
  fields := resvBody
  run := onLeaves fun _ _ _ x => { x := x, resp := measQueryResp x }

/-- One summary record (R220). -/
def MeasFeed.bytes (f : MeasFeed) (c : Rat) (fs : Nat) : List Byte :=
  let db : Rat → Int := fun v => (clampQ (-32768) 32767 (v * 100)).floor
  le16 f.feed ++ le8 f.status ++ le8 f.mics ++ le32 (roundEven (f.arrival * 1024)).toNat ++
    f32le (if fs = 0 then 0 else f.arrival * c / (fs : Rat)) ++ sle16 (db f.level) ++ sle16 (db f.snr) ++ sle16 f.boost ++
    sle16 f.cut ++ le32 f.align ++ le32 f.g ++ zeros 4

/-- The bytes of a result; none where it does not exist (R208, R220). -/
def measResult (x : Leaf) (b : List Byte) : Option (List Byte) :=
  match x.scene.meas.run with
  | none => none
  | some r =>
    match u8 b 0 with
    | 0 => if r.results.isEmpty then none else
        some (padTo (32 * r.feeds.length) (r.results.flatMap fun f => f.bytes x.scene.rend.soundSpeed x.fs))
    | 1 => (r.pairs.find? fun p => p.feed == u16 b 2 && p.mic == u8 b 1 && !p.h.isEmpty).map fun p => p.h.flatMap f32le
    | _ => if r.hasImage then some r.image else none

/-- `MEAS_RESULT` (R220). -/
def specMeasResult : Spec where
  op := 0x0505
  len := fixedLen 32
  fields := fun s c =>
    let b := c.body
    [(0, decide (u8 b 0 < 3)), (1, u8 b 0 != 1 || decide (u8 b 1 < 128)),
     (2, u8 b 0 != 1 || decide (u16 b 2 < s.feedCap c.fn)), resv c 4 12]
  refs := fun _ => [16]
  toHost := true
  run := onLeaves fun _ c _ x =>
    match measResult x c.body with
    | none => .no x sBadState
    | some d => if d.length = u32 c.body 24 then { x := x, out := some d } else .no x sBadField 56

/-! Tracking (R213 to R218). -/

/-- The median of a list; the mean of the middle two of an even number. -/
def median (l : List Rat) : Rat :=
  let s := sortBy (fun a b => decide (a ≤ b)) l
  let n := s.length
  if n = 0 then 0 else if n % 2 = 1 then s.getD (n / 2) 0 else (s.getD (n / 2 - 1) 0 + s.getD (n / 2) 0) / 2

/-- The default tracked feed. -/
def trackFeed0 : TrackFeed := {}

/-- `e` in samples (R215). -/
def TrackSet.e (t : TrackSet) : Rat := (t.elec : Rat) / 1024

/-- Feeds of the tracking range that have a baseline, by their pairs. -/
def Track.pairs (t : Track) : List (Nat × Nat × Rat) :=
  (t.feeds.filter fun p => (span t.set.first t.set.count).contains p.1).flatMap fun p =>
    (p.2.base.filter fun q => maskBit t.set.mask 0 q.1).map fun q => (p.1, q.1, q.2)

/-- Rounds R of R218: the pairs of the range against what the line gives in a period. -/
def Track.rounds (t : Track) (rate : Nat) : Nat :=
  let fs := rateHz rate
  let cost := t.pairs.length * pairCost ((t.set.window + 2 * t.set.search) * fs / 1000)
  let line := measLine rate * t.set.period * fs
  if line = 0 then 1 else max 1 ((cost + line - 1) / line)

/-- The feeds analysed in an update: a round of consecutive feed numbers. -/
def Track.roundFeeds (t : Track) (rate : Nat) : List Nat :=
  let r := t.rounds rate
  let per := (t.set.count + r - 1) / r
  (span t.set.first t.set.count).filter fun i => (i - t.set.first) / max 1 per == t.round % r

/-- Finished samples of a feed that tracking keeps: the window of a feed of the range (R214). -/
def Track.keeps (t : Track) (fs feed : Nat) : Nat :=
  let set := t.next.getD t.set
  if set.first ≤ feed ∧ feed < set.first + set.count then set.window * fs / 1000 else 0

/-- What one feed gives in an update from its valid pairs: its tracking state, its accepted step if it was a
persistent one, and whether a drift was accepted (R214). -/
def TrackFeed.update (f : TrackFeed) (set : TrackSet) (fs : Nat) (obs : List TrackObs) : TrackFeed × Option Rat × Bool :=
  let ds := obs.filterMap fun o => (f.base.find? fun b => b.1 == o.mic).map fun b => o.arrival - b.2
  let f := { f with last := obs.foldl (fun l o => tins l o.mic o.arrival) f.last }
  if ds.isEmpty then (f, none, false) else
    let d := median ds
    let lim : Rat := (set.reject : Rat) * (fs : Rat) / 1000000
    match f.drift with
    | none => ({ f with drift := some d, rejected := [] }, none, true)
    | some p =>
      if absQ (d - p) ≤ lim then ({ f with drift := some d, rejected := [] }, none, true)
      else
        let rs := (d :: f.rejected).take 3
        let close := rs.length == 3 && rs.all fun a => rs.all fun b => decide (absQ (a - b) ≤ lim)
        if close then ({ f with drift := some d, rejected := [] }, some (d - p), true)
        else ({ f with rejected := rs }, none, false)

/-- The largest rendered wavefront pair delay of a scene in samples: of its sounding objects, both sides of a
cross-fade, and its clusters (R218). -/
def Scene.longestPair (x : Scene) (n : Nat) : Rat :=
  let of_ : Rendering → List Rat := fun r => r.pairs.map fun w => w.delay
  let objs := (x.objs.objs.filter fun p => p.2.sounds n).flatMap fun p =>
    of_ p.2.run.cur ++ ((p.2.run.xf.map fun f => of_ f.old).getD [])
  (objs ++ x.objs.clusters.flatMap fun c => of_ c.render).foldl maxQ 0

/-- The largest tracking offset that a feed's longest delay allows (R183). -/
def Feed.trackRoom (f : Feed) (e : Nat) : Int :=
  f.paths.foldl (fun m p => min m ((delayMax : Int) - (e * 1024 - p.g : Int) - f.set.align)) (delayMax : Int)

/-- Put offsets and a speed of sound into force at sample n, gliding over `span` (R218); an offset stops at
the longest delay (R183). -/
def Scene.applyTrack (x : Scene) (n span : Nat) (offsets : List (Nat × Int)) (c : Rat) : Scene :=
  let y := offsets.foldl (fun y p => y.modFeed p.1 fun f =>
    let t := if f.track < p.2 then max f.track (min p.2 (f.trackRoom y.out.e)) else p.2
    if t = f.track then f
    else { f with track := t, run := { f.run with glide := f.run.glide.go n n span t } }) x
  if c = 0 then y else { y with rend := { y.rend with soundSpeed := c } }

/-- One step of a value towards a target by at most a bound. -/
def stepTo (v target : Int) (bound : Nat) : Int := v + clampI (-(bound : Int)) bound (target - v)

/-- The air temperature in °C for a speed of sound (R215). -/
def thetaOf (c : Rat) : Rat := (27315 / 100) * ((c / (3313 / 10)) * (c / (3313 / 10)) - 1)

/-- What an update of tracking gives: the new state, the offsets and the speed of sound to put into force,
and the events. -/
structure TrackOut where
  t : Track
  offsets : List (Nat × Int) := []
  c : Rat := 0
  evs : List Ev := []

/-- The payload of `TRK_STARVED` (R221). -/
def Track.starvedPayload (t : Track) : List Byte :=
  le16 t.set.count ++ le16 (t.feeds.filter fun p => !p.2.base.isEmpty).length

/-- The offsets of a scene that are not 0, each one step nearer (R217, R218). -/
def Scene.clearStep (x : Scene) (bound : Nat) : List (Nat × Int) :=
  x.out.feeds.filterMap fun p => if p.2.track = 0 then none else some (p.1, stepTo p.2.track 0 bound)

/-- The offset slew of an update (R218). -/
def TrackSet.bound (set : TrackSet) (fs : Nat) : Nat := set.period * fs * 1024 / 1000000

/-- What the transform's working precision adds to an arrival, in samples: an operand of the update, at most
2⁻²⁰ (DESIGN CHOICE, log entry 70). -/
def arrivalError (errs : List Rat) (k : Nat) : Rat := clampQ (-1) 1 ((errs.getD k 0) * (2 : Rat) ^ 20) / (2 : Rat) ^ 20

/-- The pairs of the feeds of a round, correlated (R214). -/
def Leaf.observations (x : Leaf) (t : Track) (feeds : List Nat) (errs : List Rat) : List TrackObs :=
  (t.pairs.filter fun p => feeds.contains p.1).zipIdx.map fun (p : (Nat × Nat × Rat) × Nat) =>
    let o := x.observe t.set p.1.1 p.1.2.1 p.1.2.2
    { o with arrival := o.arrival + arrivalError errs p.2 }

/-- One feed of a round takes its valid pairs and, where a drift is accepted, is noted; a persistent step
raises `TRK_STEP` (R214). -/
def trackFeedStep (fs mode : Nat) (set : TrackSet) (valid : List TrackObs)
    (a : List (Nat × TrackFeed) × List Ev × List Nat) (i : Nat) : List (Nat × TrackFeed) × List Ev × List Nat :=
  match tfind a.1 i with
  | none => a
  | some f =>
    let r := f.update set fs (valid.filter fun o => o.feed == i)
    let ev : List Ev := match r.2.1 with
      | none => []
      | some d => [{ code := 0x05F3, sev := 2, subject := i, autonomy := mode, payload := sle32 (roundEven (d * 1024)) }]
    (tins a.1 i r.1, a.2.1 ++ ev, if r.2.2 then a.2.2 ++ [i] else a.2.2)

/-- The paths of R215 that valid pairs give for the speed of sound. -/
def Track.speeds (t : Track) (fs : Nat) (valid : List TrackObs) : List Rat :=
  let set := t.set
  valid.filterMap fun o => ((tfind t.feeds o.feed).bind fun f => f.base.find? fun b => b.1 == o.mic).bind fun b =>
    let l := (b.2 - set.e) * t.cBase / (fs : Rat)
    if set.minPath ≤ l ∧ o.arrival ≠ set.e then some (t.cBase * (b.2 - set.e) / (o.arrival - set.e)) else none

/-- The step of the scene's speed of sound towards the estimate (R217, R218); 0 for none. -/
def Scene.speedStep (x : Scene) (fs n : Nat) (t : Track) (cEst : Rat) : Rat :=
  let c := x.rend.soundSpeed
  let far := x.longestPair n / (fs : Rat)
  let cb := if far = 0 then 1 / 2 else minQ (1 / 2) (c * (t.set.period : Rat) / 1000000 / far)
  if t.mode == 2 && t.set.trackC && decide (cEst ≠ 0) && decide (cEst ≠ c) && !t.clearing then c + clampQ (-cb) cb (cEst - c) else 0

/-- An update of tracking at the coming sample (R214 to R218, R221). In mode 0 nothing is analysed and a
clearing only glides (R217). -/
def trackUpdate (x : Leaf) (errs : List Rat) : TrackOut :=
  let sc := x.scene
  let n := x.next
  let fs := x.fs
  let t0 := sc.meas.track
  let t : Track := { t0 with set := t0.next.getD t0.set, next := none }
  let set := t.set
  let clear := sc.clearStep (set.bound fs)
  let cleared := t.clearing && clear.isEmpty
  if t.mode = 0 then { t := { t with clearing := t.clearing && !cleared }, offsets := clear }
  else
    let feeds := t.roundFeeds x.clk.dom.rate
    let obs := x.observations t feeds errs
    let above := obs.filter fun o => o.loud
    let valid := above.filter fun o => o.clear
    let r := feeds.foldl (trackFeedStep fs t.mode set valid) (t.feeds, [], [])
    let drifts := r.1.filterMap fun p => p.2.drift.map fun d => d - (p.2.t0 : Rat) / 1024
    let dmax := drifts.foldl maxQ 0
    let target : TrackFeed → Int := fun f => match f.drift with
      | none => f.target
      | some d => roundEven ((f.t0 : Rat) + (dmax - d) * 1024)
    let fd := r.1.map fun p => (p.1, if r.2.2.contains p.1 then { p.2 with target := target p.2 } else p.2)
    let paths := t.speeds fs valid
    let cEst := if set.minPairs ≤ paths.length then median paths else t.cEst
    let toward := (fd.filter fun p => feeds.contains p.1).filterMap fun p =>
      let v := (sc.feed p.1).track
      if v = p.2.target then none else some (p.1, stepTo v p.2.target (set.bound fs))
    let offs := if t.clearing then clear else if t.mode = 2 then toward else []
    let moved := (fd.map fun p => (p.2.target - p.2.told).natAbs).foldl max 0
    let big := decide (1 / 10 ≤ absQ (cEst - t.cTold)) || decide (1024 * fs ≤ moved * 100000)
    let old := match t.toldAt with
      | none => true
      | some k => decide (k + 60 * fs ≤ n)
    let tell := big || old
    let ev : List Ev := if tell then
        [{ code := 0x05F2, sev := 0, autonomy := t.mode, flags := if t.mode = 2 then 1 else 0,
           payload := f32le cEst ++ f32le (thetaOf cEst) ++ le32 (roundEven (dmax * 1024)).toNat ++ le32 moved ++ le16 paths.length }] else []
    let back : List Ev := if t.starved && !valid.isEmpty then
        [{ code := 0x05F4, sev := 1, autonomy := t.mode, flags := 2, payload := t.starvedPayload }] else []
    { t := { t with
        feeds := if tell then fd.map fun p => (p.1, { p.2 with told := p.2.target }) else fd,
        cEst := cEst, cTold := if tell then cEst else t.cTold, toldAt := if tell then some n else t.toldAt,
        deltaMax := dmax, feedsValid := r.2.2.length, pairsValid := paths.length, quiet := above.isEmpty, clearing := t.clearing && !cleared,
        updates := (t.updates + 1) % 4294967296, round := t.round + 1,
        lastValid := if valid.isEmpty then t.lastValid else n, starved := t.starved && valid.isEmpty },
      offsets := offs, c := sc.speedStep fs n t cEst, evs := r.2.1 ++ ev ++ back }

/-- An update of the scene that stands on a leaf, at a multiple of P·fs outside a run (R211, R212, R218). In twin
mode the active leaf analyses and journals the update across the tie link; both leaves apply it at least
2 ms later. -/
def State.trackStep (s : State) (l : LeafId) (errs : List Rat) : State :=
  let x := s.leaf l
  let t := x.scene.meas.track
  let n := x.next
  if x.fs = 0 ∨ n % (t.set.period * x.fs) ≠ 0 ∨ x.scene.activeRun.isSome = true ∨ (t.mode = 0 ∧ t.clearing = false) ∨
      s.leadsRun l = false then s
  else
    let r := trackUpdate x errs
    let span := r.t.set.period * x.fs
    let setT : Scene → Scene := fun sc => { sc with meas := { sc.meas with track := r.t } }
    let s := if s.twin then
        let st : TrackStep := { at_ := n + (x.fs + 499) / 500, offsets := r.offsets, c := r.c, span := span }
        let put : Leaf → Leaf := fun x => x.modScene fun sc =>
          let sc := setT sc
          { sc with meas := { sc.meas with track := { sc.meas.track with due := t.due ++ [st] } } }
        let s := s.modLeaf l put
        if s.red.tieUp then s.modLeaf l.other put else s
      else s.modLeaf l fun x => x.modScene fun sc => (setT sc).applyTrack n span r.offsets r.c
    r.evs.foldl (fun s v => s.leafEvent l v.code v.sev v.subject v.payload v.autonomy v.flags) s

/-- `TRACKING_UPDATE` (R211, R212, R218): `errs` are the errors of working precision of the pairs analysed, in
their order in each scene. -/
def execTrackingUpdate (l : LeafId) (errs : List Rat) (s : State) : Res := .next (s.eachScene l fun s => s.trackStep l errs)

/-- The journalled updates of a scene that reach their sample outside a run (R211, R212). -/
def Scene.trackDue (x : Scene) (n : Nat) : Scene :=
  let t := x.meas.track
  let due := t.due.filter fun d => decide (d.at_ ≤ n)
  if due.isEmpty then x else
    let y := if x.activeRun.isSome then x else due.foldl (fun y d => y.applyTrack n d.span d.offsets d.c) x
    { y with meas := { y.meas with track := { y.meas.track with due := t.due.filter fun d => decide (n < d.at_) } } }

/-- No pair of a scene has been valid for 60 s (R221). -/
def starve (x : Leaf) : LEff :=
  let t := x.scene.meas.track
  if t.starved || t.mode = 0 || x.fs = 0 || x.scene.activeRun.isSome || x.next < t.lastValid + 60 * x.fs then { x := x } else
    { x := x.modScene fun sc => { sc with meas := { sc.meas with track := { t with starved := true } } },
      evs := [{ code := 0x05F4, sev := 1, autonomy := t.mode, payload := t.starvedPayload }] }

/-- `TRK_STARVED` (R221). -/
def execTrkStarved (l : LeafId) (s : State) : Res := .next (s.eachScene l fun s => s.leafStep l starve)

/-- The settings in a `TRK_CONFIG` body (R220). -/
def trackSetOf (b : List Byte) : TrackSet :=
  { trackC := bit (u8 b 1) 0, period := u16 b 2, window := u16 b 4, floor := s16 b 6, search := u16 b 8, minPairs := u16 b 10,
    first := u16 b 12, count := u16 b 14, mask := slice b 16 16, minPath := f32D b 32, reject := u16 b 36, elec := u16 b 38 }

/-- Effect of `TRK_CONFIG` (R217, R220). -/
def runTrkConfig (c : Ctx) (m : Cmd) (_ : List Byte) (x : Leaf) : LEff :=
  let b := m.body
  if (List.range 128).any fun i => maskBit b 16 i && x.micFree i then .no x sBadState
  else
    let t := x.scene.meas.track
    let freeze := t.mode == 2 && u8 b 0 != 2
    let y := if freeze then
        x.scene.modFeeds (x.scene.out.feeds.map Prod.fst) fun _ f =>
          let v := roundEven (f.run.glide.at_ (c.n - 1))
          { f with track := v, run := { f.run with glide := Ramp.rest v } }
      else x.scene
    let t := { t with mode := u8 b 0, next := some (trackSetOf b), clearing := t.clearing || bit (u8 b 1) 1,
                      due := if freeze then [] else t.due }
    { x := { x with scene := { y with meas := { y.meas with track := t } } } }

/-- `TRK_CONFIG` (R220). -/
def specTrkConfig : Spec where
  op := 0x0506
  len := fixedLen 40
  timed := true
  fields := fun s c =>
    let b := c.body
    let cap := s.feedCap c.fn
    [(0, decide (u8 b 0 < 3)), (1, decide (u8 b 1 < 4)), rng 2 (u16 b 2) 1 60, rng 4 (u16 b 4) 250 (1000 * u16 b 2),
     (6, within (-8000) (-2000) (s16 b 6)), rng 8 (u16 b 8) 1 50, rng 10 (u16 b 10) 1 64,
     (14, decide (u16 b 12 + u16 b 14 ≤ cap)), (16, (List.range 128).any fun i => maskBit b 16 i), (32, f32In b 32 1 100), rng 36 (u16 b 36) 10 10000]
  run := withFeeds (fun s c => (span (u16 c.body 12) (u16 c.body 14)).all (s.ownsFeed c.fn)) (onLeaves runTrkConfig)

/-- Effect of `TRK_BASELINE` (R213, R220). -/
def runTrkBaseline (_ : Ctx) (m : Cmd) (_ : List Byte) (x : Leaf) : LEff :=
  let b := m.body
  let sc := x.scene
  let t := sc.meas.track
  let c := if f32D b 4 = 0 then sc.rend.soundSpeed else f32D b 4
  let set := t.next.getD t.set
  let range := span set.first set.count
  let arr : Nat → List (Nat × Rat) := fun i =>
    let l := if u8 b 0 = 0 then
        ((sc.meas.run.map MeasRun.pairs).getD []).filterMap fun p =>
          if p.feed = i ∧ p.status = 0 then some (p.mic, p.arrival) else none
      else ((tfind t.feeds i).map TrackFeed.last).getD []
    l.filter fun p => maskBit set.mask 0 p.1
  let have' := if u8 b 0 = 0 then ((sc.meas.run.map fun r => r.phase == 5).getD false)
    else t.feeds.any fun p => p.2.drift.isSome
  if !have' then .no x sBadState else
    let feeds := range.foldl (fun f i =>
      let a := arr i
      if a.isEmpty then tdel f i
      else tins f i { tget t.feeds i trackFeed0 with base := a, t0 := (sc.feed i).track, drift := none, rejected := [] }) []
    { x := x.modScene fun sc => { sc with meas := { sc.meas with track := { t with hasBase := true, cBase := c, feeds := feeds } } } }

/-- `TRK_BASELINE` (R220). -/
def specTrkBaseline : Spec where
  op := 0x0507
  len := fixedLen 8
  timed := true
  fields := fun _ c => [(0, decide (u8 c.body 0 < 2)), resv c 1 3, (4, f32In c.body 4 0 0 || f32In c.body 4 300 380)]
  run := onLeaves runTrkBaseline

/-- The response of `TRK_QUERY` (R220). -/
def trkQueryResp (x : Leaf) : List Byte :=
  let sc := x.scene
  let t := sc.meas.track
  let state := if t.mode = 0 then 0 else if sc.activeRun.isSome then 3 else if !t.hasBase then 4 else if t.quiet then 2 else 1
  let theta : Rat := if t.cEst = 0 then 0 else thetaOf t.cEst
  let lag := (t.feeds.map fun p => (p.2.target - (sc.feed p.1).track).natAbs).foldl max 0
  le8 t.mode ++ le8 state ++ le16 t.feedsValid ++ f32le sc.rend.soundSpeed ++ f32le t.cEst ++ f32le theta ++
    le32 (roundEven (t.deltaMax * 1024)).toNat ++ le32 lag ++ le16 t.pairsValid ++ le16 (t.rounds x.clk.dom.rate) ++ le32 t.updates

/-- `TRK_QUERY` (R220). -/
def specTrkQuery : Spec where
  op := 0x0508
  len := fixedLen 4
  fields := resvBody
  run := onLeaves fun _ _ _ x => { x := x, resp := trkQueryResp x }

/-- `OUT_BANK_LOAD` and `OUT_BANK_SWAP` on the bank of a run in progress complete with `BAD_STATE`
(R210). -/
def notRunBank (run : Cmd → Bool → List Byte → State → Eff) : Cmd → Bool → List Byte → State → Eff :=
  fun c prep d s =>
    let busy := match s.fnLeaf c.fn with
      | none => false
      | some x => match x.scene.activeRun with
        | none => false
        | some r => r.design != 0 && u8 r.b 49 == u8 c.body 0
    if busy then { s := s, status := sBadState } else run c prep d s

/-- `OUT_BANK_LOAD` with the check of R210. -/
def specOutBankLoadAll : Spec :=
  { specOutBankLoad with
    run := notRunBank specOutBankLoad.run,
    pre := fun s c =>
      let e := notRunBank (fun _ _ _ s => { s := s }) c false [] s
      if e.status = sOk then specOutBankLoad.pre s c else (e.status, 0) }

/-- `OUT_BANK_SWAP` with the check of R210. -/
def specOutBankSwapAll : Spec := { specOutBankSwap with run := notRunBank specOutBankSwap.run }

end Sys2Proof.Machine
end

