-- ==== Sys2Proof/Machine/Mic.lean ====
section
/-! DEFINITION. PDM microphone capture (chapter 14), and the commands of group 0x0C. -/

namespace Sys2Proof.Machine

/-- A leaf with one PDM clock changed. -/
def Leaf.modMicClock (x : Leaf) (k : Nat) (f : MicClock → MicClock) : Leaf :=
  { x with mics := { x.mics with clocks := tmod x.mics.clocks k micClock0 f } }
/-- A leaf with one microphone channel changed. -/
def Leaf.modMic (x : Leaf) (i : Nat) (f : MicChan → MicChan) : Leaf :=
  { x with mics := { x.mics with chans := tmod x.mics.chans i micChan0 f } }

/-- Frequency of the audio clock for a render rate in Hz (R376): the 48 kHz family's for no rate. -/
def audioHz (rate : Nat) : Nat := if rate = 1 ∨ rate = 3 ∨ rate = 5 then 4096 * 44100 else 4096 * 48000

/-- The PDM clock frequency lies within 0.768 to 6.144 MHz (R375). -/
def pdmOk (rate n f : Nat) : Bool :=
  let d := 65536 * n + f
  decide (768000 * d ≤ audioHz rate * 65536) && decide (audioHz rate * 65536 ≤ 6144000 * d)

/-- Frames that a channel settles for. -/
def settleFrames (ratio d : Nat) : Nat := (groupDelay ratio d).ceil.toNat

/-! The decimation chain (R378, R380). -/

/-- A value wrapped modulo 2^41 as a signed number. -/
def wrap41 (v : Int) : Int := signed 41 (v % (2 ^ 41 : Int)).toNat

/-- The integrators take one PDM bit. -/
def cicIn (ints : List Int) (b : Bool) : List Int :=
  ((List.range 5).foldl (fun (a : List Int × Int) i =>
    let v := wrap41 (ints.getD i 0 + a.2)
    (a.1 ++ [v], v)) ([], if b then 1 else -1)).1

/-- The combs give one output: new delays and value. -/
def cicOut (combs : List Int) (v : Int) : List Int × Int :=
  (List.range 5).foldl (fun (a : List Int × Int) i =>
    (a.1 ++ [a.2], wrap41 (a.2 - combs.getD i 0))) ([], v)

/-- The bits that enter the decimator, delayed by d clock periods, and the delay line. -/
def delayBits (line : List Bool) (d : Nat) (bits : List Bool) : List Bool × List Bool :=
  bits.foldl (fun (a : List Bool × List Bool) b =>
    let l := push 256 b a.1
    (l, a.2 ++ [l.getD d false])) (line, [])

/-- The decimator's exact output (R378): the two ends ±2^40 of the range at R = 256 share one register
value, and only a run of equal bits reaches them. -/
def cicExact (v : Int) (bits : List Bool) : Int :=
  if v = -(2 ^ 40) ∧ bits.getLastD false = true then 2 ^ 40 else v

/-- Tap p of the compensator: 63 taps of linear phase with a DC gain of 1 (R378); the half that the manual
does not give is open (DESIGN CHOICE, log entry 19). -/
def compTap (ratio p : Nat) : Rat :=
  let half : Nat → Rat := fun q => Config.of "compensator" [(ratio : Rat), (q : Rat)]
  if p = 31 then 1 - 2 * sumQ ((List.range 31).map half) else half (min p (62 - p))

/-- One decimated frame of a channel from its PDM bits: channel and value before settling. -/
def MicChan.frame (c : MicChan) (ratio : Nat) (fout : Rat) (bits : List Bool) : MicChan × Int :=
  let dl := delayBits c.line c.d bits
  let ints := dl.2.foldl cicIn (if c.ints.length = 5 then c.ints else [0, 0, 0, 0, 0])
  let co := cicOut c.combs (ints.getD 4 0)
  let x : Rat := (cicExact co.2 dl.2 : Rat) / (ratio : Rat) ^ 5
  let fir := push 63 x c.fir
  let y := sumQ (fir.zipIdx.map fun (p : Rat × Nat) => p.1 * compTap ratio p.2)
  let a := expQ (-2 * piQ * ((c.corner : Rat) / 10) / fout)
  let m := match c.dcMode with
    | 0 => 0
    | 1 => c.m + (1 - a) * (y - c.m)
    | _ => c.m
  ({ c with ints := ints, combs := co.1, line := dl.1, fir := fir, m := m },
   sat32 (roundEven ((y - m) * (2 : Rat) ^ 31)))

/-- A frame enters the ring of a channel (R383)
(DESIGN CHOICE, log entry 46). -/
def MicChan.write (c : MicChan) (endAt flags : Nat) (v : Int) : MicChan :=
  let b := if c.cur.frames.isEmpty then { c.cur with endAt := endAt, seq := c.seq, flags := 0 } else c.cur
  let b := { b with frames := b.frames ++ [v], flags := b.flags ||| flags }
  if 64 ≤ b.frames.length then
    { c with ring := (b :: c.ring).take (2 ^ c.k / 64), cur := {}, seq := (c.seq + 1) % 4294967296 }
  else { c with cur := b }

/-- A change of the run in progress of every scene that a leaf renders. -/
def Leaf.eachRun (x : Leaf) (g : MeasRun → MeasRun) : Leaf :=
  let one : Scene → Scene := fun sc => match sc.activeRun with
    | none => sc
    | some r => sc.setRun (g r)
  { x with scene := one x.scene, guest := x.guest.map one }

/-- A run takes a frame of one of its channels within a slot, with the time of its end (R202). -/
def MeasRun.capture (r : MeasRun) (ch n endAt : Nat) (v : Int) : MeasRun :=
  if !r.mics.contains ch || (r.inSlot n).isNone then r else
    let old := ((r.caps.find? fun p => p.1 == ch).map Prod.snd).getD []
    { r with caps := (r.caps.filter fun p => p.1 != ch) ++ [(ch, old ++ [(endAt, v)])] }

/-- The mask of a clock that takes over with a channel's frame that ends in period k (R384): on a
render-locked clock with one that starts in period n, half a period after the meridian, on a free-rate
clock with the first that starts after meridian n. Newly enabled channels settle, and a run's channels
whose mask changed are dropped (R202). -/
def Leaf.micMaskTick (x : Leaf) (ch k : Nat) : Leaf :=
  let ck := ch / 16
  let c := x.micClock ck
  let start := if c.locked x.clk.dom.rate then k - 1 else (((x.mic ch).recent.head?).map Prod.fst).getD k
  match c.newMask with
  | none => x
  | some (n, m) =>
    if start < n then x else
      let chans := span (16 * ck) 16
      let newly := chans.filter fun i => bit m (i % 16) && !bit c.mask (i % 16)
      let moved := chans.filter fun i => bit m (i % 16) != bit c.mask (i % 16)
      let x := x.modMicClock ck fun c => { c with mask := m, newMask := none, on := c.on && !c.stopping, stopping := false }
      let x := newly.foldl (fun x i => x.modMic i fun q => { q with settle := settleFrames c.ratio q.d }) x
      x.eachRun fun r => { r with dropped := (r.dropped ++ moved.filter fun i => r.mics.contains i).eraseDups }

/-- A change of delay or DC blocker acts from the next frame boundary (R385). -/
def MicChan.next (c : MicChan) (k : Nat) : MicChan :=
  match c.dNext with
  | none => c
  | some (n, d, mode, corner) =>
    if k < n then c
    else { c with d := d, dcMode := mode, corner := corner, dNext := none, m := if mode = 0 then 0 else c.m }

/-- Every enabled channel of a leaf settles again (R385, R386). -/
def Leaf.micResettle (x : Leaf) : Leaf :=
  (x.mics.chans.filter fun p => x.micMasked p.1).foldl (fun x p =>
    x.modMic p.1 fun c => { c with settle := settleFrames (x.micClock (p.1 / 16)).ratio c.d }) x

/-- One frame of a channel ends (R381 to R386): the leaf, and 1 for a frame lost in a gate, 2 for a
lengthened and 3 for a shortened frame. A slip, which every channel of the clock takes, counts once, a lost
frame once for each channel (DESIGN CHOICE, log entry 74). -/
def Leaf.micFrame (x : Leaf) (ch : Nat) (bits : List Bool) : Leaf × Nat :=
  let k := x.clk.dom.sample
  let x := x.micMaskTick ch k
  let ck := x.micClock (ch / 16)
  let put : Int → MicChan → MicChan := fun v c => { c with recent := push 4 (k, v) c.recent }
  if !ck.on || !bit ck.mask (ch % 16) then (x.modMic ch fun c => put 0 (c.next k), 0)
  else
    let locked := ck.locked x.clk.dom.rate
    let fs := x.fs
    let endAt := if locked then (2 * x.clk.dom.count + 1) * 1000000000 / (2 * fs) else x.now
    let free := if locked then 0 else 4
    if x.clk.audio.gated then
      (x.modMic ch fun c =>
        let c := (put 0 (c.next k)).write endAt (2 + free) 0
        { c with gaps := (c.gaps + 1) % 4294967296, settle := settleFrames ck.ratio c.d }, 1)
    else
      let fout : Rat := (audioHz x.clk.dom.rate : Rat) * 65536 / (((65536 * ck.n + ck.f) * ck.ratio : Nat) : Rat)
      let c := (x.mic ch).next k
      let r := c.frame ck.ratio fout bits
      let slip := if !locked then 0 else if ck.ratio < bits.length then 2 else if bits.length < ck.ratio then 3 else 0
      let counted := slip != 0 && ck.slipAt != some k
      let v := if r.1.settle = 0 then r.2 else 0
      let fl := (if r.1.settle = 0 then 0 else 1) + free + (if slip = 0 then 0 else 8)
      let q := (put v { r.1 with settle := r.1.settle - 1 }).write endAt fl v
      let x := x.modMic ch fun _ => q
      let x := if counted then x.modMicClock (ch / 16) fun c => { c with slips := (c.slips + 1) % 4294967296, slipAt := some k } else x
      (x.eachRun fun run => run.capture ch k endAt (a32to40 v), if counted then slip else 0)

/-- `MIC_FRAME_END` (R381): a decimation frame of a channel ends with the PDM bits of its periods. -/
def execMicFrameEnd (l : LeafId) (ch : Nat) (bits : List Bool) (s : State) : Res :=
  if 128 ≤ ch then .next s else
    let r := (s.leaf l).micFrame ch bits
    let s := s.setLeaf l r.1
    let rep : Rep := { subject := ch / 16, sev := 2, count := 1 }
    .next (match r.2 with
      | 0 => s
      | 1 => s.reportOn (s.fnOf l) l { rep with code := 0x0CF1 }
      | k => s.reportOn (s.fnOf l) l { rep with code := 0x0CF0, front := le8 (k - 2) })

/-- What a microphone channel gives the render at sample n (R381). -/
def Leaf.micSample (x : Leaf) (ch n : Nat) : Int :=
  a32to40 (((x.mic ch).recent.find? fun p => p.1 + 2 == n).map Prod.snd |>.getD 0)

/-! Group 0x0C. -/

/-- Effect of `MIC_CLOCK` (R375, R385, R389). -/
def runMicClock (c : Ctx) (m : Cmd) (_ : List Byte) (x : Leaf) : LEff :=
  let b := m.body
  let k := u8 b 0
  let q := x.micClock k
  let same := q.ratio == u16 b 2 && q.n == u16 b 4 && q.f == u16 b 6
  let some' := q.mask != 0 || ((q.newMask.map fun p => p.2 != 0).getD false)
  if u8 b 1 = 1 ∧ x.clk.dom.rate = 0 then .no x sBadState
  else if !same && some' then .no x sBadState
  else
    let set' : MicClock → MicClock := fun q => { q with ratio := u16 b 2, n := u16 b 4, f := u16 b 6 }
    let off : MicClock → MicClock := fun q =>
      if some' then { q with newMask := some (c.n, 0), stopping := true } else { q with on := false }
    { x := x.modMicClock k fun q => if u8 b 1 = 1 then { set' q with on := true, stopping := false } else off (set' q) }

/-- `MIC_CLOCK` (R389). -/
def specMicClock : Spec where
  op := 0x0C01
  len := fixedLen 8
  timed := true
  fields := fun s c =>
    let b := c.body
    [(0, decide (u8 b 0 < 8)), rng 1 (u8 b 1) 0 1, rng 2 (u16 b 2) 4 256,
     (4, pdmOk (s.fnDom c.fn).rate (u16 b 4) (u16 b 6))]
  run := onLeaves runMicClock

/-- `MIC_ENABLE` (R384). -/
def specMicEnable : Spec where
  op := 0x0C02
  len := fixedLen 8
  timed := true
  fields := fun _ c => [(0, decide (u8 c.body 0 < 8)), resv c 1 1, resv c 4 4]
  run := onLeaves fun g c _ x =>
    { x := x.modMicClock (u8 c.body 0) fun q => { q with newMask := some (g.n, u16 c.body 2) } }

/-- Effect of `MIC_CONFIG` (R385). -/
def runMicConfig (g : Ctx) (m : Cmd) (_ : List Byte) (x : Leaf) : LEff :=
  let b := m.body
  let is := span (u8 b 0) (u8 b 1)
  let ring := bit (u8 b 2) 2
  if ring && is.any x.micMasked then .no x sBadState
  else
    let one : MicChan → MicChan := fun c =>
      let old := c.dNext.getD (0, c.d, c.dcMode, c.corner)
      let dc := bit (u8 b 2) 1
      let nx := (g.n, if bit (u8 b 2) 0 then u8 b 4 else old.2.1, if dc then u8 b 3 else old.2.2.1,
                 if dc then u16 b 6 else old.2.2.2)
      let c := if bit (u8 b 2) 0 || dc then { c with dNext := some nx } else c
      if ring then { c with k := u8 b 5, ring := [], cur := {} } else c
    let y := is.foldl (fun y i => y.modMic i one) x
    if ring && (decide (2147483648 < y.ringBytes) || decide (12884901888 < y.waveBytes + y.clipBytes + y.ringBytes)) then
      .no x sNoCapacity
    else { x := y }

/-- `MIC_CONFIG` (R389). -/
def specMicConfig : Spec where
  op := 0x0C03
  len := fixedLen 12
  timed := true
  fields := fun _ c =>
    let b := c.body
    let sel : Nat → Bool → Bool := fun i ok => !bit (u8 b 2) i || ok
    [(0, decide (u8 b 0 < 128)), (1, decide (1 ≤ u8 b 1) && decide (u8 b 0 + u8 b 1 ≤ 128)), (2, decide (u8 b 2 < 8)),
     (3, sel 1 (decide (u8 b 3 < 3))), (5, sel 2 (within 12 22 (u8 b 5))), (6, sel 1 (within 10 200 (u16 b 6))), resv c 8 4]
  run := onLeaves runMicConfig

/-- One block of a ring as bytes (R389). -/
def MicBlock.bytes (b : MicBlock) : List Byte :=
  le64 b.endAt ++ le32 b.seq ++ le16 b.flags ++ zeros 2 ++ b.frames.flatMap sle32

/-- `MIC_READ` (R389). A ring that does not hold that many complete blocks yet ends in `BAD_STATE`
(DESIGN CHOICE, log entry 74). -/
def specMicRead : Spec where
  op := 0x0C04
  len := fixedLen 32
  fields := fun s c =>
    let b := c.body
    let k := ((s.fnLeaf c.fn).map fun x => (x.mic (u8 b 0)).k).getD 16
    [(0, decide (u8 b 0 < 128)), resv c 1 1, rng 2 (u16 b 2) 1 (2 ^ k / 64 : Nat), resv c 4 12, (24, u32 b 24 == 272 * u16 b 2)]
  refs := fun _ => [16]
  toHost := true
  run := onLeaves fun _ c _ x =>
    let q := x.mic (u8 c.body 0)
    let n := u16 c.body 2
    if q.ring.length < n then .no x sBadState
    else { x := x, out := some ((q.ring.take n).reverse.flatMap MicBlock.bytes) }

/-- The response of `MIC_QUERY` (R389). -/
def micQueryResp (x : Leaf) (i : Nat) : List Byte :=
  let q := x.mic i
  let k := x.micClock (i / 16)
  let d : Rat := ((65536 * k.n + k.f : Nat) : Rat)
  let st := if !x.micMasked i then 0 else if q.settle = 0 then 2 else 1
  le8 st ++ le8 (b2n (k.locked x.clk.dom.rate)) ++ le16 q.settle ++
    le32 (if k.ratio = 0 then 0 else (roundEven (groupDelay k.ratio q.d * 1024)).toNat) ++
    f32le (if d = 0 then 0 else (audioHz x.clk.dom.rate : Rat) * 65536 / d) ++ le16 k.ratio ++ le8 q.dcMode ++ le8 q.d ++
    sle16 (cdbOf (absQ q.m)) ++ zeros 2 ++ le32 k.slips ++ le32 q.gaps ++ le32 (2 ^ q.k)

/-- `MIC_QUERY` (R389). -/
def specMicQuery : Spec where
  op := 0x0C05
  len := fixedLen 4
  fields := fun _ c => [(0, decide (u8 c.body 0 < 128)), resv c 1 3]
  run := onLeaves fun _ c _ x => { x := x, resp := micQueryResp x (u8 c.body 0) }

end Sys2Proof.Machine
end

