-- ==== Sys2Proof/Machine/Net.lean ====
section
/-! DEFINITION. Ethernet ports, frames, host rings and media streams (chapter 12), and the commands of
group 0x0A. -/

namespace Sys2Proof.Machine

/-! Ports (R315 to R320). -/

/-- A port of a leaf. -/
def Leaf.port (x : Leaf) (p : Nat) : Port := if p = 0 then x.port0 else x.port1
/-- A leaf with one port changed. -/
def Leaf.modPort (x : Leaf) (p : Nat) (f : Port → Port) : Leaf :=
  if p = 0 then { x with port0 := f x.port0 } else { x with port1 := f x.port1 }
/-- A state with one port changed. -/
def State.modPort (s : State) (l : LeafId) (p : Nat) (f : Port → Port) : State :=
  s.modLeaf l fun x => x.modPort p f

/-- The address that a port uses (R317, R341). -/
def Port.address (p : Port) (l : LeafId) (i : Nat) : Nat :=
  if p.useMac then p.mac else (Config.factoryMac l i).toNat

/-- `link` of `NET_QUERY` (R341). -/
def Port.linkCode (p : Port) : Nat := if p.link then p.lineMode else 0

/-- The number of a port in commands and events (R339). -/
def State.portNo (s : State) (l : LeafId) (p : Nat) : Nat := if s.twin then l.num * 2 + p else p

/-- `NET_LINK` (R318, R342). -/
def State.linkEvent (s : State) (l : LeafId) (p : Nat) : State :=
  let q := (s.leaf l).port p
  s.leafEvent l 0x0AF0 2 4294967295 (le8 (s.portNo l p) ++ le8 q.linkCode) 255 (if q.link then 2 else 0)

/-- A port's link goes down: the media packets that wait are discarded and counted (R318). -/
def State.linkDown (s : State) (l : LeafId) (p : Nat) : State :=
  let q := (s.leaf l).port p
  if !q.link then s else
    (s.modPort l p fun q =>
      { q with link := false, media := [], held := [], waitLock := (s.leaf l).now,
               txDropped := (q.txDropped + q.media.length) % 4294967296 }).linkEvent l p

/-- `NET_LINK_CHANGE`: block lock is lost or gained (R318). -/
def execNetLinkChange (l : LeafId) (port : Nat) (up : Bool) (s : State) : Res :=
  let q := (s.leaf l).port port
  .next <|
    if 2 ≤ port then s
    else if !up then s.linkDown l port
    else if q.link || q.lineMode = 0 || q.los || s.alive l = false then s
    else (s.modPort l port fun q => { q with link := true }).linkEvent l port

/-- `NET_FEC_FALLBACK`: in mode 4, 2 s without block lock switch the line mode (R315). -/
def execNetFecFallback (l : LeafId) (port : Nat) (s : State) : Res :=
  let q := (s.leaf l).port port
  .next <|
    if 2 ≤ port ∨ q.mode ≠ 4 ∨ q.link = true ∨ (s.leaf l).now < q.waitLock + 2000000000 then s
    else s.modPort l port fun q => { q with lineMode := if q.lineMode = 2 then 3 else 2, waitLock := (s.leaf l).now }

/-! Transmit (R319, R320, R338). -/

/-- The VLAN tag of a tagged port, in front of the EtherType (R338, R341). -/
def Port.tag (q : Port) (queue : Nat) (frame : List Byte) : List Byte :=
  if q.vlan = 0 then frame else
    let pcp := if 5 ≤ queue then q.pcpMedia else q.pcpOther
    frame.take 12 ++ beBytes 2 0x8100 ++ beBytes 2 (pcp * 8192 + q.vlan) ++ frame.drop 12

/-- A frame as it leaves the port: padded to 64 bytes with its FCS (R325). -/
def withFcs (frame : List Byte) : List Byte :=
  let f := frame ++ zeros (60 - frame.length)
  f ++ leBytes 4 (crc32 f)

/-- A frame leaves a port. -/
def State.wire (s : State) (l : LeafId) (p queue stream : Nat) (frame : List Byte) : State :=
  s.send { kind := if queue = 6 then 3 else if queue = 7 ∨ queue = 5 then 7 else 2, unit := l.num * 2 + p,
           a := stream, b := queue, data := withFcs frame }

/-- A frame goes to a transmit queue of a port: it leaves at once unless the queue is stopped (R319,
R320), and a port that is down discards it (R318). -/
def State.portSend (s : State) (l : LeafId) (p queue : Nat) (frame : List Byte) (stream : Nat := 0) : State :=
  let q := (s.leaf l).port p
  let frame := q.tag queue frame
  if !q.link then
    (if queue = 6 then s.modPort l p fun q => { q with txDropped := (q.txDropped + 1) % 4294967296 } else s)
  else if bit q.stopped queue then
    s.modPort l p fun q =>
      if queue = 6 then
        { q with media := q.media ++ [{ stream := stream, at_ := (s.leaf l).now, frame := frame }] }
      else { q with held := q.held ++ [(queue, frame)] }
  else s.wire l p queue stream frame

/-- The queues of a port resume, in strict priority (R319, R320). -/
def State.resumePort (s : State) (l : LeafId) (p : Nat) : State :=
  let q := (s.leaf l).port p
  let s := s.modPort l p fun q => { q with stopped := 0, media := [], held := [] }
  let put : Nat → State → State := fun k s =>
    (q.held.filter fun h => h.1 == k).foldl (fun s h => s.wire l p k 0 h.2) s
  let s := put 7 s
  let s := q.media.foldl (fun s m => s.wire l p 6 m.stream m.frame) s
  [5, 4, 3, 2, 1, 0].foldl (fun s k => put k s) s

/-- `PAUSE_QUANTA_EXPIRE` (R320). -/
def execPauseQuantaExpire (l : LeafId) (port : Nat) (s : State) : Res :=
  .next (if 2 ≤ port ∨ ((s.leaf l).port port).stopped = 0 then s else s.resumePort l port)

/-- `MEDIA_TX_DISCARD`: the oldest media packet that has waited 1 ms under PAUSE is discarded (R320). -/
def execMediaTxDiscard (l : LeafId) (port : Nat) (s : State) : Res :=
  let q := (s.leaf l).port port
  .next <|
    match q.media with
    | [] => s
    | m :: r =>
      if 2 ≤ port ∨ bit q.stopped 6 = false ∨ (s.leaf l).now < m.at_ + 1000000 then s else
        let s := s.modPort l port fun q => { q with media := r, txDropped := (q.txDropped + 1) % 4294967296 }
        s.reportOn (s.fnOf l) l
          { code := 0x0AF4, subject := m.stream, sev := 2, front := le8 port, count := 1 }

/-! Frames. -/

/-- An Ethernet header and payload
(PRESUMED, log entry 13). -/
def etherFrame (dst src type_ : Nat) (body : List Byte) : List Byte :=
  beBytes 6 dst ++ beBytes 6 src ++ beBytes 2 type_ ++ body

/-- The IPv4 identification and fragment word of a sent packet, which no rule gives
(DESIGN CHOICE, log entry 19). -/
def ipIdent (key : List Rat) : Nat := (Config.of "ipv4Identification" key).floor.toNat % 4294967296

/-- An IPv4 packet without options
(PRESUMED, log entry 13). -/
def ipPacket (tos ident ttl proto src dst : Nat) (body : List Byte) : List Byte :=
  let h : Nat → List Byte := fun sum =>
    beBytes 1 0x45 ++ beBytes 1 tos ++ beBytes 2 (20 + body.length) ++ beBytes 4 ident ++ beBytes 1 ttl ++
      beBytes 1 proto ++ beBytes 2 sum ++ beBytes 4 src ++ beBytes 4 dst
  h (inetSum (h 0) 0) ++ body

/-- A UDP datagram with its checksum (R338)
(PRESUMED, log entry 13). -/
def udpPacket (src dst sport dport : Nat) (body : List Byte) : List Byte :=
  let n := 8 + body.length
  let h : Nat → List Byte := fun sum => beBytes 2 sport ++ beBytes 2 dport ++ beBytes 2 n ++ beBytes 2 sum ++ body
  let c := inetSum (beBytes 4 src ++ beBytes 4 dst ++ beBytes 2 17 ++ beBytes 2 n ++ h 0) 0
  h (if c = 0 then 65535 else c)

/-- An address is a multicast group. -/
def isGroup (ip : Nat) : Bool := within 224 239 (ip / 16777216)
/-- The Ethernet address of a multicast group. -/
def groupMac (ip : Nat) : Nat := 0x01005E000000 + ip % 8388608

/-- An ARP packet of a port
(PRESUMED, log entry 13). -/
def arpPacket (op mac ip dmac dip : Nat) : List Byte :=
  beBytes 2 1 ++ beBytes 2 0x0800 ++ [6, 4] ++ beBytes 2 op ++ beBytes 6 mac ++ beBytes 4 ip ++ beBytes 6 dmac ++ beBytes 4 dip

/-- Send an IGMP membership report or leave of a group, whose bytes no rule gives (R317, R329). -/
def State.igmp (s : State) (l : LeafId) (p group : Nat) (join : Bool) : State :=
  let q := (s.leaf l).port p
  let body := Config.bytesOf (if join then "igmpReport" else "igmpLeave") (beBytes 4 group)
  s.portSend l p 4 (etherFrame (groupMac group) (q.address l p) 0x0800
    (ipPacket 0 (ipIdent [(group : Rat)]) 1 2 q.ip group body))

/-- Ask by ARP for a unicast destination, or for the gateway of one off the port's subnet (R317). -/
def State.arpAsk (s : State) (l : LeafId) (p ip : Nat) : State :=
  let q := (s.leaf l).port p
  let net : Nat → Nat := fun a => a / 2 ^ (32 - q.plen)
  let target := if net ip = net q.ip ∨ q.gateway = 0 then ip else q.gateway
  s.portSend l p 4 (etherFrame 0xFFFFFFFFFFFF (q.address l p) 0x0806 (arpPacket 1 (q.address l p) q.ip 0 target))

/-- A received frame taken apart. -/
structure Frame where
  dst : Nat := 0
  src : Nat := 0
  vlan : Option Nat := none
  etherType : Nat := 0
  body : List Byte := []
  ip : Bool := false
  badSum : Bool := false
  proto : Nat := 0
  srcIp : Nat := 0
  dstIp : Nat := 0
  udp : Bool := false
  srcPort : Nat := 0
  dstPort : Nat := 0
  data : List Byte := []

/-- Take a frame apart, its FCS left out
(PRESUMED, log entry 13). -/
def parseFrame (b : List Byte) : Frame :=
  let tagged := beAt b 12 2 == 0x8100
  let k := if tagged then 16 else 12
  let body := b.drop (k + 2)
  let f : Frame := { dst := beAt b 0 6, src := beAt b 6 6, vlan := if tagged then some (beAt b 14 2 % 4096) else none,
                     etherType := beAt b k 2, body := body }
  if f.etherType ≠ 0x0800 ∨ beAt body 0 1 / 16 ≠ 4 then f else
    let hl := beAt body 0 1 % 16 * 4
    let pay := (body.take (beAt body 2 2)).drop hl
    let proto := beAt body 9 1
    let src := beAt body 12 4
    let dst := beAt body 16 4
    let sum := inetSum (body.take hl) 0
    let udp := proto == 17 && beAt body 6 2 % 8192 == 0
    let un := beAt pay 4 2
    let usum := inetSum (beBytes 4 src ++ beBytes 4 dst ++ beBytes 2 17 ++ beBytes 2 un ++ pay.take un) 0
    { f with ip := true, badSum := sum != 0 || (udp && beAt pay 6 2 != 0 && usum != 0), proto := proto, srcIp := src,
             dstIp := dst, udp := udp, srcPort := if udp then beAt pay 0 2 else 0,
             dstPort := if udp then beAt pay 2 2 else 0, data := if udp then (pay.take un).drop 8 else pay }

/-! Ingress streams (R329 to R334). -/

/-- A leg of a stream. -/
def RxStream.leg (q : RxStream) (i : Nat) : RxLeg := if i = 0 then q.leg0 else q.leg1
/-- A stream with one leg changed. -/
def RxStream.modLeg (q : RxStream) (i : Nat) (f : RxLeg → RxLeg) : RxStream :=
  if i = 0 then { q with leg0 := f q.leg0 } else { q with leg1 := f q.leg1 }
/-- A leg is configured. -/
def RxSet.hasLeg (r : RxSet) (i : Nat) : Bool := bit r.flags i
/-- Destination of a leg. -/
def RxSet.group (r : RxSet) (i : Nat) : Nat := if i = 0 then r.group0 else r.group1
/-- Source filter of a leg. -/
def RxSet.source (r : RxSet) (i : Nat) : Nat := if i = 0 then r.source0 else r.source1
/-- UDP port of a leg. -/
def RxSet.udp (r : RxSet) (i : Nat) : Nat := if i = 0 then r.port0 else r.port1
/-- Bytes of one sample of a channel in a packet. -/
def wireBytes (format : Nat) : Nat := if format = 0 then 3 else 4

/-- The groups that the legs of a leaf's streams have joined on a port, each once (R317, R329). -/
def Leaf.joinedOn (x : Leaf) (p : Nat) : List Nat :=
  (x.scenes.flatMap fun sc => sc.net.rx.flatMap fun q => (q.2.leg p).joined).eraseDups

/-- The groups that a leg of a stream has joined change: a group that no leg on the port holds any more is
left, a new one is joined (R317, R329, R333). -/
def State.setJoined (s : State) (l : LeafId) (i p : Nat) (gs : List Nat) : State :=
  let old := (s.leaf l).joinedOn p
  let s := s.modLeaf l fun x => x.modScene fun sc => sc.modRx i fun q => q.modLeg p fun g => { g with joined := gs }
  let new := (s.leaf l).joinedOn p
  let s := (old.filter fun g => !new.contains g).foldl (fun s g => s.igmp l p g false) s
  (new.filter fun g => !old.contains g).foldl (fun s g => s.igmp l p g true) s

/-- The group of a leg of settings, where it has one. -/
def RxSet.groupOf (r : RxSet) (p : Nat) : List Nat := if r.hasLeg p && isGroup (r.group p) then [r.group p] else []

/-- A stream's legs hold the groups of its settings while it is enabled, and none otherwise (R329, R333). -/
def State.settleGroups (s : State) (l : LeafId) (i : Nat) : State :=
  [0, 1].foldl (fun s p =>
    let q := (s.leaf l).scene.rx i
    s.setJoined l i p (if q.on then q.set.groupOf p else [])) s

/-- The joins that validation sends for new settings of a stream (R329, R339). -/
def State.stageGroups (s : State) (l : LeafId) (i : Nat) (new : RxSet) : State :=
  [0, 1].foldl (fun s p =>
    s.setJoined l i p ((((s.leaf l).scene.rx i).leg p).joined ++ new.groupOf p).eraseDups) s

/-- A packet addressed to a leg of an enabled stream (R321). -/
def RxStream.addressed (q : RxStream) (leg : Nat) (f : Frame) : Bool :=
  q.on && q.set.hasLeg leg && f.udp && f.dstIp == q.set.group leg && f.dstPort == q.set.udp leg

/-- A packet addressed to a leg of an enabled stream that its source filter lets through (R329). -/
def RxStream.hears (q : RxStream) (leg : Nat) (f : Frame) : Bool :=
  q.addressed leg f && (q.set.source leg == 0 || q.set.source leg == f.srcIp)

/-- The stream of a scene that a frame on a port feeds. -/
def Scene.rxFor (x : Scene) (leg : Nat) (f : Frame) : Option Nat :=
  (x.net.rx.find? fun p => p.2.hears leg f).map Prod.fst

/-- An RTP packet taken apart: whether it conforms in form, sequence number, timestamp, marker, claim
and payload (R329, R335). -/
structure Rtp where
  ok : Bool := false
  ptype : Nat := 0
  seq : Nat := 0
  ts : Nat := 0
  marker : Bool := false
  claim : Option Nat := none
  payload : List Byte := []

/-- The element of an ID among one-byte header extension elements (RFC 8285): its first data byte. -/
def extElement (id : Nat) : Nat → List Byte → Option Nat
  | 0, _ => none
  | _, [] => none
  | n + 1, h :: r =>
    let k := h.toNat
    if k = 0 then extElement id n r
    else if k / 16 = 15 then none
    else if k / 16 = id then (if k % 16 = 0 then r.head?.map BitVec.toNat else none)
    else extElement id n (r.drop (k % 16 + 1))

/-- Take an RTP packet apart
(PRESUMED, log entry 13). -/
def parseRtp (d : List Byte) (ext : Nat) : Rtp :=
  let b0 := u8 d 0
  let h := 12 + 4 * (b0 % 16)
  let x := bit b0 4
  let words := beAt d (h + 2) 2
  let claim := if x && beAt d h 2 == 0xBEDE then
      (extElement ext 256 ((d.drop (h + 4)).take (4 * words))).map fun v => v / 16 else none
  let h2 := if x then h + 4 + 4 * words else h
  { ok := b0 / 64 == 2 && !bit b0 5 && decide (h2 ≤ d.length), ptype := u8 d 1 % 128, seq := beAt d 2 2,
    ts := beAt d 4 4, marker := bit (u8 d 1) 7, claim := claim, payload := d.drop h2 }

/-- Media-clock count from which sample count `c` enters the render, modulo 2^32: the count that the
coming sample wants (R330). -/
def RxStream.wanted (q : RxStream) (count : Nat) : Nat := (count + 4294967296 - q.set.link % 4294967296) % 4294967296

/-- A held copy is worse than one that arrives later (R331). -/
def worseCopy (byClaim : Bool) (old new : Option Nat) : Bool :=
  match old, new with
  | some a, some b => (byClaim && decide (a < b)) || (a == 0 && b != 0)
  | some a, none => a == 0
  | none, some b => byClaim && b != 0
  | none, none => false

/-- The distance of a count from another, modulo 2^32, as a signed number. -/
def countDiff (a b : Nat) : Int := signed 32 ((a + 4294967296 - b % 4294967296) % 4294967296)

/-- A conforming packet of a leg (R329 to R332): the sequence bookkeeping and the jitter buffer.
`next` is the media-clock count of the coming sample of the stream's domain. -/
def RxStream.accept (q : RxStream) (leg : Nat) (p : Rtp) (stamp next : Nat) : RxStream :=
  let g := q.leg leg
  let miss := match g.seq with
    | none => 0
    | some e => let d := (p.seq + 65536 - e) % 65536; if d < 32768 then d else 0
  let fwd := match g.seq with
    | none => true
    | some e => decide ((p.seq + 65536 - e) % 65536 < 32768)
  let q := q.modLeg leg fun g =>
    { g with live := true, lost := false, at_ := stamp, missing := (g.missing + miss) % 4294967296,
             seq := if fwd then some ((p.seq + 1) % 65536) else g.seq }
  let count := (p.ts + 4294967296 - q.set.tsOffset) % 4294967296
  let past := countDiff (q.wanted next) count
  let q := if 0 < past ∧ q.set.kind ≠ 1 then { q with late := (q.late + 1) % 4294967296 } else q
  let dup := q.buf.find? fun r => r.seq == p.seq
  if q.set.kind = 1 then
    (match dup with
     | some _ => q
     | none => { q with buf := push 64 { seq := p.seq, count := count, used := true } q.buf, packets := (q.packets + 1) % 4294967296,
                        claim := p.claim.getD 255, started := true,
                        adm := if p.marker then p.payload else q.adm ++ p.payload })
  else match dup with
    | some r =>
      if r.count ≠ count then { q with badFormat := (q.badFormat + 1) % 4294967296, cause := 2 }
      else if worseCopy (bit q.set.flags 2) r.claim p.claim then
        { q with buf := mapIf (fun r => r.seq == p.seq) (fun r => { r with claim := p.claim, payload := p.payload }) q.buf }
      else q
    | none =>
      if past ≤ 0 then
        { q with buf := q.buf ++ [{ seq := p.seq, count := count, claim := p.claim, at_ := stamp, payload := p.payload }] }
      else
        let q := { q with cause := 1 }
        if (q.set.samples : Int) ≤ past then q
        else { q with buf := q.buf ++ [{ seq := p.seq, count := count, claim := p.claim, at_ := stamp,
                                          payload := p.payload, late := true }] }

/-- A packet conforms to a stream (R329). -/
def RxSet.conforms (r : RxSet) (p : Rtp) : Bool :=
  p.ok && p.ptype == r.ptype &&
    (r.kind == 1 || p.payload.length == r.samples * r.channels * wireBytes r.format)

/-- A sample of a packet as A40 (R102, R329). -/
def wireSample (format : Nat) (b : List Byte) (i : Nat) : Int :=
  if format = 0 then l24to40 (signed 24 (beAt b (3 * i) 3)) else a32to40 (signed 32 (beAt b (4 * i) 4))

/-- The samples of all channels of a packet at one sample of it
(DESIGN CHOICE, log entry 46). -/
def RxSet.samplesAt (r : RxSet) (payload : List Byte) (k : Nat) : List Int :=
  (List.range r.channels).map fun c => wireSample r.format payload (k * r.channels + c)

/-- A sample scaled by a linear fade. -/
def fadeMul (v : Int) (num den : Nat) : Int :=
  if den ≤ num then v else scale v (((num : Nat) : Rat) / ((den : Nat) : Rat))

/-- One sample of an enabled stream (R330 to R332): the stream, and whether the sample is concealed.
`count` is the media-clock count of the sample at `n` in the stream's domain. -/
def RxStream.tick (q : RxStream) (fs count n : Nat) : RxStream × Bool :=
  if q.set.kind = 1 then (q, false)
  else if !q.on && q.off.isNone then ({ q with now := [] }, false)
  else if q.on && decide (n < q.from_) then ({ q with now := [] }, false)
  else
    let past := match q.off with
      | none => false
      | some n0 => decide (n0 + 32 ≤ n)
    if !q.on && past then
      ({ q with off := none, set := q.after.getD q.set, after := none, now := [], buf := [], started := false, gap := 0, back := 32,
                lastV := [] }, false)
    else
      let want := q.wanted count
      let here := q.buf.find? fun r => within 0 ((q.set.samples : Int) - 1) (countDiff want r.count)
      let down : List Int → List Int := fun v =>
        match q.off with
        | none => v
        | some n0 => if n < n0 then v else v.map fun w => fadeMul w (31 - (n - n0)) 32
      let keep : List RxPacket → List RxPacket := fun b => b.filter fun r => decide (countDiff want r.count < (q.set.samples : Int))
      match here with
      | some r =>
        let v := q.set.samplesAt r.payload (countDiff want r.count).toNat
        let back := if q.gap = 0 then min 32 (q.back + 1) else 1
        let back := if !q.started ∨ q.set.conceal = 0 then 32 else back
        let commit := countTns fs (count - (countDiff want r.count).toNat) + 40
        let margin : Int := (commit : Int) - (r.at_ : Int)
        let now := countTns fs count
        let q1 := if r.used then q else
          { q with packets := (q.packets + 1) % 4294967296,
                   margins := (r.at_, margin) :: q.margins.filter fun m => decide (now < m.1 + 1000000000) }
        ({ q1 with
            started := true, lastV := v, gap := 0, back := back, cause := 0, claim := r.claim.getD 255,
            now := down (v.map fun w => fadeMul w back 32),
            buf := keep (mapIf (fun p => p.seq == r.seq) (fun p => { p with used := true }) q.buf) }, false)
      | none =>
        if !q.started then ({ q with now := [], buf := keep q.buf }, false)
        else
          let gap := q.gap + 1
          let v := if q.set.conceal = 0 then q.lastV.map fun _ => 0 else q.lastV.map fun w => fadeMul w (32 - gap) 32
          ({ q with gap := gap, back := 0, concealed := if q.on then (q.concealed + 1) % 4294967296 else q.concealed, now := down v,
                    buf := keep q.buf }, q.on)

/-- The rate domain of a stream in the leaf: its frequency and the count of its coming meridian. -/
def Leaf.streamClock (x : Leaf) (d : Nat) : Nat × Nat :=
  let k := x.domain d
  (rateHz k.rate, k.nextCount)

/-- A media packet arrives on a leg (R329): the leaf, and whether the leg was lost before it. -/
def Leaf.media (x : Leaf) (stream leg : Nat) (d : List Byte) (stamp : Nat) : Leaf × Bool :=
  let q := x.scene.rx stream
  let p := parseRtp d q.set.ext
  let k := x.streamClock q.set.domain
  if k.1 = 0 ∨ q.set.conforms p = false then
    (x.modScene fun sc => sc.modRx stream fun q => { q with badFormat := (q.badFormat + 1) % 4294967296, cause := 2 }, false)
  else (x.modScene fun sc => sc.modRx stream fun q => q.accept leg p stamp k.2, (q.leg leg).lost)

/-- A leg of an enabled stream has delivered nothing for 10 packet times, or for 10 ms, whichever is longer
(R329). -/
def Leaf.legLost (x : Leaf) (stream leg : Nat) : Bool :=
  let q := x.scene.rx stream
  let g := q.leg leg
  let fs := (x.streamClock q.set.domain).1
  let wait := if fs = 0 then 10000000 else max 10000000 (10 * q.set.samples * 1000000000 / fs)
  decide (stream < 64) && decide (leg < 2) && q.on && q.set.hasLeg leg && !g.lost && decide (g.at_ + wait ≤ x.now)

/-- `NET_LEG_LOST`: no packet for 10 packet times or 10 ms, whichever is longer (R329). -/
def execNetLegLost (l : LeafId) (stream leg : Nat) (s : State) : Res :=
  .next <| s.eachScene l fun s =>
    if (s.leaf l).legLost stream leg then
      (s.modLeaf l fun x => x.modScene fun sc => sc.modRx stream fun q =>
        q.modLeg leg fun g => { g with live := false, lost := true }).leafEvent l 0x0AF2 2 stream (le8 leg)
    else s

/-! Host rings (R323 to R328). -/

/-- The default ring. -/
def ring0 : HostRing := {}
/-- A host ring of a scene: port × 16 + ring. -/
def Scene.ring (x : Scene) (k : Nat) : HostRing := tget x.net.rings k ring0
/-- A host ring changes; in twin mode both leaves keep the function's rings, for the plinth reads them once and
either may come to return the descriptors (R328). -/
def State.modRing (s : State) (l : LeafId) (k : Nat) (f : HostRing → HostRing) : State :=
  let g : Leaf → Leaf := fun x => x.modScene fun sc => { sc with net := { sc.net with rings := tmod sc.net.rings k ring0 f } }
  let s := s.modLeaf l g
  if s.twin then s.modLeaf l.other g else s

/-- The host rings of a leaf's function run (R31, R323). -/
def State.ringsRun (s : State) (l : LeafId) : Bool :=
  let m := (s.fn (s.fnOf l)).mail
  m.bme && !m.d3 && s.plinth.link

/-- A write to host memory
(DESIGN CHOICE, log entry 43). -/
def State.hostWrite (s : State) (l : LeafId) (addr : Nat) (b : List Byte) : State :=
  s.send { kind := 1, unit := (s.fnOf l).num, a := addr, data := b }

/-- `NET_RING_PENDING` (R327, R342). -/
def State.ringEvent (s : State) (l : LeafId) (k : Nat) : State :=
  let r := (s.leaf l).scene.ring k
  let now := (s.leaf l).now
  let due := match r.reported with
    | none => true
    | some t => decide (t + r.interval * 1000 ≤ now)
  if r.on && r.event && decide (0 < r.returned) && due then
    (s.modRing l k fun r => { r with returned := 0, reported := some now }).leafEvent l 0x0AF3 0 (k % 16)
      (le8 (k / 16) ++ le8 (if 4 ≤ k % 16 then 0 else 1) ++ le16 (r.returned % 65536))
  else s

/-- `NET_RING_PENDING`: the event interval of a ring ends with descriptors returned (R327). -/
def execNetRingPending (l : LeafId) (ring : Nat) (s : State) : Res := .next (s.ringEvent l ring)

/-- Return `n` descriptors of a ring. -/
def State.ringReturn (s : State) (l : LeafId) (k n : Nat) : State :=
  (s.modRing l k fun r =>
    { r with idx := if r.size = 0 then 0 else (r.idx + n) % r.size, ready := r.ready.drop n, returned := r.returned + n }).ringEvent l k

/-- Deliver a received frame into a host receive ring (R322, R324, R326). `flags` holds the error flags
that apply, at their places in the descriptor. -/
def State.deliver (s : State) (l : LeafId) (port k filter : Nat) (frame : List Byte) (flags stamp : Nat) : State :=
  let r := (s.leaf l).scene.ring k
  let short : State → State := fun s => s.modPort l port fun q => { q with rxNobuf := (q.rxNobuf + 1) % 4294967296 }
  let trunc := decide (9216 < frame.length)
  let data := frame.take 9216
  let need := (data.length + 2047) / 2048
  let have_ := min need r.ready.length
  if !s.ringsRun l || have_ = 0 then short s else
    let dry := decide (have_ < need)
    let tsOk := decide (((s.leaf l).tb (s.leaf l).clk.dom.tb).state < 2)
    let got := data.take (have_ * 2048)
    let errs := flags + (if trunc || dry then 256 else 0)
    let seq := (r.frames + 1) % 4294967296
    let one : State → Nat → State := fun s i =>
      let part := (got.drop (2048 * i)).take 2048
      let last := i + 1 == have_
      let cut := dry && !r.deliverBad
      let fl := (if i = 0 then 2 else 0) + (if last then 4 else 0) + (if cut then 8 else 0) +
        (if last && !cut then errs else 0) + (if tsOk then 512 else 0)
      let s := s.hostWrite l (u64 (r.ready.getD i []) 0) part
      s.hostWrite l (r.base + 32 * ((r.idx + i) % r.size) + 8)
        (le16 part.length ++ le16 fl ++ le16 (if last && !cut then got.length else 0) ++ le8 port ++ le8 filter ++
          le64 (if tsOk then stamp else 0) ++ le32 seq ++ zeros 4)
    let s := (List.range have_).foldl one s
    let s := s.modRing l k fun r => { r with frames := seq }
    let s := if dry then short s else s
    s.ringReturn l k have_

/-- `HOST_RING_POLL` (R323): the leaf reads descriptors of a ring, up to 8 of them, and keeps those
that belong to it up to the first that belongs to the host. -/
def execHostRingPoll (l : LeafId) (ring : Nat) (desc : List Byte) (s : State) : Res :=
  let r := (s.leaf l).scene.ring ring
  let now := (s.leaf l).now
  let ds := (List.range (min 8 (desc.length / 32))).map fun i => slice desc (32 * i) 32
  let mine := ds.takeWhile fun d => bit (u16 d 10) 0
  .next <|
    if r.on = false ∨ s.ringsRun l = false ∨ now < r.polled ∨ r.size < r.ready.length + ds.length then s
    else s.modRing l ring fun r =>
      { r with ready := r.ready ++ mine, polled := if mine.length < ds.length then now + 10000 else r.polled }

/-- How many descriptors at the head of a transmit ring belong together, and whether they make a frame
(R325): none while the frame's end has not been read. -/
def txGroup : Bool → Nat → List (List Byte) → Option (Nat × Bool)
  | _, _, [] => none
  | started, n, d :: r =>
    let f := u16 d 10
    if !started && !bit f 1 then some (1, false)
    else if started && bit f 1 then some (n, false)
    else if bit f 2 then some (n + 1, true)
    else txGroup true (n + 1) r

/-- `NET_TX_FRAME` (R325, R328): the frame at the head of a host transmit ring is sent with the bytes
that the host's buffers hold, and its descriptors are returned. -/
def execNetTxFrame (l : LeafId) (ring : Nat) (frame : List Byte) (s : State) : Res :=
  let r := (s.leaf l).scene.ring ring
  let port := ring / 16
  let queue := ring % 16
  .next <|
    if r.on = false ∨ 4 ≤ queue ∨ 2 ≤ port ∨ s.ringsRun l = false ∨ (s.twin = true ∧ l ≠ s.red.active) then s
    else match txGroup false 0 r.ready with
      | none => s
      | some (n, whole) =>
        let ds := r.ready.take n
        let lens := ds.map fun d => u16 d 8
        let total := lens.sum
        let good := whole && lens.all (fun k => within 1 9212 k) && within 60 9212 total
        let outs : List (LeafId × Nat) := if s.twin then [(.a, 0), (.b, 1)] else [(l, port)]
        let own := if s.twin then l.num else port
        let p := (s.leaf l).port own
        if good && p.link && bit p.stopped queue then s else
          let sent := good && p.link
          let tx := s.fresh "txTime"
          let last := ds.getLastD []
          let req := sent && bit (u16 last 10) 3
          let s := if req then tx.2 else s
          let s := if good then
              outs.foldl (fun s o => if (s.leaf o.1).run = 2 then s.portSend o.1 o.2 queue (padTo total frame) else s) s else s
          let back : State → Nat → State := fun s i =>
            let d := ds.getD i []
            let f := u16 d 10 / 2 * 2
            let f := if sent then f else if bit f 4 then f else f + 16
            let addr := r.base + 32 * ((r.idx + i) % r.size)
            let s := if req && i + 1 = n then s.hostWrite l (addr + 16) (le64 tx.1) else s
            s.hostWrite l (addr + 10) (le16 f)
          ((List.range n).foldl back s).ringReturn l ring n

/-! Reception (R321, R322). -/

/-- Where a frame goes; a media packet that every source filter stops stays with the stream receiver. -/
inductive RxClass where
  | pause
  | filtered
  | ptp
  | media (guest : Bool) (stream : Nat)
  | unheard
  | control
  | host (filter ring : Nat)
deriving DecidableEq, Repr

/-- Multicast groups joined on a port (R317, R321, R329): those of the streams' legs, those of PTP, and the
all-systems group of IGMP. -/
def Leaf.groups (x : Leaf) (port : Nat) : List Nat :=
  (x.joinedOn port).map groupMac ++
  (if x.clk.tbs.any fun p => p.2.source == 1 && p.2.port == port then
    [groupMac 0xE0000181, groupMac 0xE000006B, 0x011B19000000, 0x0180C200000E] else []) ++ [groupMac 0xE0000001]

/-- A host filter matches a frame (R341). -/
def NetFilter.matches (q : NetFilter) (port : Nat) (f : Frame) : Bool :=
  q.ring != 255 && bit q.ports port && (!bit q.tests 0 || f.dst == q.mac) && (!bit q.tests 1 || f.etherType == q.etherType) &&
    (!bit q.tests 2 || (f.ip && f.proto == q.proto)) && (!bit q.tests 3 || (f.udp && f.dstPort == q.udpPort))

/-- Classify a frame (R320, R321, R322). A wrong checksum stops the classification at step 5, so that the steps
before it still decide
(DEDUCED, log entry 21). -/
def Leaf.classify (x : Leaf) (l : LeafId) (port : Nat) (f : Frame) : RxClass :=
  let q := x.port port
  let mine := f.dst == q.address l port || f.dst == 0xFFFFFFFFFFFF || (x.groups port).contains f.dst
  let vlanOk := match f.vlan with
    | none => true
    | some v => v == q.vlan
  if f.etherType = 0x8808 then .pause
  else if !mine || !vlanOk then .filtered
  else if f.etherType = 0x88F7 ∨ (f.udp = true ∧ (f.dstPort = 319 ∨ f.dstPort = 320)) then .ptp
  else
    let host : RxClass :=
      if f.badSum then .filtered else
        match (List.range 16).find? fun i => (tget x.scene.net.filters i {}).matches port f with
        | some i => .host i (tget x.scene.net.filters i {}).ring
        | none => .filtered
    match x.scene.rxFor port f with
    | some i => .media false i
    | none =>
      match x.guest.bind fun g => g.rxFor port f with
      | some i => .media true i
      | none =>
        if x.scenes.any fun g => g.net.rx.any fun p => p.2.addressed port f then .unheard
        else if f.etherType = 0x0806 ∨ (f.ip = true ∧ (f.proto = 1 ∨ f.proto = 2)) then .control else host

/-- The firmware's answer to a control frame (R317): ARP requests and ICMP echo requests for the
port's address, and reports of the joined groups to an IGMP query. -/
def State.control (s : State) (l : LeafId) (port : Nat) (f : Frame) : State :=
  let q := (s.leaf l).port port
  let mac := q.address l port
  if f.etherType = 0x0806 then
    (if beAt f.body 6 2 = 1 ∧ beAt f.body 24 4 = q.ip then
      s.portSend l port 4 (etherFrame f.src mac 0x0806 (arpPacket 2 mac q.ip (beAt f.body 8 6) (beAt f.body 14 4)))
     else s)
  else if f.proto = 1 then
    (if u8 f.data 0 = 8 ∧ f.dstIp = q.ip then
      let body : Nat → List Byte := fun sum => [0, 0] ++ beBytes 2 sum ++ f.data.drop 4
      s.portSend l port 4 (etherFrame f.src mac 0x0800
        (ipPacket 0 (ipIdent [(f.srcIp : Rat)]) 64 1 q.ip f.srcIp (body (inetSum (body 0) 0))))
     else s)
  else if u8 f.data 0 = 0x11 then
    ((s.leaf l).joinedOn port).foldl (fun s g => s.igmp l port g true) s
  else s

/-- A received PAUSE or priority flow-control frame (R320). -/
def State.pauseFrame (s : State) (l : LeafId) (port : Nat) (f : Frame) : State :=
  let q := (s.leaf l).port port
  let op := beAt f.body 0 2
  let t := beAt f.body 2 2
  let set : Nat → State := fun m => if m = 0 then s.resumePort l port else s.modPort l port fun q => { q with stopped := m }
  if q.pause = 1 ∧ op = 1 then set (if t = 0 then 0 else 255)
  else if q.pause = 2 ∧ op = 0x0101 ∧ bit t q.pcpOther = true then
    set (if beAt f.body (4 + 2 * q.pcpOther) 2 = 0 then 0 else 31)
  else s.modPort l port fun q => { q with rxFiltered := (q.rxFiltered + 1) % 4294967296 }

/-- `NET_RX_FRAME` (R321, R322): a frame from its destination address through its FCS arrives; `fcsOk`
says that the FCS is right, `coded` that a coding error lies inside it, `stamp` when it arrived. -/
def execNetRxFrame (l : LeafId) (port : Nat) (frame : List Byte) (fcsOk coded : Bool) (stamp : Nat) (s : State) : Res :=
  let x := s.leaf l
  if 2 ≤ port ∨ (x.port port).link = false then .next s else
    let n := frame.length
    let f := parseFrame ((frame.take 9216).take (if n ≤ 9216 then n - 4 else n))
    let cl := x.classify l port f
    let flags := (if fcsOk then 0 else 16) + (if n < 64 then 32 else 0) + (if 9216 < n then 64 else 0) + (if coded then 128 else 0)
    let s := s.modPort l port fun q =>
      { q with rxFrames := (q.rxFrames + 1) % 4294967296,
               fecBad := if coded && q.lineMode == 2 then (q.fecBad + 1) % 4294967296 else q.fecBad }
    let drop : State := s.modPort l port fun q => { q with rxFiltered := (q.rxFiltered + 1) % 4294967296 }
    let key := match cl with
      | .host _ r => port * 16 + r
      | _ => 255
    let listen := !s.twin || l == s.red.active
    let deliverBad := (x.scene.ring key).on && (x.scene.ring key).deliverBad && listen
    if flags ≠ 0 ∧ deliverBad = false then
      .next (s.modPort l port fun q => { q with rxBad := (q.rxBad + 1) % 4294967296 })
    else .next <|
      match cl with
      | .pause => s.pauseFrame l port f
      | .filtered => drop
      | .ptp | .unheard => s
      | .control => s.control l port f
      | .media g i =>
        let act : State → State := fun s =>
          let r := (s.leaf l).media i port f.data stamp
          let s := s.setLeaf l r.1
          if r.2 then s.leafEvent l 0x0AF2 2 i (le8 port) 255 2 else s
        if g then s.asGuest l act else act s
      | .host i r =>
        if listen && (x.scene.ring key).on then s.deliver l port (port * 16 + r) i frame flags stamp else drop

/-! Egress streams (R335 to R338). -/

/-- Destination of a leg. -/
def TxSet.dest (t : TxSet) (leg : Nat) : Nat := if leg = 0 then t.dest0 else t.dest1
/-- UDP port of a leg. -/
def TxSet.udp (t : TxSet) (leg : Nat) : Nat := if leg = 0 then t.port0 else t.port1
/-- Resolved address of a leg (R337). -/
def TxStream.destMac (t : TxStream) (set : TxSet) (leg : Nat) : Option Nat :=
  if isGroup (set.dest leg) then some (groupMac (set.dest leg))
  else (t.macs.find? fun m => m.1 == (leg, set.dest leg)).map Prod.snd

/-- The legs that a leaf sends (R338). -/
def txLegs (twin : Bool) (l : LeafId) : List Nat := if twin then [l.num] else [0, 1]

/-- Ask for the unicast destinations of settings that ARP has not resolved (R337, R339). -/
def State.askDests (s : State) (l : LeafId) (i : Nat) (set : TxSet) : State :=
  (txLegs s.twin l).foldl (fun s p =>
    if !bit set.flags p || (((s.leaf l).scene.tx i).destMac set p).isSome then s
    else
      (s.modLeaf l fun x => x.modScene fun sc => sc.modTx i fun t =>
        { t with asks := (t.asks.filter fun a => a != (p, set.dest p)) ++ [(p, set.dest p)] }).arpAsk l p (set.dest p)) s

/-- One sample of a channel in network order (R329). -/
def wireOf (format : Nat) (v : Int) : List Byte :=
  if format = 0 then beBytes 3 (unsigned 24 (v / 256)) else beBytes 4 (unsigned 32 v)

/-- One sample of an egress stream at media-clock count `c` (R336, R337): a packet begins at each
multiple of s, where an enable, a disable and a change of settings act; a packet that lacks a sample, because
the media time has stepped, is not sent; `vals` are A32. -/
def TxStream.tick (t : TxStream) (c n : Nat) (vals : Nat → Int) : TxStream :=
  let set := if t.sending then t.set else t.next.getD t.set
  let s := (if t.next.isSome then t.next.getD t.set else set).samples
  let t := if s ≠ 0 ∧ c % s = 0 then
      { t with set := t.next.getD t.set, next := none, sending := t.on, first := c, fill := [] } else t
  if !t.sending || t.set.samples = 0 then t else
    if c ≠ t.first + t.fill.length / max 1 (t.set.channels * wireBytes t.set.format) then { t with fill := [] }
    else
      let fill := t.fill ++ (List.range t.set.channels).flatMap fun i => wireOf t.set.format (vals i)
      if (c + 1) % t.set.samples = 0 then
        { t with fill := [], ready := t.ready ++ [{ count := t.first, last := n, payload := fill, set := t.set }] }
      else { t with fill := fill }

/-- The RTP packet of a finished packet (R335, R336). -/
def TxPacket.rtp (p : TxPacket) (claim : Nat) (l : LeafId) (twin : Bool) : List Byte :=
  let x := bit p.set.flags 2
  beBytes 1 (if x then 0x90 else 0x80) ++ beBytes 1 p.set.ptype ++
    beBytes 2 ((p.set.seqBase + p.count / p.set.samples) % 65536) ++ beBytes 4 ((p.count + p.set.tsOffset) % 4294967296) ++
    beBytes 4 p.set.ssrc ++
    (if x then [0xBE, 0xDE, 0, 1] ++ beBytes 1 (p.set.ext * 16) ++ beBytes 1 (claim * 16 + l.num * 8 + 4 * b2n twin) ++ [0, 0]
     else []) ++ p.payload

/-- The whole frame of a packet on one port, without its FCS (R338)
(PRESUMED, log entry 13). -/
def mediaFrame (q : Port) (l : LeafId) (port dmac leg : Nat) (set : TxSet) (rtp : List Byte) (key : Nat) : List Byte :=
  let dst := set.dest leg
  let sport := (Config.of "udpSourcePort" [(set.ssrc : Rat), (leg : Rat)]).floor.toNat % 65536
  etherFrame dmac (q.address l port) 0x0800
    (ipPacket (set.dscp * 4) (ipIdent [(set.ssrc : Rat), (leg : Rat), (key : Rat)]) set.ttl 17 q.ip dst
      (udpPacket q.ip dst sport (set.udp leg) rtp))

/-- The egress gate holds a packet: twin mode, its last sample without a verdict, and a peer that
takes part in the compare (R415). -/
def State.gateHolds (s : State) (l : LeafId) (last : Nat) : Bool :=
  s.twin && (s.red.of l).claim != 0 && (s.red.of l.other).claim != 0 && s.red.tieUp && s.alive l.other &&
    decide ((s.red.of l).judged < last)

/-- Release or discard the oldest finished packet of a stream of one of a leaf's scenes (R337, R338,
R415). -/
def State.releaseTx (s : State) (l : LeafId) (guest : Bool) (stream : Nat) : State :=
  let x := s.leaf l
  let x := if guest then x.swapGuest else x
  let t := x.scene.tx stream
  match t.ready with
  | [] => s
  | p :: rest =>
    if s.gateHolds l p.last then s else
      let claim := (s.red.of l).claim
      let put : (TxStream → TxStream) → State := fun f =>
        let y := x.modScene fun sc => sc.modTx stream f
        s.setLeaf l (if guest then y.swapGuest else y)
      let stop := claim == 0 || (s.twin && (s.red.of l).withhold && (s.red.of l).judged == p.last)
      if stop then put fun t => { t with ready := rest }
      else
        let legs := txLegs s.twin l
        let rtp := p.rtp claim l s.twin
        let out := legs.filterMap fun g => if bit p.set.flags g then (t.destMac p.set g).map fun m => (g, m) else none
        let s := put fun t =>
          if !out.any fun g => (x.port g.1).link then { t with ready := rest }
          else { t with ready := rest, packets := (t.packets + 1) % 4294967296,
                        claim := if bit p.set.flags 2 then claim else 255 }
        out.foldl (fun s g =>
          s.portSend l g.1 6 (mediaFrame ((s.leaf l).port g.1) l g.1 g.2 g.1 p.set rtp p.count) stream) s

/-- `EGRESS_PACKET_COMPLETE` (R337). -/
def execEgressPacketComplete (l : LeafId) (stream : Nat) (s : State) : Res :=
  let own := (s.leaf l).scene.tx stream
  .next (if own.ready.isEmpty then s.releaseTx l true stream else s.releaseTx l false stream)

/-- The oldest destination that a leg of a stream has asked for is resolved (R337). -/
def TxStream.resolve (t : TxStream) (leg mac : Nat) : TxStream :=
  match t.asks.find? fun a => a.1 == leg with
  | none => t
  | some a => { t with asks := t.asks.filter fun b => b != a,
                       macs := (t.macs.filter fun m => m.1 != a) ++ [(a, mac % 281474976710656)] }

/-- `ARP_RESOLVED` (R337). -/
def execArpResolved (l : LeafId) (stream leg mac : Nat) (s : State) : Res :=
  .next (s.eachScene l fun s => s.modLeaf l fun x => x.modScene fun sc => sc.modTx stream fun t => t.resolve leg mac)

/-! Group 0x0A. -/

/-- `NET_PORT` (R315, R339, R341). -/
def specNetPort : Spec where
  op := 0x0A01
  len := fixedLen 24
  timed := true
  fields := fun s c =>
    let b := c.body
    let own := bit (u8 b 3) 0
    [rng 0 (u8 b 0) 0 (if s.twin then 3 else 1), rng 1 (u8 b 1) 0 4, rng 2 (u8 b 2) 0 2, rng 3 (u8 b 3) 0 1,
     rng 4 (u16 b 4) 0 4094, rng 6 (u8 b 6) 0 7, rng 7 (u8 b 7) 0 7, (8, !own || !bit (u8 b 8) 0), rng 14 (u8 b 14) 1 30,
     resv c 15 1]
  run := fun c prep d s =>
    let b := c.body
    let p := u8 b 0 % 2
    let old := s
    let e := onLeaves (fun g m _ x =>
      let b := m.body
      if s.twin && u8 b 0 / 2 != g.leaf.num then { x := x } else
        { x := x.modPort p fun q =>
            { q with
              mode := u8 b 1, pause := u8 b 2, useMac := bit (u8 b 3) 0, vlan := u16 b 4, pcpMedia := u8 b 6, pcpOther := u8 b 7,
              mac := if bit (u8 b 3) 0 then beAt b 8 6 else q.mac, plen := u8 b 14, ip := u32 b 16, gateway := u32 b 20 } }) c prep d s
    if noEffect e.status then e else
      let move : State → LeafId → State := fun s l =>
        let q := (s.leaf l).port p
        if ((old.leaf l).port p).mode = q.mode then s
        else
          let s := s.linkDown l p
          s.modPort l p fun q => { q with lineMode := if q.mode = 4 then 2 else q.mode, stopped := 0, waitLock := (s.leaf l).now }
      { e with s := [LeafId.a, .b].foldl move e.s }

/-- `NET_RING` (R323, R341); in twin mode the port of a transmit ring plays no part (R328). -/
def specNetRing : Spec where
  op := 0x0A02
  len := fixedLen 16
  timed := true
  fields := fun s c =>
    let b := c.body
    let n := u16 b 4
    let on := bit (u8 b 3) 0
    [(0, if u8 b 1 = 1 then decide (u8 b 0 < 4) else within 4 7 (u8 b 0)), rng 1 (u8 b 1) 0 1,
     (2, (s.twin && u8 b 1 == 1) || decide (u8 b 2 < 2)), rng 3 (u8 b 3) 0 7,
     (4, !on || [64, 128, 256, 512, 1024, 2048, 4096].contains n), (6, !on || !bit (u8 b 3) 2 || within 100 65535 (u16 b 6)),
     (8, !on || u64 b 8 % 4096 == 0)]
  run := fun c prep d s => onLeaves (fun _ c _ x =>
    let b := c.body
    let k := (if s.twin && u8 b 1 == 1 then 0 else u8 b 2 * 16) + u8 b 0
    let r : HostRing :=
      if bit (u8 b 3) 0 then
        { on := true, deliverBad := bit (u8 b 3) 1, event := bit (u8 b 3) 2, size := u16 b 4, interval := u16 b 6, base := u64 b 8,
          polled := 0 }
      else ring0
    { x := x.modScene fun sc => { sc with net := { sc.net with rings := tset sc.net.rings k r ring0 } } }) c prep d s

/-- `NET_FILTER` (R341). -/
def specNetFilter : Spec where
  op := 0x0A03
  len := fixedLen 16
  timed := true
  fields := fun _ c =>
    let b := c.body
    [rng 0 (u8 b 0) 0 15, (1, within 4 7 (u8 b 1) || u8 b 1 == 255), rng 2 (u8 b 2) 0 3, rng 3 (u8 b 3) 0 15, resv c 13 1]
  run := onLeaves fun _ c _ x =>
    let b := c.body
    let f : NetFilter := { ring := u8 b 1, ports := u8 b 2, tests := u8 b 3, mac := beAt b 4 6, etherType := u16 b 10,
                           proto := u8 b 12, udpPort := u16 b 14 }
    { x := x.modScene fun sc => { sc with net := { sc.net with filters := tset sc.net.filters (u8 b 0) f {} } } }

/-- The samples per packet that a rate allows (R329); any without a rate
(DEDUCED, log entry 21). -/
def samplesOk (fs n : Nat) : Bool := fs == 0 || (decide ((fs + 7999) / 8000 ≤ n) && decide (n ≤ fs / 250))

/-- The settings of a `NET_RX_STREAM`. -/
def rxSetOf (b : List Byte) : RxSet :=
  { domain := u8 b 2, kind := u8 b 3, format := u8 b 4, channels := u8 b 5, flags := u8 b 6, conceal := u8 b 7, samples := u16 b 8,
    link := u16 b 10, ptype := u8 b 12, ext := u8 b 13, tsOffset := u32 b 16, group0 := u32 b 20, source0 := u32 b 24,
    port0 := u16 b 28, port1 := u16 b 30, group1 := u32 b 32, source1 := u32 b 36 }

/-- Two settings agree in what changes only while a stream is disabled (R333). -/
def RxSet.same (p q : RxSet) : Bool :=
  p.domain == q.domain && p.format == q.format && p.channels == q.channels && p.samples == q.samples && p.link == q.link

/-- Effect of `NET_RX_STREAM` (R333, R341). -/
def runRxStream (own : Bool) (g : Ctx) (m : Cmd) (_ : List Byte) (x : Leaf) : LEff :=
  let b := m.body
  let i := u8 b 0
  let q := x.scene.rx i
  let new := rxSetOf b
  let on := u8 b 1 == 1
  if !own then .no x sBadState
  else if new.domain ≠ 0 ∧ x.sideRate new.domain = 0 then .no x sBadState
  else if q.on && !q.set.same new then .no x sBadState
  else
    let leg : RxLeg → RxLeg := fun g => { at_ := x.now, missing := g.missing, joined := g.joined }
    let renew : Nat → RxLeg → RxLeg := fun p g =>
      if q.set.hasLeg p && q.set.group p == new.group p && q.set.udp p == new.udp p then g else leg g
    let first : Nat → Nat → Nat := fun d n => if d = 0 then n else (x.domain d).sample + 1 + (n - g.n)
    let fresh : RxStream :=
      { q with on := true, from_ := first new.domain g.n, off := none, set := new, after := none, leg0 := leg q.leg0,
               leg1 := leg q.leg1, buf := [], started := false, lastV := [], gap := 0, back := 32,
               now := [], claim := 255, margins := [], adm := [] }
    let v : RxStream :=
      if on then (if q.on then { q with set := new, leg0 := renew 0 q.leg0, leg1 := renew 1 q.leg1 } else fresh)
      else if q.on then
        { q with on := false, off := some (first q.set.domain g.first), set := new, leg0 := { q.leg0 with live := false },
                 leg1 := { q.leg1 with live := false } }
      else if q.off.isSome then { q with after := some new }
      else { q with set := new }
    { x := x.modScene fun sc => sc.modRx i fun _ => v }

/-- Run a change on each leaf that serves a function, with the scene of that function in place. -/
def State.onServers (s : State) (f : FnId) (g : LeafId → State → State) : State :=
  (s.servers f).foldl (fun s p => if p.2 then s.asGuest p.1 (g p.1) else g p.1 s) s

/-- A stream's groups after a command of its function, as its settings then stand. -/
def settleRx (c : Cmd) (s : State) : State := s.onServers c.fn fun l s => s.settleGroups l (u8 c.body 0)

/-- `NET_RX_STREAM` (R333, R341). -/
def specNetRxStream : Spec where
  op := 0x0A04
  len := fixedLen 40
  timed := true
  fields := fun s c =>
    let b := c.body
    let fs := match s.fnLeaf c.fn with
      | none => 0
      | some x => rateHz (x.domain (u8 b 2)).rate
    let k1 := u8 b 3 == 1
    let n := u16 b 8
    [rng 0 (u8 b 0) 0 63, rng 1 (u8 b 1) 0 1, rng 2 (u8 b 2) 0 2, rng 3 (u8 b 3) 0 1, rng 4 (u8 b 4) 0 (if k1 then 0 else 1),
     rng 5 (u8 b 5) 1 (if k1 then 1 else 64), (6, decide (u8 b 6 < 8) && u8 b 6 % 4 != 0), (7, k1 || decide (u8 b 7 < 2)),
     (4, k1 || decide (n * u8 b 5 * wireBytes (u8 b 4) ≤ 8960)), (8, samplesOk fs n && (fs == 0 || decide (n ≤ u16 b 10))),
     (10, fs == 0 || (decide ((fs + 7999) / 8000 ≤ u16 b 10) && decide (u16 b 10 ≤ fs / 50))), rng 12 (u8 b 12) 96 127,
     rng 13 (u8 b 13) 1 14, resv c 14 2]
  stage := fun c s =>
    if u8 c.body 1 = 0 then s else s.onServers c.fn fun l s => s.stageGroups l (u8 c.body 0) (rxSetOf c.body)
  undo := settleRx
  run := fun c prep d s =>
    let e := onLeaves (runRxStream (s.ownsRx c.fn (u8 c.body 0))) c prep d s
    { e with s := settleRx c e.s }

/-- The settings of a `NET_TX_STREAM`. -/
def txSetOf (b : List Byte) : TxSet :=
  { domain := u8 b 2, format := u8 b 3, channels := u8 b 4, flags := u8 b 5, dscp := u8 b 6, ttl := u8 b 7, samples := u16 b 8,
    seqBase := u16 b 10, ptype := u8 b 12, ext := u8 b 13, ssrc := u32 b 16, tsOffset := u32 b 20, dest0 := u32 b 24,
    port0 := u16 b 28, port1 := u16 b 30, dest1 := u32 b 32 }

/-- Two settings agree in what changes only while a stream is disabled (R341). -/
def TxSet.same (p q : TxSet) : Bool :=
  p.domain == q.domain && p.format == q.format && p.channels == q.channels && p.samples == q.samples

/-- Effect of `NET_TX_STREAM` (R337, R341): an enable, a disable and a change act at the next packet
boundary. -/
def runTxStream (own : Bool) (_ : Ctx) (m : Cmd) (_ : List Byte) (x : Leaf) : LEff :=
  let b := m.body
  let i := u8 b 0
  let t := x.scene.tx i
  let new := txSetOf b
  let cur := t.next.getD t.set
  let on := u8 b 1 == 1
  if !own then .no x sBadState
  else if new.domain ≠ 0 ∧ x.sideRate new.domain = 0 then .no x sBadState
  else if t.on && !cur.same new then .no x sBadState
  else
    let kept : Nat × Nat → Bool := fun a => a.2 == new.dest a.1 || a.2 == cur.dest a.1
    let v := { t with on := on, asks := t.asks.filter kept, macs := t.macs.filter fun m => kept m.1 }
    let v := if t.sending then { v with next := some new } else { v with set := new, next := none }
    { x := x.modScene fun sc => sc.modTx i fun _ => v }

/-- `NET_TX_STREAM` (R337, R341). -/
def specNetTxStream : Spec where
  op := 0x0A05
  len := fixedLen 40
  timed := true
  fields := fun s c =>
    let b := c.body
    let fs := match s.fnLeaf c.fn with
      | none => 0
      | some x => rateHz (x.domain (u8 b 2)).rate
    let n := u16 b 8
    let cap := if bit (u8 b 5) 3 then 8960 else 1440
    [rng 0 (u8 b 0) 0 63, rng 1 (u8 b 1) 0 1, rng 2 (u8 b 2) 0 2, rng 3 (u8 b 3) 0 1, rng 4 (u8 b 4) 1 64, rng 5 (u8 b 5) 0 15,
     rng 6 (u8 b 6) 0 63, rng 7 (u8 b 7) 1 255, (3, decide (n * u8 b 4 * wireBytes (u8 b 3) ≤ cap)), (8, samplesOk fs n),
     rng 12 (u8 b 12) 96 127, rng 13 (u8 b 13) 1 14, resv c 14 2, resv c 36 4]
  stage := fun c s =>
    if u8 c.body 1 = 0 then s else s.onServers c.fn fun l s => s.askDests l (u8 c.body 0) (txSetOf c.body)
  run := fun c prep d s => onLeaves (runTxStream (s.ownsTx c.fn (u8 c.body 0))) c prep d s

/-- `NET_QUERY` (R341). -/
def specNetQuery : Spec where
  op := 0x0A06
  len := fixedLen 4
  fields := fun s c => [rng 0 (u8 c.body 0) 0 (if s.twin then 3 else 1), resv c 1 3]
  run := fun c prep d s =>
    let e := onLeaves (fun _ _ _ x => { x := x }) c prep d s
    match s.server c.fn with
    | none => e
    | some (l, _) =>
      let l := if s.twin then (if u8 c.body 0 / 2 = 0 then .a else .b) else l
      let i := u8 c.body 0 % 2
      let q := (s.leaf l).port i
      { e with resp := le8 q.linkCode ++ le8 (b2n (q.stopped != 0)) ++ beBytes 6 (q.address l i) ++ le32 q.rxFrames ++ le32 q.rxBad ++
                 le32 q.rxNobuf ++ le32 q.rxFiltered ++ le32 q.txDropped ++ le32 q.fecBad }

/-- The least margin of a stream over the latest second; 0 without a packet used. -/
def RxStream.margin (q : RxStream) (now : Nat) : Int :=
  let m := (q.margins.filter fun m => decide (now < m.1 + 1000000000)).map Prod.snd
  match m with
  | [] => 0
  | v :: r => r.foldl min v

/-- The response of `NET_STREAM_QUERY` for an ingress stream. -/
def rxQueryResp (q : RxStream) (now : Nat) : List Byte :=
  let state := if !q.on then 0 else if !q.started then 1 else if 0 < q.gap then 3 else 2
  le8 state ++ le8 (b2n q.leg0.live + 2 * b2n q.leg1.live) ++ le8 q.claim ++ zeros 1 ++ le32 q.packets ++ le32 q.leg0.missing ++
    le32 q.leg1.missing ++ le32 q.concealed ++ le32 q.late ++ le32 q.badFormat ++
    sle32 (clampI (-(2 ^ 31)) (2 ^ 31 - 1) (q.margin now))

/-- The response of `NET_STREAM_QUERY` for an egress stream; `used` are the legs that the leaf sends and
`claim` its claim. -/
def txQueryResp (t : TxStream) (used : List Nat) (claim : Nat) (up : Nat → Bool) : List Byte :=
  let legs := used.filter fun p => bit t.set.flags p
  let unresolved := legs.any fun p => (t.destMac t.set p).isNone
  let state := if !t.on then 0 else if claim = 0 then 4 else if !t.sending || unresolved then 1 else 2
  let live : Nat → Bool := fun p => legs.contains p && t.sending && up p && (t.destMac t.set p).isSome
  le8 state ++ le8 (b2n (live 0) + 2 * b2n (live 1)) ++ le8 t.claim ++ zeros 1 ++ le32 t.packets ++ zeros 24

/-- `NET_STREAM_QUERY` (R341). -/
def specNetStreamQuery : Spec where
  op := 0x0A07
  len := fixedLen 4
  fields := fun _ c => [rng 0 (u8 c.body 0) 0 1, rng 1 (u8 c.body 1) 0 63, resv c 2 2]
  run := fun c prep d s => onLeaves (fun g c _ x =>
    let i := u8 c.body 1
    { x := x,
      resp := if u8 c.body 0 = 0 then rxQueryResp (x.scene.rx i) x.now
              else txQueryResp (x.scene.tx i) (txLegs s.twin g.leaf) (s.red.of g.leaf).claim fun p => (x.port p).link }) c prep d s

end Sys2Proof.Machine
end

