-- ==== Sys2Proof/Machine/Microcode.lean ====
section
/-! DEFINITION. User microcode of the courses (chapter 11): the word format, the checks of `UC_LOAD`,
the machine that runs a pass, the insert points, and the commands of group 0x09. -/

namespace Sys2Proof.Machine

/-! The microcode word (R299). -/

/-- Operation code of a word. -/
def ucOp (w : Nat) : Nat := bits w 63 58
/-- Saturate bit. -/
def ucSat (w : Nat) : Bool := bit w 57
/-- Destination register or pointer. -/
def ucDst (w : Nat) : Nat := bits w 56 54
/-- Source register. -/
def ucSrcA (w : Nat) : Nat := bits w 53 51
/-- Pointer of the X operand. -/
def ucXp (w : Nat) : Nat := bits w 50 48
/-- Mode of the X operand. -/
def ucXm (w : Nat) : Nat := bits w 47 45
/-- Pointer of the Y operand. -/
def ucYp (w : Nat) : Nat := bits w 44 42
/-- Mode of the Y operand. -/
def ucYm (w : Nat) : Nat := bits w 41 39
/-- Left shift of a C24 coefficient. -/
def ucSh (w : Nat) : Nat := bits w 38 36
/-- Condition. -/
def ucCond (w : Nat) : Nat := bits w 35 32
/-- Immediate. -/
def ucImm (w : Nat) : Nat := bits w 31 0

/-- The operation codes that are not reserved (R300). -/
def ucOps : List Nat :=
  [0x01, 0x02, 0x03, 0x04, 0x05, 0x06, 0x07, 0x08, 0x09, 0x0A, 0x0B, 0x10, 0x11, 0x12, 0x13, 0x14] ++
    [0x18, 0x19, 0x1A, 0x1B, 0x1C, 0x1D, 0x1E, 0x1F, 0x20, 0x21, 0x22, 0x23, 0x24, 0x25] ++
    [0x28, 0x29, 0x2A, 0x2B, 0x2C, 0x30, 0x31, 0x32, 0x33, 0x34]

/-- A multiply or accumulate operation with an X operand. -/
def ucMul (op : Nat) : Bool := within 1 8 op
/-- An operation with the B operand (R300). -/
def ucHasB (op : Nat) : Bool := [0x18, 0x19, 0x1C, 0x1D, 0x20, 0x21, 0x22, 0x23, 0x24, 0x25].contains op
/-- An operation that addresses memory with X. -/
def ucMemX (op : Nat) : Bool := op == 0x0B || op == 0x10 || op == 0x12
/-- An operation with an X operand. -/
def ucUsesX (op : Nat) : Bool := ucMul op || ucHasB op || ucMemX op
/-- An operation with a Y operand. -/
def ucUsesY (op : Nat) : Bool := within 1 6 op || op == 0x11
/-- An operation that may saturate (R301). -/
def ucMaySat (op : Nat) : Bool := within 0x01 0x0B op || within 0x18 0x20 op
/-- An operation with a destination. -/
def ucUsesDst (op : Nat) : Bool :=
  [0x0A, 0x10, 0x11, 0x13, 0x14, 0x25, 0x28, 0x29, 0x2A, 0x2B, 0x2C].contains op || within 0x18 0x23 op
/-- An operation with a source register. -/
def ucUsesA (w : Nat) : Bool :=
  let op := ucOp w
  [0x12, 0x14, 0x24, 0x25].contains op || within 0x18 0x23 op || (ucMul op && ucXm w == 0)
/-- An operation that defines the immediate itself. -/
def ucOwnImm (op : Nat) : Bool :=
  [0x09, 0x13, 0x1E, 0x1F, 0x28, 0x29, 0x2A, 0x2B, 0x31, 0x32, 0x33].contains op
/-- How many fields of a word take the immediate (R298). -/
def ucImmUses (w : Nat) : Nat :=
  let op := ucOp w
  b2n (ucUsesX op && ucXm w == 6) + b2n (ucHasB op && ucXm w == 0) + b2n (ucUsesY op && (ucYm w == 0 || ucYm w == 6)) +
    b2n (ucOwnImm op)

/-- Cycles of a word (R300)
(DESIGN CHOICE, log entry 44). -/
def ucCycles (op : Nat) : Nat := if within 4 6 op then 2 else if op = 0x33 then 0 else 1

/-- A word taken by itself is well formed (R298, R299, R301). The manual gives a load, a store and `LDY` no operand
in mode 0, and a shift no count beyond 39: such a word is refused. Bits of an immediate that its operation does not
read are not a field of their own
(DESIGN CHOICE, log entry 72). -/
def ucWordOk (w : Nat) : Bool :=
  let op := ucOp w
  let x := ucUsesX op
  let y := ucUsesY op
  ucOps.contains op && (!ucSat w || ucMaySat op) && (ucUsesDst op || ucDst w == 0) && (ucUsesA w || ucSrcA w == 0) &&
    (x || ucXm w == 0) && ((x && ucXm w != 0) || ucXp w == 0) && (y || ucYm w == 0) && ((y && ucYm w != 0) || ucYp w == 0) &&
    (within 1 3 op || ucSh w == 0) && (op == 0x25 || op == 0x31 || ucCond w == 0) && decide (ucImmUses w ≤ 1) &&
    (ucImmUses w != 0 || ucImm w == 0) && (!ucMemX op || ucXm w != 0) && (op != 0x11 || ucYm w != 0) &&
    ((op != 0x1E && op != 0x1F) || decide (bits (ucImm w) 5 0 ≤ 39)) &&
    (op != 0x25 || decide (ucCond w < 6)) && (op != 0x31 || decide (ucCond w < 8))

/-- Rows of a logical bank (R294, R296). -/
def ucBankRows (rows : List Nat) (bank : Nat) : Nat := if bank = 6 then 18 else if bank < 6 then rows.getD bank 0 else 0

/-- A constant pointer setting lies in its bank (R307). -/
def ucPtrOk (rows : List Nat) (bank base len : Nat) : Bool :=
  decide (bank ≤ 6) && decide (1 ≤ len) && decide (base + len ≤ ucBankRows rows bank)

/-! Checks over a program (R298, R304 to R307). -/

/-- Words that a `REP` at `i` repeats: the first word and the word after the last. -/
def ucBody (code : List Nat) (i : Nat) : Nat × Nat := (i + 1, i + 2 + bits (ucImm (code.getD i 0)) 28 16)

/-- The `REP` words of a program with their bodies. -/
def ucReps (code : List Nat) : List (Nat × Nat) :=
  (code.zipIdx.filter fun (p : Nat × Nat) => ucOp p.1 == 0x32).map fun p => ucBody code p.2

/-- The control words keep their places (R304 to R306). -/
def ucFlowOk (code : List Nat) (i : Nat) : Bool :=
  let w := code.getD i 0
  let op := ucOp w
  let nx := ucOp (code.getD (i + 1) 0)
  let has := decide (i + 1 < code.length)
  let reps := ucReps code
  let inside : Nat × Nat → Nat → Bool := fun b k => decide (b.1 ≤ k) && decide (k < b.2)
  if op = 0x31 then
    let t := bits (ucImm w) 12 0
    has && nx != 0x31 && nx != 0x32 && nx != 0x34 && decide (i + 1 < t) && decide (t < code.length) &&
      reps.all fun b => !inside b i || (inside b t && decide (i + 2 < b.2))
  else if op = 0x32 then
    let b := ucBody code i
    decide (b.2 ≤ code.length) &&
      (reps.all fun c => !inside c i || decide (b.2 ≤ c.2)) &&
      decide ((reps.filter fun c => inside c i).length ≤ 1)
  else if op = 0x33 then has && nx != 0x31 && nx != 0x32 && nx != 0x33 && nx != 0x34 && ucCycles nx == 1
  else true

/-- The worst case of R307 from word `i` to word `stop`, and whether every path meets `END`, within
`fuel` words; none where a path runs past the end of the program
(DESIGN CHOICE, log entry 44). -/
def ucWorst (code : List Nat) : Nat → Nat → Nat → Option Nat
  | 0, _, _ => none
  | fuel + 1, i, stop =>
    if i = stop then some 0
    else if code.length ≤ i then none
    else
      let w := code.getD i 0
      let op := ucOp w
      let go : Nat → Option Nat := fun j => ucWorst code fuel j stop
      if op = 0x34 then some 1
      else if op = 0x31 then
        let slot := ucOp (code.getD (i + 1) 0)
        let k := if slot = 0x33 then (bits (ucImm (code.getD (i + 1) 0)) 5 0 + 1, 3) else (ucCycles slot, 2)
        match go (bits (ucImm w) 12 0), go (i + k.2) with
        | some a, some b => some (1 + k.1 + max a b)
        | _, _ => none
      else if op = 0x32 then
        let b := ucBody code i
        match ucWorst code fuel b.1 b.2, go b.2 with
        | some a, some r => some (1 + (bits (ucImm w) 15 0 + 1) * a + r)
        | _, _ => none
      else if op = 0x33 then (go (i + 2)).map fun r => bits (ucImm w) 5 0 + 1 + r
      else (go (i + 1)).map fun r => ucCycles op + r

/-- Logical banks that a pointer may hold at a word: its descriptor's and those of the `SETPB` words
that can run before it
(DESIGN CHOICE, log entry 72). -/
def ucBanks (ptrs : List UcPtr) (code : List Nat) (i p : Nat) : List Nat :=
  let loops := (ucReps code).filter fun b => decide (b.1 ≤ i) && decide (i < b.2)
  let upTo := loops.foldl (fun m b => max m b.2) i
  let sets := ((code.zipIdx.take upTo).filter fun (q : Nat × Nat) =>
    ucOp q.1 == 0x28 && ucDst q.1 == p && q.2 != i).map fun q => bits (ucImm q.1) 2 0
  (ptrs.getD p {}).bank :: sets

/-- The X and Y operands of a word lie in different banks (R298). -/
def ucBanksOk (ptrs : List UcPtr) (code : List Nat) (i : Nat) : Bool :=
  let w := code.getD i 0
  let op := ucOp w
  !(ucUsesX op && ucUsesY op && ucXm w != 0 && ucYm w != 0) ||
    (ucBanks ptrs code i (ucXp w)).all fun b => !(ucBanks ptrs code i (ucYp w)).contains b

/-- A word of a program is accepted (R307). -/
def ucAccept (rows : List Nat) (ptrs : List UcPtr) (code : List Nat) (i : Nat) : Bool :=
  let w := code.getD i 0
  ucWordOk w && ucFlowOk code i && ucBanksOk ptrs code i &&
    (ucOp w != 0x28 || ucPtrOk rows (bits (ucImm w) 2 0) (bits (ucImm w) 13 3) (bits (ucImm w) 24 14 + 1))

/-- The program that an image holds (R313). -/
def ucImage (d : List Byte) : UcProg :=
  let desc : Nat → UcPtr := fun i =>
    let o := 24 + 8 * i
    if bit (u8 d (o + 1)) 0 then
      { bank := u8 d o, keep := bit (u8 d (o + 1)) 1, base := u16 d (o + 2), len := u16 d (o + 4), stride := u16 d (o + 6) }
    else {}
  { points := u8 d 2 % 16, params := u8 d 3 % 64, cycles := u16 d 6,
    rows := (List.range 6).map fun i => u16 d (8 + 2 * i), ptrs := (List.range 8).map desc,
    code := (List.range (u16 d 4)).map fun i => u64 d (96 + 8 * i) }

/-- Words executed at most before a path repeats nothing: fuel of the worst-case count. -/
def ucFuel (p : UcProg) : Nat := 4 * p.code.length + 4

/-- The first fault of an image by its byte offset (R307, R313). -/
def ucFault (d : List Byte) : Option Nat :=
  let p := ucImage d
  let desc : List (Nat × Bool) := (List.range 8).flatMap fun i =>
    let o := 24 + 8 * i
    let on := bit (u8 d (o + 1)) 0
    [(o, !on || decide (u8 d o ≤ 6)), (o + 1, decide (u8 d (o + 1) < 4)),
     (o + 2, !on || ucPtrOk p.rows (u8 d o) (u16 d (o + 2)) (u16 d (o + 4))),
     (o + 4, !on || within 1 2048 (u16 d (o + 4))), (o + 6, !on || decide (u16 d (o + 6) < u16 d (o + 4)))]
  let head : List (Nat × Bool) :=
    [(0, u16 d 0 == 1), (2, decide (u8 d 2 < 16)), (3, decide (u8 d 3 < 64)),
     (4, within 1 8192 (u16 d 4) && d.length == 96 + 8 * u16 d 4), (6, decide (1 ≤ u16 d 6))] ++
    ((List.range 6).map fun i => (8 + 2 * i, decide (u16 d (8 + 2 * i) ≤ 2048))) ++ [(20, allZero d 20 4)] ++ desc ++
    [(88, allZero d 88 8)]
  match firstBad head with
  | some i => some i
  | none =>
    match firstBad ((List.range p.code.length).map fun i => (96 + 8 * i, ucAccept p.rows p.ptrs p.code i)) with
    | some i => some i
    | none =>
      match ucWorst p.code (ucFuel p) 0 (p.code.length + 1) with
      | none => some (96 + 8 * (p.code.length - 1))
      | some w => if p.cycles < w then some 6 else none

/-! The machine of a pass (R290, R295 to R306). -/

/-- One lane. -/
structure UcLane where
  d : List Int := [0, 0, 0, 0, 0, 0, 0, 0]
  acc : Int := 0
  held : Bool := false
  n : Bool := false
  z : Bool := false

/-- A write that becomes readable two cycles after its word's issue (R303). -/
inductive UcWrite where
  | reg (dst : Nat) (vals : List Int)
  | store (bank row : Nat) (slots : List (Nat × Int))
  | ptrBank (p bank base len : Nat)
  | ptrStride (p stride lane : Nat)
  | ptrIndex (p idx : Nat)

/-- A course in a pass: bits beside the lanes. -/
structure UcM where
  pc : Nat := 0
  t : Nat := 0
  lanes : List UcLane := []
  ptrs : List UcPtr := []
  data : List (Nat × Int) := []
  page : List Byte := []
  out : List Int := []
  fine : Bool := false
  loops : List (Nat × Nat × Nat) := []
  lrep : Nat := 0
  branch : Option Nat := none
  waits : List (Nat × UcWrite) := []
  sats : Nat := 0
  done : Bool := false

/-- What a pass knows of its surroundings. -/
structure UcEnv where
  prog : UcProg
  course : Nat
  pass : Nat
  passIx : Nat
  ins : List Int
  view : Nat → Nat → Int
  empty : Bool

/-- The bank is a parameter bank. -/
def UcProg.isParam (p : UcProg) (bank : Nat) : Bool := bit p.params bank

/-- Sum of the rows of the parameter banks (R313). -/
def UcProg.paramRows (p : UcProg) : Nat :=
  (p.rows.zipIdx.map fun (q : Nat × Nat) => if p.isParam q.2 then q.1 else 0).sum

/-- Sum of the rows of the other banks. -/
def UcProg.dataRows (p : UcProg) : Nat :=
  (p.rows.zipIdx.map fun (q : Nat × Nat) => if p.isParam q.2 then 0 else q.1).sum

/-- Byte offset of a slot in a parameter page (R313). -/
def UcEnv.pageAt (e : UcEnv) (bank row lane : Nat) : Nat :=
  let before := ((e.prog.rows.zipIdx.take bank).map fun (q : Nat × Nat) => if e.prog.isParam q.2 then q.1 else 0).sum
  (((e.passIx * 8 + e.course) * e.prog.paramRows + before + row) * 64 + lane) * 8

/-- Key of a data slot. -/
def UcEnv.slot (e : UcEnv) (bank row lane : Nat) : Nat :=
  (((e.pass * 8 + e.course) * 8 + bank) * 2048 + row) * 64 + lane

/-- What a slot holds. -/
def UcEnv.read (e : UcEnv) (m : UcM) (bank row lane : Nat) : Int :=
  if bank = 6 then
    (if row = 0 then e.ins.getD lane 0 else if row = 1 then m.out.getD lane 0 else e.view (row - 2) lane)
  else if e.prog.isParam bank then s64 m.page (e.pageAt bank row lane)
  else tget m.data (e.slot bank row lane) 0

/-- Replace the bytes of a list at an offset, zeros before them where it is shorter. -/
def putBytes (b : List Byte) (i : Nat) (v : List Byte) : List Byte :=
  padTo i b ++ v ++ b.drop (i + v.length)

/-- One slot stored; only `OUT` of bank U6 takes a store (R294). -/
def UcEnv.write (e : UcEnv) (m : UcM) (bank row : Nat) (s : Nat × Int) : UcM :=
  if bank = 6 then (if row = 1 then { m with out := m.out.set s.1 s.2 } else m)
  else if e.prog.isParam bank then { m with page := putBytes m.page (e.pageAt bank row s.1) (sle64 s.2) }
  else { m with data := tset m.data (e.slot bank row s.1) s.2 0 }

/-- A write takes place. -/
def UcEnv.commit (e : UcEnv) (m : UcM) : UcWrite → UcM
  | .reg dst vals => { m with lanes := m.lanes.zipIdx.map fun (q : UcLane × Nat) => { q.1 with d := q.1.d.set dst (vals.getD q.2 0) } }
  | .store bank row slots => slots.foldl (fun m s => e.write m bank row s) m
  | .ptrBank p b s l => { m with ptrs := m.ptrs.set p { m.ptrs.getD p {} with bank := b, base := s, len := l, idx := 0 } }
  | .ptrStride p s l => { m with ptrs := m.ptrs.set p { m.ptrs.getD p {} with stride := s, lane := l } }
  | .ptrIndex p i => { m with ptrs := m.ptrs.set p { m.ptrs.getD p {} with idx := i } }

/-- The pointer that a waiting write changes. -/
def UcWrite.ptr : UcWrite → Option Nat
  | .ptrBank p _ _ _ => some p
  | .ptrStride p _ _ => some p
  | .ptrIndex p _ => some p
  | _ => none

/-- The waiting writes of words issued before cycle `t - 1` take place. -/
def UcEnv.settle (e : UcEnv) (m : UcM) : UcM :=
  let now := m.waits.filter fun w => decide (w.1 + 2 ≤ m.t)
  let m := { m with waits := m.waits.filter fun w => decide (m.t < w.1 + 2) }
  now.foldl (fun m w => e.commit m w.2) m

/-- Index arithmetic modulo a pointer's length. -/
def UcPtr.move (p : UcPtr) (k : Int) : UcPtr :=
  if p.len = 0 then p else { p with idx := (((p.idx : Int) + k) % (p.len : Int)).toNat }

/-- Row that an operand addresses (R297). -/
def UcPtr.row (p : UcPtr) (mode imm : Nat) : Nat :=
  if p.len = 0 then p.base
  else p.base + (if mode = 6 then (p.idx + bits imm 10 0) % p.len else p.idx % p.len)

/-- The pointer after the access (R297). -/
def UcPtr.after (p : UcPtr) (mode : Nat) : UcPtr :=
  match mode with
  | 2 => p.move 1
  | 3 => p.move (-1)
  | 4 => p.move p.stride
  | 5 => p.move (-(p.stride : Int))
  | 7 => { p with lane := (p.lane + 1) % 64 }
  | _ => p

/-- The post-modification of an operand, lost where a pointer operation of the previous cycle waits
(R303). -/
def UcM.post (m : UcM) (p mode : Nat) : UcM :=
  if m.waits.any fun w => w.2.ptr == some p then m
  else { m with ptrs := m.ptrs.set p ((m.ptrs.getD p {}).after mode) }

/-- A raw slot as A40 (R298). -/
def slotA40 (v : Int) : Int := signed 40 (unsigned 40 v)

/-- The memory operand of a lane. What a pointer without a descriptor addresses is left open
(DESIGN CHOICE, log entry 72). -/
def UcEnv.operand (e : UcEnv) (m : UcM) (p mode imm lane : Nat) : Int :=
  let q := m.ptrs.getD p {}
  if q.len = 0 then (Config.of "ucNoPointer" [(p : Rat), (m.pc : Rat), (m.t : Rat), (lane : Rat)]).floor else e.read m q.bank (q.row mode imm) (if mode = 7 then q.lane else lane)

/-- A result held in A40: clamped with `SAT`, wrapped without (R301); and whether the clamp acted
(DESIGN CHOICE, log entry 19). -/
def ucResult (sat : Bool) (v : Int) : Int × Bool :=
  if sat then (sat40 v, decide (sat40 v ≠ v)) else (slotA40 v, false)

/-- The accumulator after an addition (R107, R301): value, holding, whether the clamp acted. -/
def ucAcc (sat held : Bool) (old v : Int) : Int × Bool × Bool :=
  if held then (old, true, false)
  else if sat then (if over72 v then (sat72 v, true, true) else (v, false, false))
  else (signed 72 (unsigned 72 v), false, false)

/-- Bitwise operations over 40 bits. -/
def ucLogic (f : Nat → Nat → Nat) (a b : Int) : Int := signed 40 (f (unsigned 40 a) (unsigned 40 b))

/-- What a data operation gives a lane: the lane with its accumulator and flags, the register result
where it has one, and how often the clamp acted (R300, R301). -/
def ucLaneOp (w : Nat) (fine : Bool) (l : UcLane) (x y : Int) (lane : Nat) : UcLane × Option Int × Nat :=
  let op := ucOp w
  let sat := ucSat w
  let a := l.d.getD (ucSrcA w) 0
  let c24 := signed 24 (unsigned 24 y) * 2 ^ ucSh w
  let c32 := signed 32 (unsigned 32 y)
  let add : Bool → Int → UcLane × Option Int × Nat := fun held v =>
    let r := ucAcc sat held l.acc v
    ({ l with acc := r.1, held := r.2.1 }, none, b2n r.2.2)
  let mixed : Bool → Int → Int := fun f v =>
    if f = fine then l.acc + v else (Config.of "ucMixedScale" [(l.acc : Rat), (v : Rat)]).floor
  let alu : Int → UcLane × Option Int × Nat := fun v =>
    let r := ucResult sat v
    (l, some r.1, b2n r.2)
  let rnd := ucResult sat (roundShift l.acc (if fine then 30 else 22))
  match op with
  | 0x01 => add false (x * c24)
  | 0x02 => add l.held (mixed false (x * c24))
  | 0x03 => add l.held (mixed false (-(x * c24)))
  | 0x04 => add false (x * c32)
  | 0x05 => add l.held (mixed true (x * c32))
  | 0x06 => add l.held (mixed true (-(x * c32)))
  | 0x07 => add l.held (l.acc + x * 2 ^ (if fine then 30 else 22))
  | 0x08 => add l.held (l.acc - x * 2 ^ (if fine then 30 else 22))
  | 0x09 => ({ l with acc := 0, held := false }, none, 0)
  | 0x0A => (l, some rnd.1, b2n rnd.2)
  | 0x0B => (l, some rnd.1, b2n rnd.2)
  | 0x10 => (l, some x, 0)
  | 0x11 => (l, some (slotA40 y), 0)
  | 0x12 => (l, some a, 0)
  | 0x13 => (l, some (signed 32 (ucImm w) * 256), 0)
  | 0x14 => (l, some a, 0)
  | 0x18 => alu (a + x)
  | 0x19 => alu (a - x)
  | 0x1A => alu (-a)
  | 0x1B => alu (if a < 0 then -a else a)
  | 0x1C => alu (min a x)
  | 0x1D => alu (max a x)
  | 0x1E => alu (a * 2 ^ bits (ucImm w) 5 0)
  | 0x1F => alu (roundShift a (bits (ucImm w) 5 0))
  | 0x20 => let b : Int := x.natAbs
            alu (clampI (-b) b a)
  | 0x21 => (l, some (ucLogic Nat.land a x), 0)
  | 0x22 => (l, some (ucLogic Nat.lor a x), 0)
  | 0x23 => (l, some (ucLogic Nat.xor a x), 0)
  | 0x24 => ({ l with n := decide (a < x), z := decide (a = x) }, none, 0)
  | 0x25 =>
    let c := match ucCond w with
      | 0 => l.n
      | 1 => l.z
      | 2 => !l.n
      | 3 => !l.z
      | 4 => l.n || l.z
      | _ => !(l.n || l.z)
    (l, some (if c then a else x), 0)
  | 0x2C => (l, some (lane : Int), 0)
  | _ => (l, none, 0)

/-- The condition of a branch (R302). -/
def ucTaken (e : UcEnv) (m : UcM) (cond : Nat) : Bool :=
  match cond with
  | 0 => true
  | 1 => m.lanes.any UcLane.n
  | 2 => m.lanes.all UcLane.n
  | 3 => m.lanes.any UcLane.z
  | 4 => m.lanes.all UcLane.z
  | 5 => e.pass == 0
  | 6 => e.pass == 1
  | _ => e.empty

/-- Where the sequencer goes after a word: the end of a repeat body goes back or leaves its loop
(R305). -/
def ucNext : Nat → List (Nat × Nat × Nat) → Nat × List (Nat × Nat × Nat)
  | pc, [] => (pc, [])
  | pc, (start, stop, left) :: r =>
    if pc = stop then (if left = 0 then ucNext pc r else (start, (start, stop, left - 1) :: r))
    else (pc, (start, stop, left) :: r)

/-- The program counter moves on after a word that is not repeated. -/
def UcM.advance (m : UcM) : UcM :=
  match m.branch with
  | some t =>
    let r := ucNext t m.loops
    { m with pc := r.1, loops := r.2, branch := none }
  | none =>
    let r := ucNext (m.pc + 1) m.loops
    { m with pc := r.1, loops := r.2 }

/-- One word (R300 to R306). -/
def UcEnv.step (e : UcEnv) (m : UcM) : UcM :=
  let m := e.settle m
  let w := e.prog.code.getD m.pc 0
  let op := ucOp w
  let imm := ucImm w
  let wait : UcWrite → UcM → UcM := fun v m => { m with waits := m.waits ++ [(m.t, v)] }
  let tick : UcM → UcM := fun m => { m with t := m.t + ucCycles op }
  let move : UcM → UcM := fun m =>
    if 1 < m.lrep then { m with lrep := m.lrep - 1 } else { m with lrep := 0 }.advance
  if op = 0x34 then { m with done := true, t := m.t + 1 }
  else if op = 0x31 then
    let m := tick m
    if ucTaken e m (ucCond w) then { m with pc := m.pc + 1, branch := some (bits imm 12 0) } else m.advance
  else if op = 0x32 then
    let b := ucBody e.prog.code m.pc
    tick { m with pc := m.pc + 1, loops := (b.1, b.2, bits imm 15 0) :: m.loops }
  else if op = 0x33 then { m with pc := m.pc + 1, lrep := bits imm 5 0 + 1 }
  else if within 0x28 0x2B op then
    let p := ucDst w
    let v : UcWrite := match op with
      | 0x28 => .ptrBank p (bits imm 2 0) (bits imm 13 3) (bits imm 24 14 + 1)
      | 0x29 => .ptrStride p (bits imm 10 0) (bits imm 16 11)
      | 0x2A => .ptrIndex p (bits imm 10 0)
      | _ => .ptrIndex p ((m.ptrs.getD p {}).move (signed 12 (bits imm 11 0))).idx
    move (tick (wait v m))
  else
    let xm := ucXm w
    let ym := ucYm w
    let xOf : UcLane → Nat → Int := fun l i =>
      if !ucUsesX op || op == 0x0B || op == 0x12 then 0
      else if xm = 0 then l.d.getD (if ucMul op then ucSrcA w else bits imm 2 0) 0
      else slotA40 (e.operand m (ucXp w) xm imm i)
    let yOf : Nat → Int := fun i =>
      if !ucUsesY op then 0 else if ym = 0 then (imm : Int) else e.operand m (ucYp w) ym imm i
    let rs := m.lanes.zipIdx.map fun (q : UcLane × Nat) => ucLaneOp w m.fine q.1 (xOf q.1 q.2) (yOf q.2) q.2
    let vals : List Int := rs.filterMap fun r => r.2.1
    let q := m.ptrs.getD (ucXp w) {}
    let m := { m with lanes := rs.map fun r => r.1, sats := m.sats + (rs.map fun r => r.2.2).sum,
                      fine := if within 1 3 op then (if op = 1 then false else m.fine)
                              else if op = 4 then true else if op = 9 then bit imm 0 else m.fine }
    let m := if op = 0x0B ∨ op = 0x12 then
        (if q.len = 0 then m
         else if xm = 7 then
           wait (.store q.bank (q.row xm imm) [(q.lane, slotA40 (Config.of "ucBroadcastStore" (vals.map fun (v : Int) => (v : Rat))).floor)]) m
         else wait (.store q.bank (q.row xm imm) (vals.zipIdx.map fun (v : Int × Nat) => (v.2, v.1))) m)
      else if vals.isEmpty then m else wait (.reg (ucDst w) vals) m
    let m := if ucUsesX op && xm != 0 then m.post (ucXp w) xm else m
    let m := if ucUsesY op && ym != 0 then m.post (ucYp w) ym else m
    move (tick m)

/-- Run a pass to its `END` within a number of words. -/
def UcEnv.run (e : UcEnv) : Nat → UcM → UcM
  | 0, m => m
  | n + 1, m => if m.done then m else e.run n (e.step m)

/-! Insert points (R291 to R296). -/

/-- The default program: an empty slot. -/
def prog0 : UcProg := {}
/-- The default attachment: free. -/
def att0 : UcAtt := {}
/-- A program slot of a scene. -/
def Scene.prog (x : Scene) (i : Nat) : UcProg := tget x.uc.progs i prog0
/-- An attachment of a scene. -/
def Scene.att (x : Scene) (i : Nat) : UcAtt := tget x.uc.atts i att0
/-- A scene with one attachment changed. -/
def Scene.modAtt (x : Scene) (i : Nat) (f : UcAtt → UcAtt) : Scene :=
  { x with uc := { x.uc with atts := tmod x.uc.atts i att0 f } }

/-- Items of an insert point at a rate. -/
def ucItems (rate point : Nat) : Nat := if point = 0 then objCap rate else if point = 3 then 16 else feedCap rate

/-- Course, lane and pass of an item (R291, R92). -/
def ucPlace (rate point i : Nat) : Nat × Nat × Nat :=
  if point = 0 then (i / 64, i % 64, 0)
  else if point = 3 then (i / 2, i % 2, 0)
  else if rateMul rate = 4 then (i / 64, i % 64, 0) else (i / 128, i % 128 / 2, i % 2)

/-- An item has an attachment. -/
def UcAtt.covers (a : UcAtt) (i : Nat) : Bool := a.state != 0 && decide (a.first ≤ i) && decide (i < a.first + a.count)

/-- The passes, by course and pass, that hold an attached item. -/
def UcAtt.passes (a : UcAtt) (rate : Nat) : List (Nat × Nat) :=
  ((span a.first a.count).map fun i => let q := ucPlace rate a.point i; (q.1, q.2.2)).eraseDups

/-- The pass numbers that hold an attached item. -/
def UcAtt.passNos (a : UcAtt) (rate : Nat) : List Nat := ((a.passes rate).map Prod.snd).eraseDups.mergeSort

/-- Bytes of a parameter page (R313). -/
def ucPageSize (p : UcProg) (passes : Nat) : Nat := passes * 8 * p.paramRows * 512

/-- The `IN` value of an item, for the latest sample. -/
def Scene.ucIn (x : Scene) (point i : Nat) : Int := tget x.uc.ins (point * 1024 + i) 0

/-- Pointer values at a pass's entry (R295). -/
def UcAtt.entry (a : UcAtt) (p : UcProg) (key : Nat) : List UcPtr :=
  let old := tfind a.ptrs key
  p.ptrs.zipIdx.map fun (q : UcPtr × Nat) => if q.1.keep then (match old with
    | none => q.1
    | some l => l.getD q.2 q.1) else q.1

/-- One pass of an attachment in one course for the coming sample (R291, R294, R295). -/
def UcAtt.runPass (a : UcAtt) (x : Scene) (rate n course pass : Nat) : UcAtt :=
  let p := x.prog a.program
  let key := course + 8 * pass
  let items := (span a.first a.count).filter fun i => let q := ucPlace rate a.point i; q.1 == course && q.2.2 == pass
  if a.drop.contains key then { a with faults := (a.faults + 1) % 4294967296 } else
    let other := match a.flip with
      | some k => decide (k ≤ n)
      | none => false
    let second := (a.active == 1) != other
    let at_ : Nat → Option Nat := fun lane =>
      (List.range (ucItems rate a.point)).find? fun i => ucPlace rate a.point i == (course, lane, pass)
    let e : UcEnv :=
      { prog := p, course := course, pass := pass, passIx := (a.passNos rate).idxOf pass,
        ins := (List.range 64).map fun lane => match at_ lane with
          | none => 0
          | some i => x.ucIn a.point i,
        view := fun row lane => if a.point = 3 then (if row = 0 ∧ lane < 16 then x.ucIn 3 lane else 0)
          else if row * 64 + lane < ucItems rate a.point then x.ucIn a.point (row * 64 + lane) else 0,
        empty := items.isEmpty }
    let m0 : UcM := { lanes := List.replicate 64 {}, ptrs := a.entry p key, data := a.data,
                      page := if second then a.page1 else a.page0, out := List.replicate 64 0 }
    let m := e.run (2 * p.cycles + 2) m0
    let m := m.waits.foldl (fun m w => e.commit m w.2) { m with waits := [] }
    { a with data := m.data, page0 := if second then a.page0 else m.page, page1 := if second then m.page else a.page1,
             ptrs := if p.ptrs.any UcPtr.keep then tins a.ptrs key m.ptrs else a.ptrs,
             sats := (a.sats + m.sats) % 4294967296,
             outs := items.foldl (fun o i => tset o i (m.out.getD (ucPlace rate a.point i).2.1 0) 0) a.outs }

/-- An attachment whose fade has ended before the coming sample (R310). -/
def UcAtt.fadeTick (a : UcAtt) (n : Nat) : UcAtt :=
  if a.level.first + a.level.len ≤ n ∧ a.level.first < n + 1 then
    (if a.state = 1 then { a with state := 2 } else if a.state = 3 ∧ a.level.first < n then att0 else a)
  else a

/-- The page that a `UC_PARAM` staged becomes the active one at its sample (R309). -/
def UcAtt.flipTick (a : UcAtt) (n : Nat) : UcAtt :=
  match a.flip with
  | some k => if k ≤ n then { a with active := 1 - a.active, flip := none } else a
  | none => a

/-- Course work of user microcode for the coming sample: the scene, and for each attachment how often
the clamp acted and which passes were abandoned. -/
def Scene.runMicrocode (x : Scene) (rate n : Nat) : Scene × List (Nat × Nat × List Nat) :=
  x.uc.atts.foldl (fun acc q =>
    let a := (q.2.fadeTick n).flipTick n
    if a.state = 0 ∨ n < a.from_ then (acc.1.modAtt q.1 fun _ => a, acc.2)
    else
      let b := (a.passes rate).foldl (fun b cp => b.runPass x rate n cp.1 cp.2) a
      (acc.1.modAtt q.1 fun _ => { b with drop := [] }, acc.2 ++ [(q.1, (b.sats + 4294967296 - a.sats) % 4294967296, a.drop)]))
    (x, [])

/-- The value of an item at an insert point: the normal value, the insert's output, or between them
during a fade (R291, R310)
(DEDUCED, log entry 37). -/
def Scene.insert (x : Scene) (point i n : Nat) (v : Int) : Int :=
  match x.uc.atts.find? fun q => q.2.point == point && q.2.covers i with
  | none => v
  | some q =>
    if n < q.2.from_ then v else
      let w := q.2.level.at_ n
      if w = 1 then tget q.2.outs i 0 else coarseMix v (tget q.2.outs i 0) w

/-- Record the `IN` values of a sample (R293). -/
def Scene.setIns (x : Scene) (vals : List (Nat × Int)) : Scene :=
  { x with uc := { x.uc with ins := vals.filter fun p => p.2 != 0 } }

/-- `UC_PASS_ABANDON` (R307): a pass does not reach `END`; its items repeat their previous output. -/
def execUcPassAbandon (l : LeafId) (att course pass : Nat) (s : State) : Res :=
  .next <| s.eachScene l fun s =>
    let x := s.leaf l
    let a := x.scene.att att
    if 16 ≤ att ∨ a.state = 0 ∨ (a.passes x.clk.dom.rate).contains (course, pass) = false ∨ a.drop.contains (course + 8 * pass) = true then s
    else
      let s := s.modLeaf l fun x => x.modScene fun sc => sc.modAtt att fun a => { a with drop := a.drop ++ [course + 8 * pass] }
      let s := s.modLeaf l fun x => { x with ecc := { x.ecc with flag := true } }
      s.reportOn (s.fnOf l) l
        { code := 0x09F1, subject := att, sev := 3, front := le8 course ++ le8 pass, width := 2, count := 1 }

/-- `UC_FADE_END` (R310). -/
def execUcFadeEnd (l : LeafId) (att : Nat) (s : State) : Res :=
  .next (s.eachScene l fun s => s.modLeaf l fun x => x.modScene fun sc => sc.modAtt att fun a => a.fadeTick x.next)

/-! Group 0x09. -/

/-- The user microcode pool of R98 in lane-cycles. -/
def ucPool (v : Variant) (rate : Nat) : Nat :=
  (match rateMul rate with
   | 1 => 6952624
   | 2 => 2355808
   | _ => 420144) + if v.hasVoice then 0 else 557056

/-- Lane-cycles charged for an attachment (R308). -/
def Scene.ucCharge (x : Scene) (a : UcAtt) : Nat := if a.state = 0 then 0 else (x.prog a.program).cycles * a.count

/-- Attachments of the scenes of a leaf, each with its program. -/
def Leaf.ucAll (x : Leaf) : List (UcAtt × UcProg) :=
  x.scenes.flatMap fun sc => (sc.uc.atts.filter fun q => q.2.state != 0).map fun q => (q.2, sc.prog q.2.program)

/-- Lane-cycles charged on a leaf. -/
def ucChargeSum (l : List (UcAtt × UcProg)) : Nat := (l.map fun q => q.2.cycles * q.1.count).sum

/-- Course load of a course (R308). -/
def ucLoad (l : List (UcAtt × UcProg)) (rate course : Nat) : Nat :=
  (l.map fun q => q.2.cycles * ((q.1.passes rate).filter fun p => p.1 == course).length).sum

/-- Rows used in a course (R296). -/
def ucRows (l : List (UcAtt × UcProg)) (rate course : Nat) : Nat :=
  (l.map fun q => ((q.1.passes rate).filter fun p => p.1 == course).length * (q.2.dataRows + 2 * q.2.paramRows)).sum

/-- The largest of a list of numbers. -/
def maxOf (l : List Nat) : Nat := l.foldl max 0

/-- A set of attachments fits the pool, the course loads and the rows: none, or the cause of R314: 1
pool, 2 course load, 3 rows. -/
def ucMisfit (v : Variant) (rate : Nat) (l : List (UcAtt × UcProg)) : Option Nat :=
  let pool := ucPool v rate
  if pool < ucChargeSum l then some 1
  else if pool / 512 < maxOf ((List.range 8).map (ucLoad l rate)) then some 2
  else if 2048 < maxOf ((List.range 8).map (ucRows l rate)) then some 3 else none

/-- Program words in use on a leaf. -/
def Leaf.ucWords (x : Leaf) : Nat := (x.scenes.map fun sc => (sc.uc.progs.map fun p => p.2.code.length).sum).sum

/-- A program slot has an attachment. -/
def Scene.progUsed (x : Scene) (i : Nat) : Bool := x.uc.atts.any fun q => q.2.state != 0 && q.2.program == i

/-- Effect of `UC_LOAD` (R307, R313). A program holds its words of the shared program memory (R290) from its
load, so a load that leaves too few ends in `NO_CAPACITY` and an attach finds no such case (R308)
(DESIGN CHOICE, log entry 72). -/
def runUcLoad (_ : Ctx) (m : Cmd) (d : List Byte) (x : Leaf) : LEff :=
  let i := u8 m.body 0
  let put : UcProg → Leaf := fun p => x.modScene fun sc => { sc with uc := { sc.uc with progs := tset sc.uc.progs i p prog0 } }
  if x.scene.progUsed i then .no x sBadState
  else if allZero m.body 16 16 then { x := put prog0 }
  else match ucFault d with
    | some o => .no x sBadField (0x80000000 + o)
    | none =>
      let p := ucImage d
      let w := (ucWorst p.code (ucFuel p) 0 (p.code.length + 1)).getD 0
      if 8192 < x.ucWords - (x.scene.prog i).code.length + p.code.length then .no x sNoCapacity
      else { x := put p, detail := w }

/-- `UC_LOAD` (R307, R313). -/
def specUcLoad : Spec where
  op := 0x0901
  len := fixedLen 32
  fields := fun _ c => [rng 0 (u8 c.body 0) 0 7, resv c 1 15]
  refs := fun c => if allZero c.body 16 16 then [] else [16]
  run := onLeaves runUcLoad

/-- The attachment that a `UC_ATTACH` names. -/
def attOf (c : Ctx) (b : List Byte) (d : List Byte) : UcAtt :=
  { state := 1, program := u8 b 2, point := u8 b 3, first := u16 b 4, count := u16 b 6, from_ := c.first,
    level := { start := 0, target := 1, first := c.first, len := u16 b 8 }, page0 := d }

/-- Effect of `UC_ATTACH` (R308, R310, R313). -/
def runUcAttach (v : Variant) (c : Ctx) (m : Cmd) (d : List Byte) (x : Leaf) : LEff :=
  let b := m.body
  let i := u8 b 0
  let a := x.scene.att i
  if u8 b 1 = 0 then
    (if a.state = 0 ∨ a.state = 3 ∨ (a.state = 1 ∧ c.n < a.level.first + a.level.len) then .no x sBadState
     else { x := x.modScene fun sc => sc.modAtt i fun a =>
              { a with state := 3, level := { start := 1, target := 0, first := c.first, len := u16 b 8 } } })
  else
    let p := x.scene.prog (u8 b 2)
    let new := attOf c b d
    let taken := x.scene.uc.atts.any fun q => q.2.point == new.point && (span new.first new.count).any q.2.covers
    if a.state ≠ 0 ∨ p.code.isEmpty = true ∨ bit p.points new.point = false ∨ taken = true then .no x sBadState
    else if (ucMisfit v x.clk.dom.rate (x.ucAll ++ [(new, p)])).isSome then .no x sNoCapacity
    else { x := x.modScene fun sc => sc.modAtt i fun _ => new }

/-- The length of a parameter page agrees with the program and items (R313). -/
def attachLenOk (s : State) (c : Cmd) : Bool :=
  let b := c.body
  allZero b 16 16 || match s.fnLeaf c.fn with
    | none => true
    | some x =>
      let p := x.scene.prog (u8 b 2)
      p.code.isEmpty || u32 b 24 == ucPageSize p ((attOf {} b []).passNos x.clk.dom.rate).length

/-- `UC_ATTACH` (R310, R313). -/
def specUcAttach : Spec where
  op := 0x0902
  len := fixedLen 32
  timed := true
  fields := fun s c =>
    let b := c.body
    let at_ := u8 b 1 == 1
    let cap := ucItems (s.fnDom c.fn).rate (u8 b 3)
    [rng 0 (u8 b 0) 0 15, rng 1 (u8 b 1) 0 1, (2, !at_ || decide (u8 b 2 < 8)), (3, !at_ || decide (u8 b 3 < 4)),
     (4, !at_ || decide (u16 b 4 < cap)), (6, !at_ || (decide (1 ≤ u16 b 6) && decide (u16 b 4 + u16 b 6 ≤ cap))),
     (8, decide (u16 b 8 ≤ 4096)), resv c 10 6, (24, !at_ || attachLenOk s c), resv c 28 4]
  refs := fun c => if u8 c.body 1 = 0 ∨ allZero c.body 16 16 = true then [] else [16]
  run := fun c prep d s => onLeaves (runUcAttach s.variant) c prep d s

/-- Change an attachment on every leaf that serves the function. -/
def onAtt (c : Cmd) (f : UcAtt → UcAtt) (s : State) : State :=
  (s.servers c.fn).foldl (fun s lg => s.modLeaf lg.1 fun x =>
    let x := if lg.2 then x.swapGuest else x
    let y := x.modScene fun sc => sc.modAtt (u8 c.body 0) f
    if lg.2 then y.swapGuest else y) s

/-- Effect of `UC_PARAM` (R309): the inactive page holds the new values and is used from sample n, or
from n + 1 where the change is not prepared. -/
def runUcParam (c : Ctx) (m : Cmd) (d : List Byte) (x : Leaf) : LEff :=
  let i := u8 m.body 0
  let a := x.scene.att i
  if a.state = 0 then .no x sBadState
  else
    let a := a.flipTick c.n
    let set : UcAtt :=
      if a.active = 0 then { a with page1 := d, flip := some c.first, staged := a.staged.filter fun k => k != m.acc }
      else { a with page0 := d, flip := some c.first, staged := a.staged.filter fun k => k != m.acc }
    { x := x.modScene fun sc => sc.modAtt i fun _ => set }

/-- `UC_PARAM` (R309, R313). -/
def specUcParam : Spec where
  op := 0x0903
  len := fixedLen 32
  timed := true
  fields := fun s c =>
    let b := c.body
    let lenOk := match s.fnLeaf c.fn with
      | none => true
      | some x =>
        let a := x.scene.att (u8 b 0)
        a.state == 0 || u32 b 24 == ucPageSize (x.scene.prog a.program) (a.passNos x.clk.dom.rate).length
    [rng 0 (u8 b 0) 0 15, resv c 1 15, (24, lenOk)]
  refs := fun _ => [16]
  pre := fun s c =>
    match s.fnLeaf c.fn with
    | none => (sOk, 0)
    | some x => if (x.scene.att (u8 c.body 0)).staged.isEmpty then (sOk, 0) else (sNoCapacity, 0)
  stage := fun c s => onAtt c (fun a => if a.state = 0 then a else { a with staged := [c.acc] }) s
  undo := fun c s => onAtt c (fun a => { a with staged := a.staged.filter fun k => k != c.acc }) s
  run := onLeaves runUcParam

/-- The response of `UC_QUERY` (R313). -/
def ucQueryResp (v : Variant) (x : Leaf) (i : Nat) : List Byte :=
  let a := x.scene.att i
  let rate := x.clk.dom.rate
  let all := x.ucAll
  let pool := ucPool v rate
  le8 a.state ++ le8 a.program ++ le8 a.point ++ le8 (a.active + 128 * b2n !a.staged.isEmpty) ++ le16 a.first ++ le16 a.count ++
    le32 (x.scene.ucCharge a) ++ le32 (pool - ucChargeSum all) ++ le16 (maxOf ((List.range 8).map (ucLoad all rate))) ++
    le16 (2048 - maxOf ((List.range 8).map (ucRows all rate))) ++ le16 (8192 - x.ucWords) ++ zeros 2 ++ le32 a.sats ++ le32 a.faults

/-- `UC_QUERY` (R313). -/
def specUcQuery : Spec where
  op := 0x0904
  len := fixedLen 4
  fields := fun _ c => [rng 0 (u8 c.body 0) 0 15, resv c 1 3]
  run := fun c prep d s => onLeaves (fun _ c _ x => { x := x, resp := ucQueryResp s.variant x (u8 c.body 0) }) c prep d s

end Sys2Proof.Machine
end

