-- ==== Sys2Proof/Machine/Clocks.lean ====
section
/-! DEFINITION. Time bases, their servo, holdover and re-acquisition, PTP, word clock and PLLs
(chapter 13), and the commands of group 0x0B. -/

namespace Sys2Proof.Machine

/-! Time bases (R343 to R357). -/

/-- Units of a time base in a number of nanoseconds. -/
def nsUnits (ns : Rat) : Int := (ns * (2 : Rat) ^ 51 / 5).floor

/-- 200 ppm at the resolution of a frequency correction (R343). -/
def ppm200 : Int := 200 * 2 ^ 48 / 1000000

/-- A frequency correction held to its resolution and clamped (R343, R350, DESIGN CHOICE, log entry 11). -/
def freqOf (q : Rat) : Int := clampI (-ppm200) ppm200 (coef 48 q)

/-- A frequency correction as a fraction. -/
def freqVal (y : Int) : Rat := (y : Rat) / (2 : Rat) ^ 48

/-- A time base never steps below 0. -/
def TimeBase.shift (t : TimeBase) (ns : Rat) : TimeBase := { t with t := ((t.t : Int) + nsUnits ns).toNat }

/-- The logarithm of the interval between Sync messages: the profile's default or the override
(R347, PRESUMED, log entry 13). -/
def TimeBase.logSyncUsed (t : TimeBase) : Int := if t.logSync = 127 then -3 else t.logSync
/-- The logarithm of the interval between Announce messages
(PRESUMED, log entry 13). -/
def TimeBase.logAnnUsed (t : TimeBase) : Int := if t.logAnn = 127 then (if t.profile = 0 then -2 else 1) else t.logAnn

/-- Sample interval T in seconds (R350, R359). -/
def TimeBase.interval (t : TimeBase) : Rat := if t.source = 2 then 1 / 1000 else pow2 t.logSyncUsed

/-- Jump threshold of a time base in ns (R351, R359). -/
def TimeBase.threshold (t : TimeBase) : Rat :=
  if t.source = 2 then
    (if rateHz t.wcRate = 0 then (t.jump : Rat) else minQ (t.jump : Rat) (400000000 / (rateHz t.wcRate : Rat)))
  else (t.jump : Rat)

/-- The streams of a scene that a domain carries and that are enabled. -/
def Scene.domainLive (x : Scene) (d : Nat) : Bool :=
  (x.net.rx.any fun p => p.2.on && p.2.set.domain == d) ||
    (x.net.tx.any fun p => (p.2.on || p.2.sending) && (p.2.next.getD p.2.set).domain == d)

/-- A time base is idle: no stream of a domain that takes ticks from it is enabled (R346, R355). -/
def Leaf.tbIdle (x : Leaf) (i : Nat) : Bool :=
  [0, 1, 2].all fun d => (x.domain d).tb != i || (x.domain d).rate == 0 || !(x.scenes.any fun sc => sc.domainLive d)

/-- A leaf with one rate domain changed. -/
def Leaf.modDomain (x : Leaf) (d : Nat) (f : Domain → Domain) : Leaf :=
  match d with
  | 0 => { x with clk := { x.clk with dom := f x.clk.dom } }
  | 1 => { x with clk := { x.clk with side1 := f x.clk.side1 } }
  | _ => { x with clk := { x.clk with side2 := f x.clk.side2 } }

/-- The next meridian after a step by -`theta` ns: at least one full period of elapsed time after the
previous one (R356). -/
def Domain.afterStep (d : Domain) (theta : Rat) : Domain :=
  let fs := rateHz d.rate
  if fs = 0 then d else
    { d with minNext := max 1 ((((d.count + 1 : Nat) : Rat) * 1000000000 / (fs : Rat) - theta) * (2 : Rat) ^ 51 / 5).ceil.toNat }

/-- A step of a time base by its offset (R356)
(DESIGN CHOICE, log entry 14). -/
def Leaf.stepTb (x : Leaf) (i : Nat) (theta : Rat) : Leaf :=
  let x := x.modTb i fun t => { t.shift (-theta) with y := t.yI }
  [0, 1, 2].foldl (fun x d => if (x.domain d).tb = i then x.modDomain d fun k => k.afterStep theta else x) x

/-- `CLK_TB_STATE` (R373). -/
def tbStateEv (i : Nat) (old : Nat) (t : TimeBase) (cause : Nat) : List Ev :=
  if old = t.state then [] else
    [{ code := 0x0BF0, sev := 2, subject := i, payload := le8 old ++ le8 t.state ++ le8 cause ++ zeros 5 ++ (beBytes 8 t.gm) }]

/-- Holdover: the frequency is held at the integral term (R353). -/
def TimeBase.hold (t : TimeBase) (cycles : Nat) : TimeBase :=
  if t.state = 1 ∨ t.state = 3 then t
  else { t with state := 1, y := t.yI, holdStart := cycles, inRun := 0, outRun := 0, slewing := false, rem := 0 }

/-- A time base enters holdover for a cause. -/
def Leaf.enterHold (x : Leaf) (i cause : Nat) : LEff :=
  let old := x.tb i
  let new := old.hold x.clk.cycles
  { x := x.modTb i fun _ => new, evs := tbStateEv i old.state new cause }

/-- A refused sample (R351): the eighth is a discontinuity. -/
def Leaf.refuse (x : Leaf) (i : Nat) : LEff :=
  let t := x.tb i
  let run := t.run + 1
  let t' := { t with run := run, refused := min 65535 (t.refused + 1), inRun := 0, outRun := 0, thrRun := 0 }
  if run = 8 ∧ t.pending = false then
    let h := t'.hold x.clk.cycles
    { x := x.modTb i fun _ => { h with pending := true, due := true }, evs := tbStateEv i t.state h 2 }
  else { x := x.modTb i fun _ => t' }

/-- The loop bandwidth in use (R350). -/
def TimeBase.bandwidth (t : TimeBase) : Rat := minQ t.bw (1 / (20 * t.interval))

/-- The servo's update (R350): `theta` in ns. -/
def TimeBase.servo (t : TimeBase) (theta : Rat) : TimeBase :=
  let w := 2 * piQ * t.bandwidth
  let s := theta / 1000000000
  let yI := freqOf (freqVal t.yI - w * w * s * t.interval)
  { t with yI := yI, y := freqOf (freqVal yI - 2 * w * s) }

/-- An accepted sample (R350, R352, R354): the servo acts, and lock is declared or lost. A return to
samples carries cause 5, a loss of lock outside the window an open one (DESIGN CHOICE, log entry 73). -/
def Leaf.acceptSample (x : Leaf) (i : Nat) (theta : Rat) : LEff :=
  let t := x.tb i
  let t1 := { t with run := 0, thrRun := if t.pending then t.thrRun + 1 else 0 }
  if t.pending ∧ t1.thrRun < 8 then { x := x.modTb i fun _ => t1 }
  else
    let t1 := { t1 with pending := false, due := false, thrRun := 0 }
    let resumed := t.state == 1
    let t1 := if resumed then { t1 with state := 2, inRun := 0, outRun := 0 } else t1
    let t2 := t1.servo theta
    let inside := decide (absQ theta ≤ (t.window : Rat))
    let t2 := if inside then { t2 with inRun := if t2.slewing then 0 else t2.inRun + 1, outRun := 0 }
      else { t2 with inRun := 0, outRun := t2.outRun + 1 }
    let lock := decide (8 ≤ t2.inRun) && t2.state == 2 && !t2.slewing
    let lose := decide (8 ≤ t2.outRun) && t2.state == 0
    let cause := if lock then (if t.acquiring then 0 else 5) else if resumed then 5
      else (Config.of "unlockCause" [(i : Rat), theta, (x.clk.cycles : Rat)]).floor.toNat % 256
    let t3 := if lock then { t2 with state := 0, acquiring := false, hadLock := true } else if lose then { t2 with state := 2 } else t2
    { x := x.modTb i fun _ => t3, evs := tbStateEv i t.state t3 cause }

/-- The slew of R357: what is left of the offset moves towards 0 by s·T. -/
def TimeBase.slewOn (t : TimeBase) : TimeBase :=
  if !t.slewing then t else
    let d := (t.slew : Rat) * t.interval
    let r := if 0 < t.rem then maxQ 0 (t.rem - d) else minQ 0 (t.rem + d)
    { t with rem := r, slewing := decide (r ≠ 0) }

/-- The time of day that a word-clock time base takes at acquisition (R359): that of its epoch time
base if it is locked, otherwise 0, on the nearest edge. -/
def Leaf.wordEpoch (x : Leaf) (t : TimeBase) (theta : Rat) : TimeBase :=
  let e := x.tb t.epoch
  let day : Int := if t.epoch < 4 ∧ e.state = 0 then (e.t : Int) else 0
  let al := t.shift (-theta)
  let period : Rat := if rateHz t.wcRate = 0 then 1 else 1000000000 / (rateHz t.wcRate : Rat) * (2 : Rat) ^ 51 / 5
  { al with t := ((al.t : Rat) + period * (roundEven (((day : Rat) - (al.t : Rat)) / period) : Rat)).floor.toNat }

/-- The step of an acquiring time base to its reference (R346, R359). -/
def Leaf.acquireTb (x : Leaf) (i : Nat) (theta : Rat) : Leaf :=
  let t := x.tb i
  let y := (x.modTb i fun t => { t with fresh := false, plan := none }).stepTb i theta
  if t.source = 2 then y.modTb i fun u => { u with t := (x.wordEpoch t theta).t } else y

/-- One offset sample of a time base, in ns (R346, R350 to R357, R359). A sample that comes while the
step of an acquisition is journalled is only measured (R358, DESIGN CHOICE, log entry 73). -/
def Leaf.sampleTb (x : Leaf) (i : Nat) (theta : Rat) : LEff :=
  let t0 := x.tb i
  let t := ({ t0 with theta := theta } : TimeBase).slewOn
  let x := x.modTb i fun _ => t
  if t.rateChange || (t.fresh && t.plan.isSome) then { x := x }
  else if t.acquiring && t.fresh && x.tbIdle i then (x.acquireTb i theta).acceptSample i 0
  else
    let x := x.modTb i fun t => { t with fresh := false }
    let th := theta - t.rem
    if t.threshold < absQ th then x.refuse i else x.acceptSample i th

/-- Twin mode: the active leaf's decision on a time base is journalled for both leaves at a meridian 2 ms
ahead; it reaches the peer over the tie link (R15, R358). -/
def State.shareTb (s : State) (l : LeafId) (i action : Nat) (theta : Rat) : State :=
  let x := s.leaf l
  let at_ := x.clk.dom.count + 1 + 2 * x.fs / 1000
  (if s.red.tieUp then [LeafId.a, .b] else [l]).foldl
    (fun s k => s.modLeaf k fun x => x.modTb i fun u => { u with plan := some (action, theta, at_) }) s

/-- Twin mode on a rendering leaf: the first sample of an acquiring, idle time base is a decision to step
(R346, R358); without meridians each leaf steps at its own sample (DESIGN CHOICE, log entry 73). -/
def State.acquireShared (s : State) (l : LeafId) (i : Nat) : Bool :=
  let x := s.leaf l
  let t := x.tb i
  s.twin && x.fs != 0 && t.acquiring && t.fresh && !t.rateChange && t.plan.isNone && x.tbIdle i

/-- Carry a sample out on a leaf, with the report of a refusal; in twin mode the standby's refusals
and discontinuities raise nothing and decide nothing (R351, R358). -/
def State.tbSample (s : State) (l : LeafId) (i : Nat) (theta : Rat) : State :=
  if s.acquireShared l i then
    let s := s.modLeaf l fun x => x.modTb i fun t => { t with theta := theta }
    if l = s.red.active then s.shareTb l i 4 theta else s
  else
  let before := (s.leaf l).tb i
  let standby := s.twin && l != s.red.active
  let r := (s.leaf l).sampleTb i theta
  let after := r.x.tb i
  let refused := decide (before.run < after.run)
  let quiet := standby && refused
  let s := s.leafStep l fun _ => if quiet then { r with x := r.x.modTb i fun t => { t with due := false }, evs := [] } else r
  if refused && !standby then
    s.reportOn (s.fnOf l) l
      { code := 0x0BF1, subject := i, sev := 2, front := sle32 (clampI (-(2 ^ 31)) (2 ^ 31 - 1) theta.floor), width := 2, count := 1 }
  else s

/-- `SERVO_SAMPLE` (R350): a PTP instance in the slave state measures an offset, in ns before its
asymmetry is taken away: half of the value, whose error biases the time base by half (R349, DEDUCED, log
entry 73)
(DEDUCED, log entry 77). -/
def execServoSample (l : LeafId) (tb : Nat) (theta : Int) (s : State) : Res :=
  let t := (s.leaf l).tb tb
  .next <|
    if 4 ≤ tb ∨ t.source ≠ 1 ∨ t.portState ≠ 9 ∨ t.hasPath = false then s
    else s.tbSample l tb ((theta : Rat) - (t.asym : Rat) / 2)

/-- `WCLK_SAMPLE` (R359). -/
def execWclkSample (l : LeafId) (tb : Nat) (theta : Int) (s : State) : Res :=
  let t := (s.leaf l).tb tb
  .next (if 4 ≤ tb ∨ t.source ≠ 2 ∨ t.stopped = true then s else s.tbSample l tb (theta : Rat))

/-! Discontinuities (R355 to R358). -/

/-- Estimated slew time in ms. -/
def TimeBase.slewMs (t : TimeBase) : Nat := (absQ t.theta * 1000 / (t.slew : Rat)).floor.toNat

/-- `CLK_DISCONTINUITY` (R373). -/
def discontinuityEv (i kind action : Nat) (t : TimeBase) (rate : Nat) : Ev :=
  { code := 0x0BF2, sev := 2, subject := i, autonomy := t.policy, flags := if action = 0 then 0 else 1,
    payload := le8 kind ++ le8 action ++ zeros 6 ++ sle64 t.theta.floor ++ le32 (if action = 2 then t.slewMs else 0) ++ le8 rate }

/-- A word-clock rate is adopted: the time base re-acquires under R354 (R361). -/
def TimeBase.adopt (t : TimeBase) (rate : Nat) : TimeBase :=
  { t with wcRate := rate, rateChange := false, run := 0, pending := false, due := false, plan := none }

/-- A pending discontinuity is resolved: 1 step, 2 slew, 3 stay in holdover (R355 to R357, R372); 4 is the
step of an acquisition (R346) and 5 the adoption of the word-clock rate whose code is `theta` (R361)
(DESIGN CHOICE, log entries 14 and 73)
(DESIGN CHOICE, log entry 14; DESIGN CHOICE, log entry 73). -/
def Leaf.resolveTb (x : Leaf) (i action : Nat) (theta : Rat) : LEff :=
  let old := (x.tb i).state
  let clear : TimeBase → TimeBase := fun t => { t with pending := false, due := false, run := 0, thrRun := 0, plan := none }
  match action with
  | 1 =>
    let x := (x.modTb i clear).stepTb i theta
    let x := x.modTb i fun t => { t with state := 2, inRun := 0, outRun := 0, theta := 0 }
    { x := x, evs := tbStateEv i old (x.tb i) 6 }
  | 2 =>
    let x := (x.modTb i clear).modTb i fun t => { t with state := 2, slewing := decide (theta ≠ 0), rem := theta, inRun := 0, outRun := 0 }
    { x := x, evs := tbStateEv i old (x.tb i) 2 }
  | 4 => (x.acquireTb i theta).acceptSample i 0
  | 5 =>
    let t := x.tb i
    { x := x.modTb i fun t => t.adopt theta.floor.toNat,
      evs := [discontinuityEv i 1 3 t theta.floor.toNat] }
  | _ => { x := x.modTb i clear }

/-- The decision of the re-acquisition policy at a render meridian (R355, R358). In twin mode it is the
active leaf's, for both leaves. -/
def State.decideTb (s : State) (l : LeafId) (i : Nat) : State :=
  let x := s.leaf l
  let t := x.tb i
  if !t.due || !t.pending then s else
    let action := if t.policy = 2 then (if x.tbIdle i then 1 else 2) else 0
    let s := s.modLeaf l fun x => x.modTb i fun t => { t with due := false }
    let s := if t.policy = 0 then s else
      let e := discontinuityEv i 0 action t t.wcSeen
      s.leafEvent l e.code e.sev e.subject e.payload e.autonomy e.flags
    if action = 0 then s
    else if s.twin then s.shareTb l i action t.theta
    else s.leafStep l fun x => x.resolveTb i action t.theta

/-- A journalled decision reaches its meridian (R358)
(DESIGN CHOICE, log entry 14). -/
def State.planTb (s : State) (l : LeafId) (i : Nat) : State :=
  match ((s.leaf l).tb i).plan with
  | some (a, theta, at_) =>
    if (s.leaf l).clk.dom.count < at_ then s
    else s.leafStep l fun x =>
      let r := x.resolveTb i a theta
      if s.twin && l != s.red.active && a == 5 then { r with evs := [] } else r
  | none => s

/-- `CLK_DISCONTINUITY_DECISION` (R355). -/
def execClkDiscontinuityDecision (l : LeafId) (tb : Nat) (s : State) : Res := .next (if 4 ≤ tb then s else s.decideTb l tb)

/-! PTP (R347, R348, R353). -/

/-- Identity of an instance's clock (R347). -/
def Leaf.clockId (x : Leaf) (l : LeafId) (t : TimeBase) : Nat :=
  let m := (x.port t.port).address l t.port
  m / 16777216 * 2 ^ 40 + 0xFFFE * 2 ^ 24 + m % 16777216

/-- A PTP instance reaches a port state (R348, R353): leaving SLAVE other than for MASTER is a loss of
the reference; MASTER holds the frequency. The cause codes of becoming and ceasing to be the master are the model's
(DESIGN CHOICE, log entry 73). -/
def Leaf.ptpState (x : Leaf) (i new : Nat) : LEff :=
  let t := x.tb i
  if t.portState = new then { x := x }
  else
    let x := x.modTb i fun t => { t with portState := new }
    if new = 6 then
      let h : TimeBase := if t.hadLock then { (x.tb i).hold x.clk.cycles with acquiring := t.acquiring }
        else { x.tb i with state := 3, y := 0, yI := 0, slewing := false, rem := 0 }
      { x := x.modTb i fun _ => h, evs := tbStateEv i t.state h 1 }
    else if t.portState = 6 ∧ t.state = 3 then
      let u := { x.tb i with state := 2 }
      { x := x.modTb i fun _ => u, evs := tbStateEv i 3 u 4 }
    else if t.portState = 9 then x.enterHold i 1
    else { x := x }

/-- `PTP_ANNOUNCE_TIMEOUT` (R353): the instance is left without a master; one that may become master
does so. -/
def execPtpAnnounceTimeout (l : LeafId) (tb : Nat) (s : State) : Res :=
  let t := (s.leaf l).tb tb
  .next <|
    if 4 ≤ tb ∨ t.source ≠ 1 ∨ t.portState = 6 then s
    else s.leafStep l fun x => x.ptpState tb (if t.role = 1 then 6 else 4)

/-- `PTP_SYNC_TIMEOUT` (R353). -/
def execPtpSyncTimeout (l : LeafId) (tb : Nat) (s : State) : Res :=
  let t := (s.leaf l).tb tb
  .next (if 4 ≤ tb ∨ t.source ≠ 1 ∨ t.portState ≠ 9 then s else s.leafStep l fun x => x.enterHold tb 1)

/-- The order of two data sets in the best master clock algorithm: the first is better (PRESUMED, log entry 13). -/
def ptpBetter (a b : List Nat) : Bool :=
  match a, b with
  | x :: r, y :: q => if x = y then ptpBetter r q else decide (x < y)
  | _, _ => false

/-- `PTP_ANNOUNCE_RX` (R347, R348). -/
def execPtpAnnounceRx (l : LeafId) (tb : Nat) (m : PtpAnnounce) (s : State) : Res :=
  let x := s.leaf l
  let t := x.tb tb
  let own := [t.prio1, t.clockClass, 0xFE, 0xFFFF, t.prio2, x.clockId l t]
  let theirs := [m.prio1, m.clockClass, m.accuracy, m.variance, m.prio2, m.gm]
  let better := ptpBetter own theirs
  let new := if t.role = 0 then 9 else if better then 6 else if within 1 127 t.clockClass then 7 else 9
  .next <|
    if 4 ≤ tb ∨ t.source ≠ 1 then s
    else s.leafStep l fun x => (if new = 9 then x.modTb tb fun t => { t with gm := m.gm } else x).ptpState tb new

/-- `PTP_DELAY_RESP_RX` (R350): a path-delay measurement is complete, in ns. -/
def execPtpDelayRespRx (l : LeafId) (tb path : Nat) (s : State) : Res :=
  let t := (s.leaf l).tb tb
  .next (if 4 ≤ tb ∨ t.source ≠ 1 then s else s.modLeaf l fun x => x.modTb tb fun t => { t with path := path, hasPath := true })

/-- A PTP message of an instance: the common header and a body (R347, PRESUMED, log entry 13). -/
def ptpMessage (type_ domain flags id seq logInt : Nat) (body : List Byte) : List Byte :=
  beBytes 1 type_ ++ beBytes 1 0x12 ++ beBytes 2 (34 + body.length) ++ beBytes 1 domain ++ [0] ++ beBytes 2 flags ++ zeros 12 ++
    beBytes 8 id ++ beBytes 2 1 ++ beBytes 2 seq ++ [0] ++ beBytes 1 (logInt % 256) ++ body

/-- Send a PTP message by the instance's transport, event messages in queue 7 and general ones in
queue 5 (R319, R338, R347)
(PRESUMED, log entry 13). -/
def State.ptpSend (s : State) (l : LeafId) (i : Nat) (event peer : Bool) (msg : List Byte) : State :=
  let t := (s.leaf l).tb i
  let q := (s.leaf l).port t.port
  let mac := q.address l t.port
  let queue := if event then 7 else 5
  if bit t.flags 1 then
    s.portSend l t.port queue (etherFrame (if peer then 0x0180C200000E else 0x011B19000000) mac 0x88F7 msg)
  else
    let ip := if peer then 0xE000006B else 0xE0000181
    let port := if event then 319 else 320
    s.portSend l t.port queue (etherFrame (groupMac ip) mac 0x0800
      (ipPacket (46 * 4) (ipIdent [(t.seq : Rat), (i : Rat)]) 1 17 q.ip ip (udpPacket q.ip ip port port msg)))

/-- A PTP timestamp of a time in ns
(PRESUMED, log entry 13). -/
def ptpStamp (ns : Nat) : List Byte := beBytes 6 (ns / 1000000000) ++ beBytes 4 (ns % 1000000000)

/-- `PTP_MESSAGE_INTERVAL` (R347, R348): a master sends Sync, with Follow_Up where it is two-step, and
Announce; a slave asks for a delay. -/
def execPtpMessageInterval (l : LeafId) (tb : Nat) (s : State) : Res :=
  let x := s.leaf l
  let t := x.tb tb
  if 4 ≤ tb ∨ t.source ≠ 1 then .next s else
    let id := x.clockId l t
    let two := bit t.flags 0
    let peer := t.mech == 1
    let stamp := s.fresh "txTime"
    let s1 := stamp.2.modLeaf l fun x => x.modTb tb fun t => { t with seq := (t.seq + 1) % 65536 }
    let msg : Nat → Nat → Int → List Byte → List Byte := fun ty fl li b =>
      ptpMessage ty t.domain fl id t.seq (unsigned 8 li) b
    .next <|
      if t.portState = 6 then
        let ann := zeros 10 ++ beBytes 2 ((Config.of "currentUtcOffset" []).floor.toNat) ++ [0] ++ beBytes 1 t.prio1 ++
          beBytes 1 t.clockClass ++ [0xFE] ++ beBytes 2 0xFFFF ++ beBytes 1 t.prio2 ++ beBytes 8 id ++ beBytes 2 0 ++ [0xA0]
        let s2 := s1.ptpSend l tb true false (msg 0 (if two then 0x0200 else 0) t.logSyncUsed (if two then zeros 10 else ptpStamp stamp.1))
        let s2 := if two then s2.ptpSend l tb false false (msg 8 0 t.logSyncUsed (ptpStamp stamp.1)) else s2
        s2.ptpSend l tb false false (msg 11 0 t.logAnnUsed ann)
      else if t.portState = 9 then
        (if peer then s1.ptpSend l tb true true (msg 2 0 127 (zeros 20)) else s1.ptpSend l tb true false (msg 1 0 127 (zeros 10)))
      else s

/-! Word clock (R359 to R361). -/

/-- `WCLK_STOP` (R360). -/
def execWclkStop (l : LeafId) (tb : Nat) (s : State) : Res :=
  let t := (s.leaf l).tb tb
  .next <|
    if 4 ≤ tb ∨ t.source ≠ 2 ∨ t.stopped = true then s
    else s.leafStep l fun x => (x.modTb tb fun t => { t with stopped := true }).enterHold tb 1

/-- `WCLK_RETURN` (R360): sixteen consecutive accepted edges. -/
def execWclkReturn (l : LeafId) (tb : Nat) (s : State) : Res :=
  let t := (s.leaf l).tb tb
  .next <|
    if 4 ≤ tb ∨ t.source ≠ 2 ∨ t.stopped = false then s
    else s.modLeaf l fun x => x.modTb tb fun t => { t with stopped := false }

/-- The rate code nearest a measured rate in Hz. -/
def nearestRate (hz : Nat) : Nat :=
  ((List.range 6).foldl (fun (b : Nat × Nat) i =>
    let d := ((hz : Int) - (rateHz (i + 1) : Int)).natAbs
    if b.1 = 0 ∨ d < b.2 then (i + 1, d) else b) (0, 0)).1

/-- `WCLK_RATE_WINDOW` (R361): a 100 ms window counted a number of edges. In twin mode the adoption is the
active leaf's decision, journalled as R358 says, and the standby raises nothing. A change once found
stays until a rate is adopted (DESIGN CHOICE, log entry 73). -/
def execWclkRateWindow (l : LeafId) (tb edges : Nat) (s : State) : Res :=
  let x := s.leaf l
  let t := x.tb tb
  let nom := rateHz t.wcRate
  let hz := edges * 10
  let seen := nearestRate hz
  let off := decide (nom < 200 * ((hz : Int) - (nom : Int)).natAbs)
  if 4 ≤ tb ∨ t.source ≠ 2 ∨ t.stopped = true then .next s
  else if !off then .next (s.modLeaf l fun x => x.modTb tb fun t => { t with wcSeen := seen })
  else
    let near := decide (2000 * ((hz : Int) - (rateHz seen : Int)).natAbs ≤ rateHz seen)
    let u := { t with wcSeen := seen, rateChange := true, state := 2, y := t.yI, slewing := false, rem := 0, inRun := 0, outRun := 0 }
    let standby := s.twin && l != s.red.active
    let adopt := t.policy == 2 && near
    let shared := s.twin && x.fs != 0
    let tell := !t.rateChange && t.policy == 1
    let evs := tbStateEv tb t.state u 3 ++ (if tell then [discontinuityEv tb 1 0 u seen] else [])
    let s := s.leafStep l fun x => { x := x.modTb tb fun _ => u, evs := if standby then [] else evs }
    .next <|
      if !adopt || (standby && shared) then s
      else if shared then (if t.plan.isSome then s else s.shareTb l tb 5 (seen : Rat))
      else s.leafStep l fun x =>
        let r := x.resolveTb tb 5 (seen : Rat)
        if standby then { r with evs := [] } else r

/-! PLLs (R367 to R370). -/

/-- A PLL of a leaf: 0 core, 1 DRAM, 2 audio, 3 SerDes, 4 tie link (R373). The SerDes PLL of ETH1, which
R373 does not number apart, is 5 here (DESIGN CHOICE, log entry 65). -/
def Clk.pll (c : Clk) : Nat → Pll
  | 0 => c.core
  | 1 => c.dram
  | 2 => c.audio
  | 3 => c.serdes0
  | 5 => c.serdes1
  | _ => c.tie

/-- A leaf with one PLL changed. -/
def Leaf.modPll (x : Leaf) (i : Nat) (f : Pll → Pll) : Leaf :=
  let c := x.clk
  { x with clk := match i with
    | 0 => { c with core := f c.core }
    | 1 => { c with dram := f c.dram }
    | 2 => { c with audio := f c.audio }
    | 3 => { c with serdes0 := f c.serdes0 }
    | 5 => { c with serdes1 := f c.serdes1 }
    | _ => { c with tie := f c.tie } }

/-- A leaf is in service (R491). -/
def State.inService (s : State) (l : LeafId) : Bool :=
  !((s.red.mode == 1 && (s.red.of l).claim == 0 && s.red.active == l.other) ||
    (s.red.mode == 0 && (s.leaf l).clk.dom.rate == 0))

/-- `PLL_LOCK_WINDOW` (R368, R370): the counts of a window differ by `diff`; `refOk` says that the
reference count is at least half its expected value
(DEDUCED, log entry 28). -/
def execPllLockWindow (l : LeafId) (pll diff : Nat) (refOk : Bool) (s : State) : Res :=
  let p := (s.leaf l).clk.pll pll
  if 6 ≤ pll then .next s
  else if refOk ∧ diff ≤ 2 then
    let good := min 4 (p.good + 1)
    .next (s.modLeaf l fun x =>
      let y := x.modPll pll fun p => { p with good := good, locked := p.locked || decide (4 ≤ good) }
      let c := y.clk
      if good = 4 ∧ (c.core.locked || pll != 0) ∧ (c.audio.locked || pll != 2) then
        { y with clk := { c with alarm := c.alarm && !(c.core.locked && c.audio.locked) } } else y)
  else
    let alarm := p.locked && !p.gated
    let s := s.modLeaf l fun x =>
      let y := x.modPll pll fun p =>
        { p with good := 0, locked := false, lol := p.lol || (alarm && refOk), refLoss := p.refLoss || (alarm && !refOk) }
      if alarm then { y with clk := { y.clk with lolCount := (y.clk.lolCount + 1) % 4294967296,
                                                  alarm := y.clk.alarm || pll == 0 || pll == 2 } } else y
    .next (if alarm then s.leafEvent l 0x0BF3 3 4294967295 (le8 (if pll = 5 then 3 else pll) ++ le8 (if refOk then 0 else 1)) else s)

/-- A PLL's output is gated until it locks (R369)
(DEDUCED, log entry 28). -/
def Leaf.gatePll (x : Leaf) (i : Nat) : Leaf := x.modPll i fun p => { p with gated := true, locked := false, good := 0 }

/-- The factory table of the DRAM interface (R466): the delay of a byte lane at a frequency, for reads 0,
writes 1 or commands 2, one of 64 settings (R468); its values are open (DESIGN CHOICE, log entry 75). -/
def factoryDelay (test : Bool) (lane kind : Nat) : Nat :=
  (Config.of "dramDelay" [(b2n test : Rat), (lane : Rat), (kind : Rat)]).floor.toNat % 64

/-- The firmware writes every byte lane's delays from the factory table of a frequency (R466). -/
def Leaf.loadDelays (x : Leaf) (test : Bool) : Leaf :=
  { x with dramc := { x.dramc with
    test := test,
    lanes := (List.range 16).map fun i =>
      { read := factoryDelay test i 0, write := factoryDelay test i 1, cmd := factoryDelay test i 2 } } }

/-- A PLL relocks (R367, R370): its output is gated. A relock of the DRAM PLL during a delay sweep waits
for the sweep to end (R469). -/
def Leaf.relockPll (x : Leaf) (k : Nat) : Leaf :=
  if k = 1 ∧ (x.boot.tests.any fun t => t.op == 0x0F03) = true then { x with dramc := { x.dramc with relock := true } }
  else x.gatePll k

/-- `PLL_GATE_END` (R369): 64 reference cycles after lock. The microphone channels settle once their
clocks run again (R386), and the DRAM's delays are loaded (R466, R467)
(DEDUCED, log entry 28). -/
def execPllGateEnd (l : LeafId) (pll : Nat) (s : State) : Res :=
  let p := (s.leaf l).clk.pll pll
  .next <|
    if 6 ≤ pll ∨ p.gated = false ∨ p.locked = false then s
    else s.modLeaf l fun x =>
      let x := x.modPll pll fun p => { p with gated := false }
      if pll = 2 then x.micResettle else if pll = 1 then x.loadDelays x.dramc.test else x

/-! Group 0x0B. -/

/-- An interval field in range or at the profile's default. -/
def intervalOk (b : List Byte) (i : Nat) (lo hi : Int) : Bool := u8 b i == 127 || within lo hi (s8 b i)

/-- Field checks of `CLK_TB_SOURCE` (R372). -/
def tbSourceFields (_ : State) (c : Cmd) : List (Nat × Bool) :=
  let b := c.body
  let src := u8 b 1
  let ptp := src == 1
  let wc := src == 2
  let f : Nat → Bool → Nat × Bool := fun i ok => (i, if ptp then ok else u8 b i == 0)
  [rng 0 (u8 b 0) 0 3, rng 1 src 0 2, f 2 (decide (u8 b 2 < 2)), f 3 (decide (u8 b 3 < 128)), f 4 (decide (u8 b 4 < 2)),
   f 5 (decide (u8 b 5 < 2)), f 6 (decide (u8 b 6 < 2)), f 7 (decide (u8 b 7 < 4)), f 8 true, f 9 true, f 10 (decide (6 ≤ u8 b 10)),
   f 11 (within 2 10 (u8 b 11) || u8 b 11 == 127), f 12 (intervalOk b 12 (-3) 4), f 13 (intervalOk b 13 (-7) 1),
   f 14 (intervalOk b 14 (-7) 5), (15, if wc then within 1 6 (u8 b 15) else u8 b 15 == 0),
   (16, if wc then (decide (u8 b 16 < 4) && u8 b 16 != u8 b 0) || u8 b 16 == 255 else u8 b 16 == 0), resv c 17 3,
   (20, if ptp then within (-1000000) 1000000 (s32 b 20) else u32 b 20 == 0), resv c 24 8]

/-- Effect of `CLK_TB_SOURCE` (R345 to R348, R372). A change of source is one of the source, its port,
domain, profile, role, transport or rate; other fields take hold without one (DESIGN CHOICE, log entry
73)
(DESIGN CHOICE, log entry 73). -/
def runTbSource (twin : Bool) (_ : Ctx) (m : Cmd) (_ : List Byte) (x : Leaf) : LEff :=
  let b := m.body
  let i := u8 b 0
  let t := x.tb i
  let src := u8 b 1
  let clash := src == 1 && ([0, 1, 2, 3].any fun k =>
    k != i && (x.tb k).source == 1 && (x.tb k).port == u8 b 2 && (x.tb k).domain == u8 b 3)
  if clash then .no x sBadState
  else if twin && src == 1 && u8 b 5 == 1 then .no x sBadState
  else
    let same := t.source == src && t.port == u8 b 2 && t.domain == u8 b 3 && t.profile == u8 b 4 && t.role == u8 b 5 &&
      bit t.flags 1 == bit (u8 b 7) 1 && t.wcRate == u8 b 15 && !t.rateChange
    let set := { t with
      source := src, port := u8 b 2, domain := u8 b 3, profile := u8 b 4, role := u8 b 5, mech := u8 b 6, flags := u8 b 7,
      prio1 := u8 b 8, prio2 := u8 b 9, clockClass := u8 b 10, annTimeout := u8 b 11, logAnn := s8 b 12, logSync := s8 b 13,
      logDelay := s8 b 14, wcRate := u8 b 15, epoch := u8 b 16, asym := s32 b 20 }
    let v := if same then set else
      { set with
        acquiring := true, fresh := true, state := if src = 0 then 3 else 2, y := if src = 0 then 0 else t.yI,
        yI := if src = 0 then 0 else t.yI, run := 0, inRun := 0, outRun := 0, thrRun := 0, pending := false, due := false,
        plan := none, slewing := false, rem := 0, rateChange := false, hasPath := false, hadLock := false, gm := 0,
        portState := if src = 1 then 4 else 0, stopped := false, wcSeen := 0 }
    { x := x.modTb i fun _ => v, evs := tbStateEv i t.state v 4 }

/-- `CLK_TB_SOURCE` (R343, R372). -/
def specClkTbSource : Spec where
  op := 0x0B01
  len := fixedLen 32
  timed := true
  fields := tbSourceFields
  run := fun c prep d s => onLeaves (runTbSource s.twin) c prep d s

/-- `CLK_SERVO` (R372). -/
def specClkServo : Spec where
  op := 0x0B02
  len := fixedLen 24
  timed := true
  fields := fun _ c =>
    let b := c.body
    [rng 0 (u8 b 0) 0 3, rng 1 (u8 b 1) 0 2, resv c 2 2, (4, f32In b 4 (1 / 1000) 10), rng 8 (u32 b 8) 1000 1000000000,
     (12, within 50 100000 (u32 b 12) && decide (u32 b 12 < u32 b 8)), rng 16 (u32 b 16) 100 10000, resv c 20 4]
  run := onLeaves fun _ c _ x =>
    let b := c.body
    { x := x.modTb (u8 b 0) fun t =>
        { t with policy := u8 b 1, bw := f32D b 4, jump := u32 b 8, window := u32 b 12, slew := u32 b 16 } }

/-- Effect of `CLK_TB_ACTION` (R355 to R358, R372); in twin mode both leaves take the active leaf's
offset. A step on a rendering leaf waits for the coming meridian
(DESIGN CHOICE, log entry 14). -/
def runTbAction (theta : Nat → Option Rat) (_ : Ctx) (m : Cmd) (_ : List Byte) (x : Leaf) : LEff :=
  let b := m.body
  let i := u8 b 0
  let t := x.tb i
  if t.pending = false then .no x sBadState
  else if u8 b 1 = 0 ∧ x.tbIdle i = false ∧ bit (u8 b 2) 0 = false then .no x sPolicy
  else
    let th := (theta i).getD t.theta
    if u8 b 1 = 0 ∧ x.fs ≠ 0 then { x := x.modTb i fun u => { u with plan := some (1, th, x.clk.dom.nextCount) } }
    else x.resolveTb i (u8 b 1 + 1) th

/-- `CLK_TB_ACTION` (R372). The standby takes the active leaf's offset over the tie link (R15). -/
def specClkTbAction : Spec where
  op := 0x0B03
  len := fixedLen 8
  timed := true
  fields := fun _ c => [rng 0 (u8 c.body 0) 0 3, rng 1 (u8 c.body 1) 0 2, rng 2 (u8 c.body 2) 0 1, resv c 3 5]
  run := fun c prep d s =>
    let theta : Nat → Option Rat := fun i => if s.twin && s.red.tieUp then some ((s.leaf s.red.active).tb i).theta else none
    onLeaves (runTbAction theta) c prep d s

/-- The VCXO family of a rate code: 0 for 48 kHz, 1 for 44.1 kHz (R363). -/
def rateFamily (rate : Nat) : Nat := if rate = 1 ∨ rate = 3 ∨ rate = 5 then 1 else 0

/-- A VCXO of a leaf. -/
def Clk.vcxo (c : Clk) (family : Nat) : Vcxo := if family = 0 then c.v48 else c.v44
/-- A leaf with one VCXO changed. -/
def Leaf.modVcxo (x : Leaf) (family : Nat) (f : Vcxo → Vcxo) : Leaf :=
  if family = 0 then { x with clk := { x.clk with v48 := f x.clk.v48 } } else { x with clk := { x.clk with v44 := f x.clk.v44 } }

/-- `CLK_VCXO` (R363 to R366, R372). -/
def specClkVcxo : Spec where
  op := 0x0B04
  present := fun v c => v.hasCoping || u8 c.body 2 != 0
  len := fixedLen 24
  timed := true
  fields := fun _ c =>
    let b := c.body
    [rng 0 (u8 b 0) 0 1, rng 1 (u8 b 1) 0 1, rng 2 (u8 b 2) 0 1, rng 3 (u8 b 3) 0 1, (4, f32In b 4 5 500),
     (8, f32In b 8 (1 / 100) 10), rng 12 (u16 b 12) 1 100, resv c 14 2, rng 16 (u32 b 16) 0 1048575, resv c 20 4]
  run := onLeaves fun _ c _ x =>
    let b := c.body
    let f := u8 b 0
    if u8 b 1 = 0 ∧ x.clk.dom.rate ≠ 0 ∧ rateFamily x.clk.dom.rate = f then .no x sBadState
    else
      { x := x.modVcxo f fun v =>
          { v with fitted := u8 b 1 == 1, steer := u8 b 2, polarity := u8 b 3, pull := f32D b 4, bw := f32D b 8, update := u16 b 12,
                   hold := u32 b 16 } }

/-- Effect of `CLK_PLL` (R369, R370, R372). -/
def runPll (busy : LeafId → Bool) (g : Ctx) (m : Cmd) (_ : List Byte) (x : Leaf) : LEff :=
  let b := m.body
  let k := u8 b 0
  if u8 b 1 = 0 then
    (if k = 0 ∧ (x.clk.dom.rate ≠ 0 ∨ ([0, 1, 2, 3].any fun i => (x.tb i).state != 3) = true) then .no x sBadState
     else { x := x.modPll k fun p => { p with spread := u8 b 2 } })
  else if k ≠ 2 ∧ busy g.leaf = true then .no x sBusy
  else { x := x.relockPll k }

/-- `CLK_PLL` (R370, R372). -/
def specClkPll : Spec where
  op := 0x0B05
  len := fixedLen 8
  fields := fun _ c =>
    let b := c.body
    [(0, decide (u8 b 0 < 3) && !(u8 b 0 == 2 && u8 b 1 == 0)), rng 1 (u8 b 1) 0 1, (2, u8 b 1 == 1 || decide (u8 b 2 < 3)), resv c 3 5]
  run := fun c prep d s => onLeaves (runPll fun l => s.inService l) c prep d s

/-- The response of `CLK_TB_QUERY` (R372). -/
def tbQueryResp (x : Leaf) (i : Nat) : List Byte :=
  let t := x.tb i
  let flags := b2n t.pending + 2 * b2n t.slewing + 4 * b2n t.acquiring + 8 * b2n (t.portState == 6) + 16 * b2n t.rateChange
  let held := if t.state = 1 then (x.clk.cycles - t.holdStart) * 5 / 8000000000 else 0
  le8 t.state ++ le8 flags ++ le8 t.source ++ le8 t.portState ++ sle32 (clampI (-(2 ^ 31)) (2 ^ 31 - 1) t.theta.floor) ++
    sle32 (coef 0 (freqVal t.y * 1000000000)) ++ le32 (coef 0 t.path).toNat ++ beBytes 8 t.gm ++ le32 held ++ le16 t.refused ++
    le8 t.wcSeen ++ le8 (b2n (t.source != 0 && decide (t.bandwidth < t.bw)))

/-- `CLK_TB_QUERY` (R372). -/
def specClkTbQuery : Spec where
  op := 0x0B06
  len := fixedLen 4
  fields := fun _ c => [rng 0 (u8 c.body 0) 0 3, resv c 1 3]
  run := onLeaves fun _ c _ x => { x := x, resp := tbQueryResp x (u8 c.body 0) }

/-- The flags byte of a PLL (R372). -/
def Pll.flagByte (p : Pll) : Nat := b2n p.locked + 2 * b2n p.lol + 4 * b2n p.refLoss + 8 * b2n p.gated + 16 * p.spread

/-- The response of `CLK_PLL_QUERY` (R372). -/
def pllQueryResp (x : Leaf) : List Byte :=
  let c := x.clk
  let v := c.vcxo (if c.family = 1 then 1 else 0)
  le8 c.core.flagByte ++ le8 c.core.band ++ le8 c.dram.flagByte ++ le8 c.dram.band ++ le8 c.audio.flagByte ++ le8 c.audio.band ++
    le8 c.family ++ le8 (if v.fitted then v.state else 3) ++ le32 v.code ++ sle32 (clampI (-(2 ^ 31)) (2 ^ 31 - 1) v.err.floor) ++
    le8 c.band48 ++ le8 c.band44 ++ zeros 2 ++ le32 c.lolCount ++ f32le v.demand ++ zeros 4

/-- `CLK_PLL_QUERY` (R372). -/
def specClkPllQuery : Spec where
  op := 0x0B07
  len := fixedLen 4
  fields := fun _ c => [rng 0 (u8 c.body 0) 0 1, resv c 1 3]
  run := onLeaves fun _ c _ x =>
    let clear : Leaf → Nat → Leaf := fun x i => x.modPll i fun p => { p with lol := false, refLoss := false }
    { x := if bit (u8 c.body 0) 0 then [0, 1, 2, 3, 4, 5].foldl clear x else x, resp := pllQueryResp x }

end Sys2Proof.Machine
end

