-- ==== Sys2Proof/Machine/Coping.lean ====
section
/-! DEFINITION. The coping: claim selection, its audio and control outputs, their supervision
(chapter 15), the VCXO servo that drives the control outputs, and the commands of group 0x0D. -/

namespace Sys2Proof.Machine

/-- The default audio output. -/
def copOut0 : CopOut := {}
/-- The default control output. -/
def copCv0 : CopCv := {}
/-- An audio output. -/
def Coping.out (c : Coping) (k : Nat) : CopOut := tget c.outs k copOut0
/-- A coping with one audio output changed. -/
def Coping.modOut (c : Coping) (k : Nat) (f : CopOut → CopOut) : Coping := { c with outs := tmod c.outs k copOut0 f }
/-- A control output. -/
def Coping.cv (c : Coping) (k : Nat) : CopCv := tget c.cvs k copCv0
/-- A coping with one control output changed. -/
def Coping.modCv (c : Coping) (k : Nat) (f : CopCv → CopCv) : Coping := { c with cvs := tmod c.cvs k copCv0 f }

/-! Claim selection (R21, R393, R415). -/

/-- The claim with which a leaf stands at the selector: 0 for a sample that its verdict withholds. -/
def State.copClaim (s : State) (l : LeafId) : Nat := if (s.leaf l).copPrev.held then 0 else (s.red.of l).claim

/-- The leaf that the selector takes. -/
def State.copSource (s : State) : Option LeafId :=
  let a := s.copClaim .a
  let b := s.copClaim .b
  if a = 0 ∧ b = 0 then none
  else if b < a then some .a
  else if a < b then some .b
  else match s.cop.source with
    | some l => some l
    | none => some .a

/-- The number of a selected leaf in records. -/
def leafCode : Option LeafId → Nat
  | none => 255
  | some l => l.num

/-! One audio output (R393 to R396, R402). -/

/-- One slew step in A32 steps (R189, R394). -/
def copSlew (sigma interval n : Nat) (z w : Int) : Int :=
  if sigma = 0 then w else if n % interval = 0 then z + clampI (-(sigma : Int)) (sigma : Int) (w - z) else z

/-- The output is at zero: muted or silenced. -/
def CopOut.silent (o : CopOut) (lost : Bool) (t : Nat) : Bool :=
  lost || (o.muted && o.mute.at_ t == 0)

/-- A span change begins, waits, or acts at once on a silent output (R396). -/
def CopOut.setSpan (o : CopOut) (silent : Bool) (t span : Nat) : CopOut :=
  if o.phase ≠ 0 then { o with spanNext := some span }
  else if o.span = span then o
  else if silent then { o with span := span }
  else { o with phase := 1, spanTo := span, fade := { start := 1, target := 0, first := t, len := 64 } }

/-- The span fade at tick `t`: after 64 ticks at zero the reference switches and the output fades back
in; a change that waits starts when that fade has ended. -/
def CopOut.spanTick (o : CopOut) (silent : Bool) (t : Nat) : CopOut :=
  if t < o.fade.first + 64 then o
  else if o.phase = 1 then
    { o with span := o.spanTo, phase := 2, fade := { start := 0, target := 1, first := t, len := 64 } }
  else if o.phase = 2 then
    let o := { o with phase := 0, fade := { start := 1, target := 1 } }
    match o.spanNext with
    | none => o
    | some s => ({ o with spanNext := none } : CopOut).setSpan silent t s
  else o

/-- One load of an output at coping tick `t`: `w` is the selected sample and `n` its render sample
counter, or none where neither leaf claims. -/
def CopOut.load (o : CopOut) (lost : Bool) (t : Nat) (sel : Option (Nat × Int)) (window : Nat) : CopOut :=
  let o := o.spanTick (o.silent lost t) t
  let o := match sel with
    | some (n, w) =>
      let o := if o.fallFrom ≠ 0 then { o with fallFrom := 0, resume := { start := 1, target := 1 } } else o
      if o.slewedAt = some n then { o with slewedAt := none }
      else { o with z := copSlew o.sigma o.interval n o.z w, slewedAt := none }
    | none =>
      if o.sigma ≠ 0 then { o with z := copSlew o.sigma o.interval t o.z 0 }
      else
        let o := if o.fallFrom = 0 ∧ o.z ≠ 0 then
            { o with fallFrom := o.z, resume := { start := 1, target := 0, first := t, len := 32 } } else o
        if o.fallFrom = 0 then o
        else if o.resume.at_ t = 0 then { o with z := 0, fallFrom := 0, resume := { start := 1, target := 1 } }
        else { o with z := coef 0 ((o.fallFrom : Rat) * o.resume.at_ t) }
  let fall := o.fallFrom ≠ 0
  let g := o.mute.at_ t * o.fade.at_ t * (if fall ∨ sel.isNone then 1 else o.resume.at_ t)
  let v := if g = 1 then o.z else coef 0 ((o.z : Rat) * g)
  { o with value := v, hist := push window v o.hist }

/-- An output resumes from zero (R395). -/
def CopOut.restart (o : CopOut) (t : Nat) : CopOut :=
  { o with z := 0, fallFrom := 0,
           resume := if o.sigma = 0 then { start := 0, target := 1, first := t, len := 32 } else { start := 1, target := 1 } }

/-! Commands that wait for the load strobe (R402). -/

/-- A staged command of group 0x0D takes effect. -/
def Coping.apply (c : Coping) (m : Cmd) : Coping :=
  let b := m.body
  let t := c.tick
  match m.op with
  | 0x0D01 =>
    let one : CopOut → CopOut := fun o =>
      let o := if bit (u8 b 2) 1 then { o with sigma := u32 b 4, interval := u16 b 8 } else o
      let o := if bit (u8 b 2) 2 then { o with monitor := u8 b 10 == 1 } else o
      if bit (u8 b 2) 0 then o.setSpan (o.silent (c.lost || c.clamped) t) t (u8 b 3) else o
    (span (u8 b 0) (u8 b 1)).foldl (fun c k => c.modOut k one) c
  | 0x0D02 =>
    c.modCv (u8 b 0) fun v =>
      let v := if bit (u8 b 1) 0 then { v with span := u8 b 2 } else v
      if bit (u8 b 1) 1 then { v with interval := u8 b 3, sigma := u32 b 4 } else v
  | _ =>
    let on := u8 b 4 == 1
    ((List.range 32).filter fun k => bit (u32 b 0) k).foldl (fun c k => c.modOut k fun o =>
      { o with muted := on, mute := o.mute.go t t (u16 b 6) (if on then 0 else 1) }) c

/-- The coping after its staged commands. -/
def Coping.settled (c : Coping) : Coping := c.staged.foldl (fun c m => c.apply m) { c with staged := [] }

/-- `COP_SOURCE` (R405): the hold across a switch is a free value. -/
def State.copSwitch (s : State) (new : Option LeafId) : State :=
  let old := s.cop.source
  if old = new then s else
    let h := s.fresh "copHold"
    let s := h.2
    let s := { s with cop := { s.cop with source := new } }
    s.modEvent 0x0DF1 1 (le8 (leafCode old) ++ le8 (leafCode new) ++ le8 (s.copClaim .a) ++ le8 (s.copClaim .b) ++ le32 (h.1 % 4294967296))

/-- Coping ticks in 256 µs at a rate (R399). -/
def monitorTicks (fs : Nat) : Nat := max 1 (fs * 256 / 1000000)

/-- One coping load strobe (R22, R393): the staged commands, the claim selector, and every output
(DESIGN CHOICE, log entry 17). -/
def State.copStrobe (s : State) : State :=
  let new := s.copSource
  let feed : Option (LeafId × CopFeed) := new.map fun l => (l, (s.leaf l).copPrev)
  let s := s.copSwitch new
  let c := s.cop.settled
  let was := s.cop
  let first := was.clamped || was.lost
  let c := { c with clamped := false, lost := false }
  let c := if first then (List.range 32).foldl (fun c k => c.modOut k fun o => o.restart c.tick) c else c
  let fs := match new with
    | some l => (s.leaf l).fs
    | none => 48000
  let one : Coping → Nat → Coping := fun c k =>
    c.modOut k fun o => o.load false c.tick (feed.map fun q => (q.2.sample, tget q.2.vals k 0)) (monitorTicks fs)
  let c := (List.range 32).foldl one c
  let s := { s with cop := { c with tick := c.tick + 1, loaded := some (new, match feed with
    | some q => q.2.sample
    | none => 0) } }
  if was.lost then
    let d := s.fresh "strobeLoss"
    d.2.modEvent 0x0DF2 2 (le8 was.lostBy ++ le32 (d.1 % 4294967296)) 255 2
  else s

/-- `COPING_LOAD_STROBE` (R22): the strobe of a tick of the selected leaf, while its audio clock runs.
Samples that have been loaded once are not loaded again. With no leaf selected the ticks go on, which the
fall to zero of R394 takes, but bring no strobe back to a coping that is silent or clamped
(DESIGN CHOICE, log entry 17). -/
def execCopingLoadStrobe (s : State) : Res :=
  .next <|
    if s.variant.hasCoping = false ∨ s.cop.held = true then s
    else match s.copSource with
      | none => if s.cop.lost || s.cop.clamped then s else s.copStrobe
      | some l =>
        let x := s.leaf l
        if x.fs = 0 ∨ x.clk.audio.gated = true ∨ s.alive l = false ∨ s.cop.loaded = some (some l, x.copPrev.sample) then s
        else s.copStrobe

/-- `COP_SLEW_UPDATE` (R394): the slew limiter of an output moves towards the sample of the coming
strobe; the strobe then does not move it again. -/
def execCopSlewUpdate (out : Nat) (s : State) : Res :=
  .next <|
    match s.copSource with
    | none => s
    | some l =>
      let f := (s.leaf l).copPrev
      let o := s.cop.out out
      if 32 ≤ out ∨ s.cop.held = true ∨ s.cop.clamped = true ∨ s.cop.lost = true ∨ s.cop.loaded = some (some l, f.sample) ∨
          o.slewedAt = some f.sample ∨ f.sample % o.interval ≠ 0 then s
      else { s with cop := s.cop.modOut out fun o =>
        { o with z := copSlew o.sigma o.interval f.sample o.z (tget f.vals out 0), slewedAt := some f.sample } }

/-- `COP_SPAN_FADE_END` (R396). -/
def execCopSpanFadeEnd (out : Nat) (s : State) : Res :=
  .next <|
    if 32 ≤ out ∨ s.cop.held = true then s
    else { s with cop := s.cop.modOut out fun o => o.spanTick (o.silent s.cop.lost s.cop.tick) s.cop.tick }

/-- `COP_STROBE_LOSS` (R395): the converters run on the backup clock and every output has faded to
zero. -/
def execCopStrobeLoss (s : State) : Res :=
  .next <|
    match s.cop.source with
    | none => s
    | some l =>
      if s.variant.hasCoping = false ∨ s.cop.held = true ∨ s.cop.clamped = true ∨ s.cop.lost = true then s
      else
        let quiet : Coping → Nat → Coping := fun c k => c.modOut k fun o => { o with z := 0, value := 0, fallFrom := 0 }
        let c := (List.range 32).foldl quiet s.cop
        { s with cop := { c with lost := true, lostBy := l.num } }.modEvent 0x0DF2 2 (le8 l.num ++ le32 0)

/-! Supervision (R399, R400). -/

/-- What one window of a converter measured: DC in mV, RMS, load, and whether the current limit was
met. -/
structure CopMeas where
  dc : Int
  rms : Int
  ohms : Nat
  limit : Bool

/-- DC and RMS of the codes of an audio output in its window (R116, R399). -/
def CopOut.loadedLevel (o : CopOut) : Int × Int :=
  let n : Rat := ((max 1 o.hist.length : Nat) : Rat)
  let fs : Rat := (2 : Rat) ^ 31
  let dc := (sumI o.hist : Rat) / n / fs * 8706 * (o.span : Rat)
  let ms := sumQ (o.hist.map fun (v : Int) => (v : Rat) / fs * ((v : Rat) / fs)) / n
  (coef 0 dc, if ms = 0 then -32768 else cdbOf (sqrtQ (2 * ms)))

/-- The conditions of the four faults (R400). -/
def faultConds (audio : Bool) (span code : Nat) (dcL rmsL : Int) (m : CopMeas) : List Bool :=
  let diff := (m.dc - dcL).natAbs
  let open_ := decide (100000 < m.ohms)
  let short := m.limit
  if audio then
    [short, open_ && decide (-3000 ≤ rmsL), decide (50 < diff),
     !short && decide (100 < (m.rms - rmsL).natAbs) && decide (-4000 ≤ rmsL)]
  else [short, open_ && decide (65536 < code), decide (10 < diff), !short && decide (2500 * span < 200 * diff)]

/-- One cycle of supervision: the output, and the faults that it raises and clears. -/
def CopOut.cycleEnd (o : CopOut) (conds : List Bool) (dcL rmsL : Int) (m : CopMeas) : CopOut × List Nat × List Nat :=
  let ix := List.range 4
  let bad := ix.map fun i => if conds.getD i false then o.bad.getD i 0 + 1 else 0
  let ok := ix.map fun i => if conds.getD i false then 0 else o.ok.getD i 0 + 1
  let up := ix.filter fun i => o.monitor && !bit o.faults i && decide (3 ≤ bad.getD i 0)
  let down := ix.filter fun i => bit o.faults i && decide (10 ≤ ok.getD i 0)
  let f := up.foldl (fun f i => f + 2 ^ i) (down.foldl (fun f i => f - 2 ^ i) o.faults)
  ({ o with bad := bad.map (min 3), ok := ok.map (min 10), faults := f, raised := (o.raised + up.length) % 4294967296,
            cycle := (o.cycle + 1) % 4294967296, dcL := dcL, rmsL := rmsL, dcM := m.dc, rmsM := m.rms,
            ohms := if 100000 < m.ohms then 4294967295 else m.ohms }, up, down)

/-- `COP_MONITOR_WINDOW` (R399, R400): the window of an output ends with what was measured. -/
def execCopMonitorWindow (out : Nat) (dc rms : Int) (ohms : Nat) (limit : Bool) (s : State) : Res :=
  if 36 ≤ out ∨ s.variant.hasCoping = false ∨ s.cop.held = true then .next s
  else
    let m : CopMeas := { dc := dc, rms := rms, ohms := ohms, limit := limit }
    let audio := decide (out < 32)
    let v := s.cop.cv (out - 32)
    let o := if audio then s.cop.out out else v.mon
    let l : Int × Int := if audio then o.loadedLevel
      else (coef 0 ((v.code : Rat) * 2500 * (v.span : Rat) / 1048576), if v.code = 0 then -32768 else cdbOf ((v.code : Rat) / 1048576))
    let r := o.cycleEnd (faultConds audio v.span v.code l.1 l.2 m) l.1 l.2 m
    let c := if audio then s.cop.modOut out fun _ => r.1 else s.cop.modCv (out - 32) fun v => { v with mon := r.1 }
    let ev : Nat → State → Nat → State := fun fl s i =>
      s.modEvent 0x0DF0 (if i = 0 then 3 else 2) (le8 i ++ sle16 dc ++ sle16 rms ++ le32 r.1.ohms) 255 fl out
    let s := { s with cop := c }
    .next (r.2.2.foldl (ev 2) (r.2.1.foldl (ev 0) s))

/-! Resets of the coping (R401, R403, R482, R489). -/

/-- The coping held in reset: settings at their defaults, outputs clamped. -/
def copReset : Coping := {}

/-- `COPING_RAIL_FAULT` (R401, R43): the outputs are clamped. -/
def execCopingRailFault (s : State) : Res :=
  .next (if s.variant.hasCoping then { s with cop := copReset, plinth := { s.plinth with copingPg := false } } else s)

/-- `COPING_RESET_RELEASE` (R21, R401, R489): the rails are good; the selector stands on leaf A and the
outputs stay clamped until the first load strobe. -/
def execCopingResetRelease (s : State) : Res :=
  .next <|
    if s.variant.hasCoping && s.plinth.supply && s.cop.held then
      { s with cop := { copReset with held := false }, plinth := { s.plinth with copingPg := true } }
    else s

/-- `COPING_FOLD_BACK` (R511): the current limit of shorted outputs folds back, or is restored. -/
def execCopingFoldBack (hot : Bool) (s : State) : Res :=
  .next (if s.variant.hasCoping then { s with cop := { s.cop with foldBack := hot } } else s)

/-! The VCXO servo (R363 to R366, R397, R398). -/

/-- A demand reaches a control output. -/
def CopCv.take (v : CopCv) (d : Nat) : CopCv :=
  if v.fresh then { v with code := d, demand := d, fresh := false, count := 0 }
  else
    let n := v.count + 1
    if n % v.interval ≠ 0 then { v with demand := d, count := n }
    else
      let step : Int := if v.sigma = 0 then 1048576 else (v.sigma : Int)
      { v with demand := d, count := 0, code := ((v.code : Int) + clampI (-step) step ((d : Int) - (v.code : Int))).toNat }

/-- One update of a VCXO servo with the phase error measured, in ns (R364). The two terms of the loop
are the firmware's own
(DESIGN CHOICE, log entry 19). -/
def Vcxo.servo (v : Vcxo) (e : Int) (frozen : Bool) : Vcxo :=
  let held := frozen || v.code == 0 || v.code == 1048575
  let i := if held then v.integ else Config.of "vcxoIntegral" [v.integ, (e : Rat), v.bw, (v.update : Rat)]
  let y := Config.of "vcxoDemand" [i, (e : Rat), v.bw]
  let p : Rat := if v.polarity = 0 then 1 else -1
  let d := (clampI 0 1048575 (coef 0 ((v.hold : Rat) + p * 524288 * y / v.pull))).toNat
  let good := if e.natAbs ≤ 100 then v.good + v.update else 0
  { v with integ := i, demand := y, code := d, err := (e : Rat), good := min 1000 good,
           state := if d = 0 ∨ d = 1048575 then 2 else if 1000 ≤ good then 0 else 1 }

/-- `VCXO_UPDATE` (R364 to R366, R397). -/
def execVcxoUpdate (l : LeafId) (family : Nat) (phase : Int) (s : State) : Res :=
  let x := s.leaf l
  let v := x.clk.vcxo family
  if 2 ≤ family ∨ v.fitted = false ∨ x.clk.dom.rate = 0 ∨ rateFamily x.clk.dom.rate ≠ family then .next s
  else
    let k := l.num * 2 + family
    let host := v.steer == 1 || !s.variant.hasCoping
    let cv := s.cop.cv k
    let v' := v.servo phase (!host && !cv.fresh && cv.code != cv.demand)
    let s := s.modLeaf l fun x => x.modVcxo family fun _ => v'
    let s := if v'.state = v.state then s
      else s.leafEvent l 0x0BF5 2 4294967295 (le8 family ++ le8 v.state ++ le8 v'.state)
    .next <|
      if host then s.leafEvent l 0x0BF4 0 4294967295 (le8 family ++ zeros 3 ++ le32 v'.code ++ f32le v'.demand)
      else if s.cop.held then s
      else { s with cop := s.cop.modCv k fun c => c.take v'.code }

/-! Group 0x0D. -/

/-- A command of group 0x0D that waits for the next load strobe. -/
def copStage (c : Cmd) (_ : Bool) (_ : List Byte) (s : State) : Eff :=
  { s := { s with cop := { s.cop with staged := s.cop.staged ++ [c] } } }

/-- `COP_OUT_CONFIG` (R404). -/
def specCopOutConfig : Spec where
  op := 0x0D01
  present := fun v _ => v.hasCoping
  fns := fun f => f == .f2
  len := fixedLen 16
  fields := fun _ c =>
    let b := c.body
    let sel : Nat → Bool → Bool := fun i ok => !bit (u8 b 2) i || ok
    [rng 0 (u8 b 0) 0 31, (1, decide (1 ≤ u8 b 1) && decide (u8 b 0 + u8 b 1 ≤ 32)), rng 2 (u8 b 2) 0 7,
     (3, sel 0 (within 1 2 (u8 b 3))), (4, sel 1 (decide (u32 b 4 ≤ 2147483648))), (8, sel 1 (decide (1 ≤ u16 b 8))),
     (10, sel 2 (decide (u8 b 10 < 2))), resv c 11 5]
  run := copStage

/-- `COP_CV_CONFIG` (R404): the settings act at the next load strobe. -/
def specCopCvConfig : Spec where
  op := 0x0D02
  present := fun v _ => v.hasCoping
  fns := fun f => f == .f2
  len := fixedLen 12
  fields := fun _ c =>
    let b := c.body
    let sel : Nat → Bool → Bool := fun i ok => !bit (u8 b 1) i || ok
    [rng 0 (u8 b 0) 0 3, rng 1 (u8 b 1) 0 3, (2, sel 0 (within 1 2 (u8 b 2))), (3, sel 1 (decide (1 ≤ u8 b 3))),
     (4, sel 1 (decide (u32 b 4 ≤ 1048575))), resv c 8 4]
  run := copStage

/-- `COP_MUTE` (R402, R404). -/
def specCopMute : Spec where
  op := 0x0D03
  present := fun v _ => v.hasCoping
  fns := fun f => f == .f2
  len := fixedLen 8
  fields := fun _ c => [rng 4 (u8 c.body 4) 0 1, resv c 5 1, rng 6 (u16 c.body 6) 1 4096]
  run := copStage

/-- The response of `COP_QUERY` (R404). -/
def copQueryResp (c : Coping) (k : Nat) : List Byte :=
  let audio := decide (k < 32)
  let v := c.cv (k - 32)
  let o := if audio then c.out k else v.mon
  let t := c.tick
  let fading := o.mute.busy t || o.phase != 0 || o.resume.busy t
  let state := if c.clamped then 0 else if !audio then 1 else if c.lost then 4
    else if fading then 2 else if o.muted then 3 else 1
  le8 state ++ le8 (leafCode c.source) ++ le8 (if audio then o.span else v.span) ++ le8 (if audio then b2n o.monitor else 1) ++
    le16 o.faults ++ zeros 2 ++ sle16 o.rmsL ++ sle16 o.rmsM ++ sle16 o.dcL ++ sle16 o.dcM ++ le32 o.ohms ++
    le32 (if audio then 0 else v.code) ++ le32 o.raised ++ le32 o.cycle

/-- `COP_QUERY` (R404). -/
def specCopQuery : Spec where
  op := 0x0D04
  present := fun v _ => v.hasCoping
  fns := fun f => f == .f2
  len := fixedLen 4
  fields := fun _ c => [rng 0 (u8 c.body 0) 0 35, resv c 1 3]
  run := fun c _ _ s => { s := s, resp := copQueryResp s.cop (u8 c.body 0) }

end Sys2Proof.Machine
end

