-- ==== Sys2Proof/Machine/HostPort.lean ====
section
/-! DEFINITION. The register file of a function (R40 to R46): the read view of BAR0 and the register
accesses of the host that have behaviour of their own, the rings' service, function-level resets and
the interrupt side of the endpoint. -/

namespace Sys2Proof.Machine

/-- A position buffer of a function is committed and not yet applied (R43, R72). -/
def Mail.posPending (m : Mail) (b : Nat) : Bool := m.posQ.any fun p => p.buf == b

/-- References waiting behind the one in transfer: `DMA_STATUS.QUEUED` (R41, R79). -/
def Mail.dmaQueued (m : Mail) : Nat := m.refCount - 1

/-- `CAPS_SUM` [4:0]: the units of the variant (R41). -/
def unitBits (v : Variant) : Nat :=
  b2n v.hasB + 2 * b2n v.hasB + 4 * b2n v.hasVoice + 8 + 16 * b2n v.hasCoping

/-- What the registers of BAR0 hold at an offset, without the side effect of a `TB_SNAP_LO` read (R40 to
R44). `FW_VER` while a takeover is under way and no leaf serves is the module controller's (DESIGN
CHOICE, log entry 55). -/
def State.bar0 (s : State) (f : FnId) (off : Nat) : BitVec 32 :=
  let x := s.fn f
  let m := x.mail
  let n := BitVec.ofNat 32
  match off with
  | 0x00 => n s.variant.code ||| (n f.num <<< 8) ||| ((Config.step.zeroExtend 32) <<< 16) ||| n 0x01000000
  | 0x04 => if s.unserved f then 0 else Config.fwVer ((s.server f).map Prod.fst)
  | 0x08 => Config.serial.truncate 32
  | 0x0C => (Config.serial >>> 32).truncate 32
  | 0x10 => n (unitBits s.variant + 256 * (if f = .f2 then 0 else (s.fnDom f).rate))
  | 0x20 => n (s.fnState f)
  | 0x30 => if f = .f2 then 0 else n x.tbLo
  | 0x34 => if f = .f2 then 0 else n x.tbHi
  | 0x38 => if f = .f2 then 0 else n x.tick
  | 0x104 => x.busy
  | 0x108 => x.dbErr.zeroExtend 32 ||| (n x.lastSlot <<< 8)
  | 0x110 => n x.cqProd
  | 0x114 => n x.cqCons
  | 0x118 => n x.eqProd
  | 0x11C => n x.eqCons
  | 0x120 => n x.eqLost
  | 0x144 => if f = .f2 then 0 else
      n (b2n (m.posPending 0) + 2 * b2n (m.posPending 1) + 4 * x.lastBuf + 8 * b2n x.lateLast + 65536 * x.applied)
  | 0x200 => x.intStatus.zeroExtend 32
  | 0x204 => x.intMask.zeroExtend 32
  | 0x208 => x.intVector
  | 0x20C => n (x.modDelay + 65536 * x.modCount)
  | 0x300 => n (b2n (!m.dma.isEmpty) + 2 * b2n m.halted + 256 * m.dmaQueued)
  | 0x400 => if f = .f2 then
      n (s.la.pwr + 4 * s.lb.pwr + 16 * b2n s.plinth.copingPg + 32 * b2n s.red.tieUp
        + 64 * b2n (s.variant.hasCoping && s.cop.source == some .b) + 256 * s.red.a.claim
        + 4096 * s.red.b.claim + 65536 * s.la.run + 262144 * s.lb.run) else 0
  | o => if 0x1000 ≤ o ∧ o < 0x1100 then n (u32 (mread msixDefault m.msix (o - 0x1000) 4) 0)
         else if o = 0x1800 then m.pba.zeroExtend 32 else 0

/-- A completion record as its 32 bytes (R64). -/
def Completion.bytes (c : Completion) : List Byte :=
  le32 c.tag ++ le16 c.opcode ++ le16 c.status ++ le8 c.slot ++ le8 c.kind ++ le16 c.respLen ++ le32 c.detail ++
    le64 c.appliedAt ++ le32 c.seq ++ le8 c.leaf ++ zeros 3

/-- An event record as its 64 bytes (R67)
(DESIGN CHOICE, log entry 45). -/
def Event.bytes (e : Event) : List Byte :=
  le16 e.code ++ le8 e.severity ++ le8 e.leaf ++ le8 e.autonomy ++ zeros 1 ++ le16 e.flags ++ le32 e.seq ++ le32 e.tag ++
    le64 e.time ++ le32 e.subject ++ zeros 4 ++ (e.payload ++ zeros 32).take 32

/-- What a host reads at a byte of BAR2: slots, rings and position buffers; reserved space reads zero
(R46, R64, R67). -/
def State.bar2 (s : State) (f : FnId) (off : Nat) : Byte :=
  let m := (s.fn f).mail
  if off < 0x4000 then ((mread winDefault m.win off 1).headD 0)
  else if off < 0x4800 then (((m.cq.lookup ((off - 0x4000) / 32)).map Completion.bytes).getD []).getD ((off - 0x4000) % 32) 0
  else if off < 0x10000 then 0
  else if off < 0x20000 then (((m.eq.lookup ((off - 0x10000) / 64)).map Event.bytes).getD []).getD ((off - 0x10000) % 64) 0
  else if f ≠ .f2 ∧ off < 0x30080 then ((mread winDefault m.win off 1).headD 0)
  else 0

/-- What a host's read of a BAR0 word gives; nothing where the function cannot be reached, as in D3hot
(R32). -/
def State.readBar0 (s : State) (f : FnId) (off : Nat) : Option (BitVec 32) :=
  if s.reachable f then some (s.bar0 f off) else none

/-- What a host's read of a byte of BAR2 gives; nothing where the function cannot be reached (R32). -/
def State.readBar2 (s : State) (f : FnId) (off : Nat) : Option Byte :=
  if s.reachable f then some (s.bar2 f off) else none

/-- The standard link status register (R29): the trained speed in [3:0] and width in [9:4]
(PRESUMED, log entry 5). -/
def State.linkStatus (s : State) : BitVec 16 := BitVec.ofNat 16 (s.plinth.speed + 16 * s.plinth.width)

/-- The items of a function's configuration space that R30 gives by value. -/
inductive ConfigItem where
  | vendorId | deviceId | revisionId | classCode | subsystemVendorId | subsystemId
  | bar0Size | bar0Is64 | bar0Prefetch | bar2Size | bar2Is64 | bar2Prefetch | otherBars | expansionRom
  | msixVectors | msixTable | msixPba | maxPayload | flr | aspm | noSoftReset | d0 | d1 | d2 | d3hot | aer | msi | intx
deriving DecidableEq, Repr

/-- The value of a configuration item; sizes and offsets in bytes, 0 and 1 for absent and present (R30). -/
def configValue (f : FnId) : ConfigItem → Nat
  | .vendorId | .subsystemVendorId => 0x1FB7
  | .deviceId | .subsystemId => 0x4824 + f.num
  | .revisionId => Config.step.toNat
  | .classCode => if f = .f2 then 0x088000 else 0x040100
  | .bar0Size => 65536
  | .bar2Size => 1048576
  | .msixVectors => 16
  | .msixTable => 0x1000
  | .msixPba => 0x1800
  | .maxPayload => 256
  | .flr | .noSoftReset | .d0 | .d3hot | .aer => 1
  | .bar0Is64 | .bar2Is64 | .bar2Prefetch => 1
  | .bar0Prefetch | .otherBars | .expansionRom => 0
  | .aspm | .msi | .intx | .d1 | .d2 => 0

/-- A doorbell write (R42, R37, R49): discarded for an illegal value, a read-only view or a busy slot;
otherwise the slot's command is accepted. -/
def ringDoorbell (f : FnId) (v : BitVec 32) (s : State) : State :=
  if !s.reachable f then s
  else if s.roView f then s.dbError f 2
  else if 32 ≤ v.toNat then s.dbError f 3
  else
    let slot := v.toNat
    if bit (s.fn f).busy.toNat slot then s.dbErrorSlot f 0 slot
    else
      let m := (s.fn f).mail
      let c := parseSlot f slot (m.accNo + 1) (mread winDefault m.win (slot * 512) 512)
      accept none (fun _ s => s) false c s

/-- `DOORBELL` (R49)
(DESIGN CHOICE, log entry 1). -/
def execDoorbell (f : FnId) (v : BitVec 32) (s : State) : Res := .next (ringDoorbell f v s)

/-- `TB_SNAP_LO` (R42): a read latches the render time base, `cycles` render cycles after the latest
meridian, and the sample counter; all three read zero while the render domain has no rate, and while no
leaf serves the function (DESIGN CHOICE, log entry 54)
(DESIGN CHOICE, log entry 15). -/
def execTbSnapLo (f : FnId) (cycles : Nat) (s : State) : Res :=
  .next <|
    if f = .f2 ∨ s.reachable f = false then s
    else match s.server f with
      | none => s.modFn f fun x => { x with tbLo := 0, tbHi := 0, tick := 0 }
      | some (l, _) =>
        let x := s.leaf l
        if x.fs = 0 then s.modFn f fun x => { x with tbLo := 0, tbHi := 0, tick := 0 }
        else
          let t := ((x.tb x.clk.dom.tb).advance cycles).tns
          s.modFn f fun y => { y with tbLo := t % 4294967296, tbHi := t / 4294967296 % 4294967296,
                                      tick := x.clk.dom.sample % 4294967296 }

/-- A write of the completion ring's consumer index (R43). -/
def writeCqCons (f : FnId) (v : BitVec 32) (s : State) : State :=
  if !s.reachable f then s else
    let x := s.fn f
    let i := v.toNat % 65536
    if 64 < (x.cqProd + 65536 - i) % 65536 then s.dbError f 3
    else s.setFn f { x with cqCons := i }

/-- `CQ_CONS` (R43). -/
def execCqCons (f : FnId) (v : BitVec 32) (s : State) : Res := .next (writeCqCons f v s)

/-- A write of the event ring's consumer index (R43, R68): once it frees an entry after a discard,
`EVENTS_LOST` is due. -/
def writeEqCons (f : FnId) (v : BitVec 32) (s : State) : State :=
  if !s.reachable f then s else
    let x := s.fn f
    let i := v.toNat % 65536
    if 1024 < (x.eqProd + 65536 - i) % 65536 then s.dbError f 3
    else
      let y := { x with eqCons := i }
      let due := x.mail.lostDue || (decide (x.eqFree < y.eqFree) && decide (0 < x.mail.lostSince))
      s.setFn f { y with mail := { y.mail with lostDue := due } }

/-- `EQ_CONS` (R43, R68). -/
def execEqCons (f : FnId) (v : BitVec 32) (s : State) : Res := .next (writeEqCons f v s)

/-- A write of `POS_COMMIT` (R43, R37, R72): a buffer that is already pending, or an illegal value, is
discarded. -/
def writePosCommit (f : FnId) (v : BitVec 32) (s : State) : State :=
  if f = .f2 ∨ s.reachable f = false then s
  else if s.roView f then s.dbError f 2
  else if 2 ≤ v.toNat ∨ (s.fn f).mail.posPending v.toNat = true then s.dbError f 3
  else s.modMail f fun m =>
    let after := m.posQ.foldl (fun a p => max a (max p.after (u64 (mread winDefault m.win (0x30000 + p.buf * 64) 8) 0))) 0
    { m with posQ := m.posQ ++ [{ buf := v.toNat, time := s.fnNow f, after := after }] }

/-- `POS_COMMIT` (R72). -/
def execPosCommit (f : FnId) (v : BitVec 32) (s : State) : Res := .next (writePosCommit f v s)

/-- A write of `DMA_CTRL` (R41, R82). -/
def writeDmaCtrl (f : FnId) (v : BitVec 32) (s : State) : State :=
  if !s.reachable f then s
  else if 2 ≤ v.toNat then s.dbError f 3
  else if v.toNat = 1 then s.modMail f fun m => { m with halted := false } else s

/-- `DMA_CTRL.CLEAR_HALT` (R82). -/
def execClearHalt (f : FnId) (v : BitVec 32) (s : State) : Res := .next (writeDmaCtrl f v s)

/-- Send the messages of the pending bits that nothing holds back any more (R32). -/
def State.flushPba (s : State) (f : FnId) : State :=
  (List.range 16).foldl (fun s v =>
    let x := s.fn f
    if bit x.mail.pba.toNat v then
      (s.modMail f fun m => { m with pba := m.pba &&& ~~~(BitVec.ofNat 16 (2 ^ v)) }).signal f v
    else s) s

/-- A write of `INT_MASK`: unmasking a cause that is set sends its vector's message (R44). -/
def writeIntMask (f : FnId) (v : Nat) (s : State) : State :=
  let x := s.fn f
  let s := s.setFn f { x with intMask := BitVec.ofNat 8 v }
  let open_ := (List.range 8).filter fun c => bit x.intStatus.toNat c && x.masked c && !bit v c
  let vecs := (open_.map x.vector).eraseDups
  vecs.foldl (fun s v => s.signal f v) s

/-- A host write to BAR2 (R46): slots and position buffers take it unless busy or pending; rings and
reserved space ignore it. A write to a pending position buffer, which has no slot, leaves
`DB_ERR.LAST_SLOT` (DESIGN CHOICE, log entry 56). -/
def writeBar2 (f : FnId) (off : Nat) (bytes : List Byte) (s : State) : State :=
  if s.roView f then s.dbError f 2 else
    let put : Nat → State := fun stop =>
      s.modMail f fun m => { m with win := mwrite winDefault m.win off (bytes.take (stop - off)) }
    if off < 0x4000 then
      let slot := off / 512
      if bit (s.fn f).busy.toNat slot then s.dbErrorSlot f 1 slot else put (slot * 512 + 512)
    else if f = .f2 then s
    else if 0x20000 ≤ off ∧ off < 0x30080 then
      let b := if off < 0x30000 then (off - 0x20000) / 0x8000 else (off - 0x30000) / 64
      let stop := if off < 0x30000 then 0x20000 + (b + 1) * 0x8000 else 0x30000 + (b + 1) * 64
      if (s.fn f).mail.posPending b then s.dbError f 1 else put stop
    else s

/-- `COMPLETION_POST` (R51): the first waiting record is posted once the ring has a free entry. -/
def execCompletionPost (f : FnId) (s : State) : Res :=
  .next <| match (s.fn f).mail.waiting with
    | [] => s
    | w :: r =>
      if 0 < (s.fn f).cqFree then (s.modMail f fun m => { m with waiting := r }).putCompletion f w else s

/-- `EVENTS_LOST` (R68). -/
def execEventsLost (f : FnId) (s : State) : Res := .next (s.reportLost f)

/-- `INT_MODERATION_TIMER` (R44): the moderation delay ends and the messages of the unsignalled
records go out. -/
def execIntModerationTimer (f : FnId) (s : State) : Res :=
  .next <|
    let x := s.fn f
    let m := x.mail
    if !m.modRun then s else
      let s := s.modMail f fun m =>
        { m with unsignalled := 0, modRun := false, modCq := false, modEq := false }
      let cq := m.modCq && !x.masked 0
      let eq := m.modEq && !x.masked 1
      let s := if cq then s.signal f (x.vector 0) else s
      if eq && !(cq && x.vector 0 == x.vector 1) then s.signal f (x.vector 1) else s

/-- `RATE_LIMITED_REPORT` (R519): the first meridian an interval or more after a report. Counted cases
are reported and a new interval begins; without any the subject is free again. Sent before that it
changes nothing. -/
def execRateLimitedReport (f : FnId) (code subject key : Nat) (s : State) : Res :=
  .next <|
    match (s.fn f).mail.reps.find? fun q => q.code == code && q.subject == subject && q.key == key && s.repDue q with
    | none => s
    | some r =>
      if r.count = 0 then s.modMail f fun m => { m with reps := m.reps.filter fun q => !r.same q }
      else
        let s := s.postRep f r
        s.modMail f fun m => { m with reps := mapIf r.same (fun _ => s.sentRep r) m.reps }

/-- The mailbox state of a function after a function-level reset (R33). -/
def Mail.flr (m : Mail) : Mail :=
  { m with accepted := [], queued := [], waiting := [], late := [], fence := none, seqC := 0, seqE := 0, cq := [],
           eq := [], posQ := [], dma := [], halted := false, floor := m.accNo, lostSince := 0,
           lostDue := false, unsignalled := 0, modRun := false, modCq := false, modEq := false }

/-- A function-level reset of one function (R33, R37): slots, rings, interrupt state, bulk channel
and waiting commands are cleared; rendering, scenes, routes and claims stay. Bus Master Enable, the MSI-X
table and pending bits, `INT_VECTOR`, `INT_MODERATE` and `EQ_LOST` are kept, and the change of `FN_STATE`
is the first event of the cleared ring (DESIGN CHOICE, log entry 53). -/
def State.flr (s : State) (f : FnId) : State :=
  let x := s.fn f
  let caps := if s.roView f then x.capsDone else false
  (s.setFn f { x with
    capsDone := caps, busy := 0, dbErr := 0, lastSlot := 0, cqProd := 0, cqCons := 0, eqProd := 0,
    eqCons := 0, intStatus := 0, intMask := 255, mail := x.mail.flr }).notify s

/-- `PCIE_LINK_DOWN` (R34): the scene renders on; nothing else of the module changes. -/
def execPcieLinkDown (s : State) : Res := .next { s with plinth := { s.plinth with link := false, speed := 0, width := 0 } }

/-- The link trains at a speed and a width that the partner decides (R29)
(DESIGN CHOICE, log entry 64). -/
def State.train (s : State) : State :=
  let a := s.fresh "linkSpeed"
  let b := a.2.fresh "linkWidth"
  let t := b.2
  { t with plinth := { t.plinth with link := true, speed := 1 + a.1 % 4, width := [1, 2, 4].getD (b.1 % 3) 4 } }

/-- `POWER_STATE_CHANGE` (R32): D3hot holds messages as pending bits; a return to D0 sends those that
are then unmasked. -/
def execPowerStateChange (f : FnId) (d3 : Bool) (s : State) : Res :=
  .next <|
    let s := s.modMail f fun m => { m with d3 := d3 }
    if d3 then s else s.flushPba f

/-- `BUS_MASTER_ENABLE` (R31): messages go out again; a halted channel stays halted. -/
def execBusMasterEnable (f : FnId) (s : State) : Res :=
  .next ((s.modMail f fun m => { m with bme := true }).flushPba f)

/-- Complete every busy slot of an unserved function with `NOT_ACTIVE_LEAF`; what had been released
is lost (R38), pending position buffers with the leaf's mailbox state (R484). Records that already wait
for the ring stay
(DEDUCED, log entry 35). -/
def State.loseFn (s : State) (f : FnId) : State :=
  let m := (s.fn f).mail
  let slots := (List.range 32).filter fun i =>
    bit (s.fn f).busy.toNat i && !(m.waiting.any fun w => w.release && w.record.slot == i)
  let s := slots.foldl (fun s i =>
    let c := parseSlot f i (m.accNo + 1) (mread winDefault m.win (i * 512) 512)
    s.final c false sNotActive 0 0) s
  s.modMail f fun m => { m with accepted := [], queued := [], dma := [], posQ := [], fence := none, late := [], floor := m.accNo }

end Sys2Proof.Machine
end

