-- ==== Sys2Proof/Machine/Ecc.lean ====
section
/-! DEFINITION. Ashlar banks, error correction, the repeat table, spares and the bus matrix (chapter 17). -/

namespace Sys2Proof.Machine

/-- A change of a leaf's memories. -/
def Leaf.modEcc (x : Leaf) (f : Ecc → Ecc) : Leaf := { x with ecc := f x.ecc }
/-- A change of a leaf's memories. -/
def State.modEcc (s : State) (l : LeafId) (f : Ecc → Ecc) : State := s.modLeaf l fun x => x.modEcc f

/-! Banks and words (R433 to R440). -/

/-- A bank that is not listed: owned by its course, with an empty merge buffer. -/
def ashBank0 : AshBank := {}
/-- A bank. -/
def Ecc.bank (e : Ecc) (b : Nat) : AshBank := tget e.banks b ashBank0
/-- A change of a bank. -/
def Ecc.modBank (e : Ecc) (b : Nat) (f : AshBank → AshBank) : Ecc := { e with banks := tmod e.banks b ashBank0 f }

/-- The key of a word: 48 banks of 4 096 rows of 64 slots (R433)
(DESIGN CHOICE, log entry 29). -/
def wordKey (bank row slot : Nat) : Nat := (bank * 4096 + row) * 64 + slot

/-- An address that a bank has
(DESIGN CHOICE, log entry 29). -/
def wordOk (bank row slot : Nat) : Bool := decide (bank < 48) && decide (row < 4096) && decide (slot < 64)

/-- A word of a bank
(DESIGN CHOICE, log entry 29). -/
def Ecc.word (e : Ecc) (bank row slot : Nat) : BitVec 64 := tget e.words (wordKey bank row slot) 0

/-- Two places in the banks are the same word. -/
def EccHit.same (h : EccHit) (bank row slot : Nat) : Bool := h.bank == bank && h.row == row && h.slot == slot

/-- Any write to a word: its value, and the rewritten flag of its entry of the repeat table (R444). A
write replaces a poison pattern (R441)
(DESIGN CHOICE, log entry 29). -/
def Ecc.write (e : Ecc) (bank row slot : Nat) (v : BitVec 64) : Ecc :=
  { e with
    words := tset e.words (wordKey bank row slot) v 0,
    table := mapIf (fun h => h.same bank row slot) (fun h => { h with rewritten := true, scrub := false }) e.table }

/-- The bits of the bytes that strobes name. -/
def strobeMask (strobes : BitVec 8) : BitVec 64 :=
  BitVec.ofNat 64 ((List.range 8).map fun i => if bit strobes.toNat i then 255 * 2 ^ (8 * i) else 0).sum

/-- A value written under byte strobes. -/
def strobed (old new : BitVec 64) (strobes : BitVec 8) : BitVec 64 :=
  (old &&& ~~~(strobeMask strobes)) ||| (new &&& strobeMask strobes)

/-- Write one merge-buffer entry into its bank: a plain write when all 8 bytes are present, else a
read-modify-write (R439). -/
def Ecc.flushEntry (e : Ecc) (bank : Nat) (m : MergeEntry) : Ecc :=
  e.write bank m.row m.slot (strobed (e.word bank m.row m.slot) m.data m.strobes)

/-- Write every entry of a bank's merge buffer that satisfies a condition, oldest first. -/
def Ecc.flushIf (e : Ecc) (bank : Nat) (p : MergeEntry → Bool) : Ecc :=
  let ms := (e.bank bank).merge
  let e := (ms.filter p).foldl (fun e m => e.flushEntry bank m) e
  e.modBank bank fun b => { b with merge := ms.filter fun m => !p m }

/-- The merge entry holds a word. -/
def MergeEntry.at_ (m : MergeEntry) (row slot : Nat) : Bool := m.row == row && m.slot == slot

/-- One write that reaches a bank's merge buffer (R439, R440). -/
def Ecc.narrow (e : Ecc) (bank : Nat) (w : NarrowWrite) : Ecc :=
  let old := (e.bank bank).merge
  if w.owner then
    -- the owner's write stands; the writes merged so far receive COLLIDE
    let gone := old.filter fun m => m.at_ w.row w.slot
    (e.write bank w.row w.slot w.data).modBank bank fun b =>
      { b with merge := old.filter fun m => !m.at_ w.row w.slot, collides := b.collides + gone.length }
  else if w.strobes = 255 then (e.flushIf bank fun m => m.at_ w.row w.slot).write bank w.row w.slot w.data
  else
    let add : MergeEntry → MergeEntry := fun m =>
      { m with strobes := m.strobes ||| w.strobes, data := strobed m.data w.data w.strobes }
    if old.any fun m => m.at_ w.row w.slot then
      let e := e.modBank bank fun b => { b with merge := mapIf (fun m => m.at_ w.row w.slot) add old }
      e.flushIf bank fun m => m.at_ w.row w.slot && m.strobes == 255
    else
      let e := match old with
        | m :: rest => if 4 ≤ old.length then (e.flushEntry bank m).modBank bank fun b => { b with merge := rest } else e
        | [] => e
      e.modBank bank fun b => { b with merge := b.merge ++ [add { row := w.row, slot := w.slot }] }

/-! Uncorrectable errors (R442, R443, R455). -/

/-- Feeds that a course holds, by the render rate (R92). -/
def courseFeeds (rate course : Nat) : List Nat :=
  let n := if rate = 5 ∨ rate = 6 then 64 else 128
  span (course * n) n

/-- Raise `ECC_UNCORRECTABLE`, at most once per second per address (R455). -/
def State.eccEvent (s : State) (l : LeafId) (access course bank row slot : Nat) : State :=
  (s.modEcc l fun e => { e with uncorr := min 4294967295 (e.uncorr + 1) }).reportOn (s.fnOf l) l
    { code := 0x0FE2, subject := 4294967295, key := wordKey bank row slot, sev := 3, width := 2, count := 1,
      front := le8 access ++ le8 course ++ le8 bank ++ le8 slot ++ le16 row }

/-- A control core's data read fails: the thread's work is abandoned and the command in progress, the
first accepted one, completes with `INTERNAL_FAULT` (R442). -/
def State.abandonCommand (s : State) (f : FnId) : State :=
  match (s.fn f).mail.accepted with
  | [] => s
  | c :: rest => (s.modMail f fun m => { m with accepted := rest }).final c false sInternal 0 0

/-- A change of both scenes that a leaf renders. -/
def Leaf.modScenes (x : Leaf) (f : Scene → Scene) : Leaf := { x with scene := f x.scene, guest := x.guest.map f }

/-- Hold a course: its feeds are muted at once, its objects and buses read zero (R442)
(DEDUCED, log entry 30). -/
def Leaf.haltCourse (x : Leaf) (course : Nat) : Leaf :=
  let x := x.modEcc fun e => { e with halted := course :: e.halted.filter (· ≠ course), flag := true }
  x.modScenes fun sc => sc.modFeeds (courseFeeds x.clk.dom.rate course) fun _ f =>
    { f with run := { f.run with mute := Ramp.rest 0, out := 0 } }

/-- `ECC_UNCORRECTABLE` (R442): an uncorrectable error is handled by the access that finds it. `halt`
halts a bulk-transfer channel under R82
(DEDUCED, log entry 30). -/
def State.eccUncorrectable (halt : FnId → Nat → State → State) (l : LeafId) (access course bank row slot : Nat)
    (feeds : List Nat) (again : Bool) (s : State) : State :=
  match access with
  | 0 =>
    let w : PoisonWord := { bank := bank, row := row, slot := slot, feeds := feeds }
    (s.eccEvent l 0 course bank row slot).modEcc l fun e =>
      { e with flag := true, poison := e.poison ++ [w] }
  | 1 => if course < 8 then (s.eccEvent l 1 course 255 row slot).modLeaf l fun x => x.haltCourse course else s
  | 2 =>
    let s := s.eccEvent l 2 255 255 row slot
    if again then s.modLeaf l fun x => { x with stopped := true } else s
  | 3 => (s.eccEvent l 3 255 255 row slot).abandonCommand (s.fnOf l)
  | 4 => halt (s.fnOf l) 0 (s.eccEvent l 4 255 255 row slot)
  | 5 => s.eccEvent l 5 255 bank row slot
  | _ => s

/-- A feed's chain at zero state, as after a restart (R272): settings, filters and delays stay. -/
def FeedRun.zero (f : FeedRun) : FeedRun :=
  { f with
    path := { f.path with bqs := [], line := [] },
    next := f.next.map fun p => { p with bqs := [], line := [] },
    uHist := [], det := 0, compGain := 1, s := 1, z := 0, slewed := false, past := [], seen := none, poison := 0, clean := Ramp.rest 1,
    heldOut := 0 }

/-- The state words and pointers of an attachment's program in a course go to zero (R442). -/
def UcAtt.restart (a : UcAtt) (course : Nat) : UcAtt :=
  { a with data := a.data.filter fun p => p.1 / (64 * 2048 * 8) % 8 != course, ptrs := a.ptrs.filter fun p => p.1 % 8 != course }

/-- `COURSE_RESTART` (R442): the reloaded course starts from zero states, those of user programs among
them, and its feeds fade in over 32 samples
(DEDUCED, log entry 30; DESIGN CHOICE, log entry 36). -/
def execCourseRestart (l : LeafId) (course : Nat) (s : State) : Res :=
  .next <|
    let x := s.leaf l
    if !x.ecc.halted.contains course then s else
      s.modLeaf l fun x =>
        let x := x.modEcc fun e => { e with halted := e.halted.filter (· ≠ course) }
        x.modScenes fun sc =>
          let sc := sc.modFeeds (courseFeeds x.clk.dom.rate course) fun _ f =>
            { f with run := { f.run.zero with mute := { start := 0, target := 1, first := x.next, len := 32 } } }
          { sc with uc := { sc.uc with atts := sc.uc.atts.map fun p => (p.1, p.2.restart course) } }

/-! Spares (R448, R449). -/

/-- Spares of a kind that a bank still has: 8 rows or 2 bit-columns less those the fuse map, the field
table and the boot marches use. Only the 48 ashlar banks have spares (R433, R441). -/
def Ecc.freeSpares (e : Ecc) (bank kind : Nat) : List Nat :=
  let used := (e.fuse ++ e.field ++ e.boot).filter fun r => r.bank == bank && r.kind == kind
  (List.range (if 48 ≤ bank then 0 else if kind = 0 then 8 else 2)).filter fun i => !used.any fun r => r.spare == i

/-- The repair of a weak word by R449: a bit-column when another weak word of the bank in another row
fails in the same bit, else a row; the other kind when that one is exhausted; none when both are. -/
def Ecc.chooseSpare (e : Ecc) (h : EccHit) : Option EccRepair :=
  let shared := e.table.any fun q => q.weak && q.bank == h.bank && q.row != h.row && q.pos == h.pos
  let want := if shared then 1 else 0
  let pick : Nat → Option EccRepair := fun kind =>
    (e.freeSpares h.bank kind).head?.map fun sp =>
      { bank := h.bank, kind := kind, index := if kind = 0 then h.row else h.slot * 72 + h.pos, spare := sp }
  match pick want with
  | some r => some r
  | none => pick (1 - want)

/-- `ECC_REPAIR_REJECTED` (R455). -/
def State.repairRejected (s : State) (l : LeafId) (bank cause index : Nat) : State :=
  s.leafEvent l 0x0FE4 2 4294967295 (le8 bank ++ le8 cause ++ le16 index)

/-- The spare kind that `ECC_WEAK` names. -/
def plannedKind (r : Option EccRepair) : Nat := match r with
  | none => 255
  | some r => r.kind

/-- `ECC_WEAK` (R447, R455): raised in modes 1 and 2, with `ACTED` set in mode 2. -/
def State.weakEvent (s : State) (l : LeafId) (h : EccHit) (planned : Nat) : State :=
  let mode := (s.leaf l).ecc.mode
  if mode = 0 then s else
    s.leafEvent l 0x0FE1 2 4294967295 (le8 h.bank ++ le8 h.slot ++ le16 h.row ++ le8 h.pos ++ le8 planned) mode
      (if mode = 2 then 1 else 0)

/-- Mark a word weak and let the repair mode act (R447). -/
def State.markWeak (s : State) (l : LeafId) (h : EccHit) : State :=
  let e := (s.leaf l).ecc
  let due := if e.mode = 2 then 1 else 0
  let s := s.modEcc l fun e =>
    { e with table := mapIf (fun q => q.same h.bank h.row h.slot) (fun q => { q with weak := true, repair := due }) e.table }
  s.weakEvent l h (plannedKind ((s.leaf l).ecc.chooseSpare h))

/-- The place a new address takes in the repeat table (R446): a free entry, else the single-hit entry
with the oldest hit. -/
def Ecc.makeRoom (e : Ecc) : Option (List EccHit) :=
  if e.table.length < 16 then some e.table
  else
    let single := e.table.filter fun h => h.hits == 1 && !h.weak
    match single with
    | [] => none
    | h :: r =>
      let old := r.foldl (fun a b => if b.at_ < a.at_ then b else a) h
      some (e.table.filter fun q => !q.same old.bank old.row old.slot)

/-- `ECC_CORRECTION` (R441, R444, R446, R447): a single-bit error is corrected. Banks 0 to 47 are
ashlar banks, 48 to 55 the program memories of courses 0 to 7, any other number stands for the DRAM,
whose patrol scrubber rewrites the word at once (R465)
(DESIGN CHOICE, log entry 29). -/
def execEccCorrection (l : LeafId) (bank row slot pos : Nat) (s : State) : Res :=
  .next <|
    if 56 ≤ bank then s.modEcc l fun e => { e with corrDram := min 4294967295 (e.corrDram + 1) }
    else if 48 ≤ bank then s.modEcc l fun e => { e with corrProgram := tmod e.corrProgram (bank - 48) 0 (· + 1) }
    else if !wordOk bank row slot then s
    else
      let now := (s.leaf l).now
      let s := s.modEcc l fun e => { e with corrAshlar := min 4294967295 (e.corrAshlar + 1) }
      let e := (s.leaf l).ecc
      match e.table.find? fun h => h.same bank row slot with
      | none =>
        (match e.makeRoom with
         | some t =>
           s.modEcc l fun e =>
             { e with table := t ++ [{ bank := bank, row := row, slot := slot, pos := pos, scrub := true, at_ := now }] }
         | none =>
           (s.modEcc l fun e => { e with overflow := min 4294967295 (e.overflow + 1) }).report l 0x0FE3 2 4294967295 1 [])
      | some h =>
        let put : EccHit → State → State := fun h s =>
          s.modEcc l fun e => { e with table := mapIf (fun q => q.same bank row slot) (fun _ => h) e.table }
        if !h.rewritten then put { h with reads := h.reads + 1 } s
        else
          let h := { h with hits := h.hits + 1, rewritten := false, pos := pos, scrub := true, at_ := now }
          let s := put h s
          if h.hits = 2 then
            s.reportOn (s.fnOf l) l
              { code := 0x0FE0, subject := 4294967295, key := wordKey bank row slot, sev := 1, width := 0, count := 1,
                front := le8 bank ++ le8 slot ++ le16 row ++ le8 pos ++ le8 h.hits }
          else if h.hits = 16 && !h.weak then s.markWeak l h
          else s

/-- `ECC_SCRUB` (R445): the words whose scrub is due are rewritten with fresh check bits; their values
stay. -/
def execEccScrub (l : LeafId) (s : State) : Res :=
  .next <| s.modEcc l fun e =>
    { e with table := mapIf (fun h => h.scrub) (fun h => { h with scrub := false, rewritten := true }) e.table }

/-- `ECC_OPERAND_REWRITE` (R442, R443): the firmware rewrites a word whose operand fetch failed. A word
that is still uncorrectable is hard-faulted, marked weak, and goes on poisoning its feeds
(DEDUCED, log entry 30). -/
def execEccOperandRewrite (l : LeafId) (bank row slot : Nat) (hard : Bool) (s : State) : Res :=
  .next <|
    let here : PoisonWord → Bool := fun w => w.bank == bank && w.row == row && w.slot == slot
    if !(s.leaf l).ecc.poison.any here then s
    else if !hard then s.modEcc l fun e => { e with poison := e.poison.filter fun w => !here w }
    else
      let s := s.modEcc l fun e =>
        { e with
          poison := mapIf here (fun w => { w with hard := true }) e.poison,
          table := if e.table.any (fun h => h.same bank row slot) || !wordOk bank row slot then e.table else
            e.makeRoom.getD e.table ++ (if e.makeRoom.isSome then
              [{ bank := bank, row := row, slot := slot, at_ := (s.leaf l).now }] else []) }
      match (s.leaf l).ecc.table.find? fun h => h.same bank row slot with
      | none => s
      | some h => if h.weak then s else s.markWeak l h

/-- `REPEAT_ENTRY_EXPIRE` (R446): an entry with a single hit and none for 60 s is freed. -/
def execRepeatEntryExpire (l : LeafId) (i : Nat) (s : State) : Res :=
  .next <|
    let x := s.leaf l
    match x.ecc.table[i]? with
    | none => s
    | some h =>
      if h.hits = 1 && !h.weak && decide (h.at_ + 60000000000 ≤ x.now) then
        s.modEcc l fun e => { e with table := e.table.eraseIdx i }
      else s

/-- The command that ordered a field repair ends (R498). -/
def State.endRepair (s : State) (l : LeafId) (status : Nat) : State :=
  let ts := (s.leaf l).boot.tests.filter fun t => t.field
  let s := s.modLeaf l fun x => { x with boot := { x.boot with tests := x.boot.tests.filter fun t => !t.field } }
  ts.foldl (fun s t => s.final t.cmd false status 0 0) s

/-- `FIELD_REPAIR_WRITE` (R447 to R449): the firmware writes the field-repair entry of the first weak
word that awaits one, or reports why it cannot. -/
def execFieldRepairWrite (l : LeafId) (s : State) : Res :=
  .next <|
    let e := (s.leaf l).ecc
    match e.table.find? fun h => h.weak && decide (h.repair ≠ 0) with
    | none => s
    | some h =>
      let ordered := h.repair == 2
      let mark : Bool → EccHit → EccHit := fun ok q => { q with repair := 0, repaired := ok || q.repaired }
      let done : Bool → State → State := fun ok s => s.modEcc l fun e =>
        { e with table := mapIf (fun q => q.same h.bank h.row h.slot) (mark ok) e.table }
      if 256 ≤ e.field.length then
        let s := (done false s).repairRejected l h.bank 1 h.row
        if ordered then s.endRepair l sNoCapacity else s
      else match e.chooseSpare h with
        | none =>
          let s := (done false s).repairRejected l h.bank 0 h.row
          if ordered then s.endRepair l sNoCapacity else s
        | some r =>
          let s := (done true s).modEcc l fun e => { e with field := e.field ++ [r] }
          if ordered then s.endRepair l sOk else s

/-! Side port and handovers (R435 to R440). -/

/-- `BANK_HANDOVER` (R435): the old owner has drained; merge entries are written and the new owner
takes the bank. Owner 0 is the bank's own course (R434)
(DEDUCED, log entry 47). -/
def execBankHandover (l : LeafId) (bank owner : Nat) (s : State) : Res :=
  .next <|
    if 48 ≤ bank ∨ 3 ≤ owner then s else
      s.modEcc l fun e => (e.flushIf bank fun _ => true).modBank bank fun b => { b with owner := owner }

/-- `ALIAS_WRITE` (R438): bits of a word are set or cleared at once, after its merge entry has been
written. With an uncorrectable read no write is made. -/
def execAliasWrite (l : LeafId) (bank row slot : Nat) (set : Bool) (strobes : BitVec 8) (mask : BitVec 64) (bad : Bool)
    (s : State) : Res :=
  .next <|
    if !wordOk bank row slot then s
    else
      let s := s.modEcc l fun e => e.flushIf bank fun m => m.at_ row slot
      if bad then s.eccEvent l 5 255 bank row slot
      else s.modEcc l fun e =>
        let w := e.word bank row slot
        let m := mask &&& strobeMask strobes
        e.write bank row slot (if set then w ||| m else w &&& ~~~m)

/-- `MERGE_ENTRY_FLUSH` (R439, R440): writes reach the merge buffer of a bank, then its entry `i` is
written to the bank. With an uncorrectable read of a partial entry no write is made and the entry's
masters receive an error response (R438, R442). -/
def execMergeEntryFlush (l : LeafId) (bank i : Nat) (writes : List NarrowWrite) (bad : Bool) (s : State) : Res :=
  .next <|
    if 48 ≤ bank then s else
      let ws := writes.filter fun w => wordOk bank w.row w.slot
      let s := s.modEcc l fun e => ws.foldl (fun e w => e.narrow bank w) e
      match ((s.leaf l).ecc.bank bank).merge[i]? with
      | none => s
      | some m =>
        if bad && m.strobes != 255 then
          (s.eccEvent l 5 255 bank m.row m.slot).modEcc l fun e =>
            e.modBank bank fun b => { b with merge := b.merge.eraseIdx i }
        else s.modEcc l fun e => e.flushIf bank fun q => q.at_ m.row m.slot

/-! The bus matrix (R453). -/

/-- `BUS_DECERR` (R453, R455): a transaction reached no target. `master` is its class in the row order
of R450. A control core traps under R442, and the bulk-transfer engine halts under R82. -/
def State.busDecerr (halt : FnId → Nat → State → State) (l : LeafId) (master unit addr : Nat) (s : State) : State :=
  let s := s.modEcc l fun e => { e with decerr := min 4294967295 (e.decerr + 1) }
  let s := s.leafEvent l 0x0FE5 3 4294967295 (le8 master ++ le8 unit ++ zeros 6 ++ le64 addr)
  match master with
  | 4 => s.abandonCommand (s.fnOf l)
  | 5 => halt (s.fnOf l) 0 s
  | _ => s

end Sys2Proof.Machine
end

