-- ==== Sys2Proof/Machine/Restart.lean ====
section
/-! DEFINITION. Rate domains and render restarts (R271 to R275, R385, R409): `RTE_DOMAIN`, the silent
interval, and the zero state from which a scene starts again. -/

namespace Sys2Proof.Machine

/-! Zero state (R272 step 4): every filter, delay line, detector and oscillator at zero, every fade,
ramp, glide and cross-fade at its target. -/

/-- A trajectory that has completed. -/
def Ramp.done (r : Ramp) : Ramp := Ramp.rest r.target

/-- A table of trajectories that have completed. -/
def rampsDone (l : List (Nat × Ramp)) : List (Nat × Ramp) := l.map fun (p : Nat × Ramp) => (p.1, p.2.done)

/-- A rendering at zero state. -/
def Rendering.zero (r : Rendering) : Rendering :=
  { r with
    lp := 0, xs := [], line := [], decor := [], gains := rampsDone r.gains, srcs := r.srcs.map rampsDone,
    pairs := (r.pairs.filter fun p => !p.gone).map fun (p : WavePair) =>
      { p with delay := p.target, step := 0, amp := Ramp.rest p.goal, dipAt := 0 },
    skip := 0 }

/-- The placements that stand once a fold fade has completed. -/
def placesDone (l : List Placement) : List Placement :=
  let m := (l.filter fun p => p.level.target != 0).map fun (p : Placement) => { p with level := p.level.done }
  if m.all fun p => p.cid == 0 then [] else m

/-- An object at zero state; a waiting rendering change starts at sample `n`. -/
def Obj.zero (o : Obj) (n : Nat) : Obj :=
  let r := o.run
  ({ o with run := { r with
      held := none, fade := r.fade.done, gainR := r.gainR.done, spreadR := r.spreadR.done, cur := r.cur.zero,
      xf := r.xf.map fun (f : ObjXfade) => { f with level := f.level.done },
      places := placesDone r.places, hist := [], air := r.air.done, dist := r.dist.done, distOn := 0,
      det := 0, detX := none, dynGain := 1, xo := 0, energy := [], heldT := none } } : Obj).xfadeEnd n

/-- A feed at zero state; a waiting delay change starts at sample `n`. -/
def Feed.zero (f : Feed) (n : Nat) : Feed :=
  let r := f.run.zero
  ({ f with run := { r with
      held := none, glide := r.glide.done, mute := if r.mute.target = 0 then r.mute else Ramp.rest 1,
      delayF := r.delayF.map fun (d : DelayFade) => { d with level := d.level.done } } } : Feed).delayEnd n

/-- A voice at zero state
(DEDUCED, log entry 33). -/
def Voice.zero (v : Voice) : Voice :=
  { v with
    oscs := v.oscs.map fun _ => {}, lfos := v.lfos.map fun _ => {}, svf := [0, 0], lad := [0, 0, 0, 0, 0],
    mat := rampsDone v.mat, coefs := v.coefs.map Ramp.done, out := 0 }

/-- Steal fades have completed: stolen and ended notes are gone, and the notes of shadow voices move
into their voices (R249, R251). -/
def Scene.voxDone (x : Scene) : Scene :=
  let vs := x.vox.voices.filter fun q => q.2.fade.isNone
  let sh := x.vox.shadows.filter fun q => q.2.v.fade.isNone
  let y := { x with vox := { x.vox with voices := vs, shadows := sh } }
  sh.foldl (fun y q =>
    if q.2.waits then
      (match y.freeVoice q.2.v.pool with
       | none => y
       | some i => (y.setVoice i (some q.2.v)).setShadow q.1 none)
    else match q.2.into with
      | none => y
      | some i => (y.setVoice i (some q.2.v)).setShadow q.1 none) y

/-- A selection point whose cross-fade has completed. -/
def Sel.done (s : Sel) : Sel := { s with old := 0, first := 0, len := 0, eff := none }

/-- A monitor bus at zero state. -/
def Bus.zero (b : Bus) : Bus :=
  { b with
    ramp := b.ramp.done, out := 0,
    inputs := b.inputs.map fun (p : Nat × BusIn) =>
      (p.1, { p.2 with sel := p.2.sel.done, ramp := p.2.ramp.done, prev := 0 }) }

/-- A bridge channel at zero state. -/
def Bridge.zero (b : Bridge) : Bridge :=
  { b with sel := b.sel.done, level := b.level.done, ratio := b.adopt.getD b.ratio, adopt := none, fifo := [], fill := 0 }

/-- A player whose transport fade has completed at sample `n`. -/
def Player.done (p : Player) (n : Nat) : Player :=
  ({ p with level := p.level.done } : Player).fadeTick n

/-- An attachment at zero state (R311): parameter rows keep their values. -/
def UcAtt.zero (a : UcAtt) : UcAtt :=
  if a.state = 3 then att0
  else { a with state := if a.state = 1 then 2 else a.state, level := a.level.done, data := [], ptrs := [], outs := [], drop := [] }

/-- A table mapped over its values. -/
def tmap {α β : Type} (f : α → β) (t : List (Nat × α)) : List (Nat × β) := t.map fun (p : Nat × α) => (p.1, f p.2)

/-- A scene at zero state from the first new sample `n` on. Swap fades are ended by `endSwaps`
(DEDUCED, log entry 33). -/
def Scene.zero (x : Scene) (n : Nat) : Scene :=
  let x := if x.objs.clearing.isSome then x.returned else x
  let gone := x.objs.beds.filter fun d => d.removing.isSome
  let x := gone.foldl (fun x d => x.modObjs (span d.base (bedCount d.system)) fun _ o => { sel := o.sel }) x
  let x := x.voxDone
  let m := x.route.meters
  { x with
    objs := { x.objs with
      objs := tmap (fun o => ({ (Obj.zero o n) with sel := o.sel.done } : Obj)) x.objs.objs,
      beds := x.objs.beds.filter fun d => d.removing.isNone,
      clusters := (x.objs.clusters.filter fun c => c.live).map fun (c : Cluster) => { c with render := c.render.zero },
      solved := none },
    out := { x.out with feeds := tmap (fun f => Feed.zero f n) x.out.feeds },
    route := { x.route with
      buses := tmap Bus.zero x.route.buses, bridges := tmap Bridge.zero x.route.bridges,
      egress := tmap Sel.done x.route.egress, coping := tmap Sel.done x.route.coping,
      meters := { m with objs := [], feeds := [], buses := [] } },
    vox := { x.vox with
      voices := tmap Voice.zero x.vox.voices,
      shadows := tmap (fun q => { q with v := q.v.zero }) x.vox.shadows,
      groups := tmap (fun g => { g with ramp := g.ramp.done, out := [] }) x.vox.groups },
    clips := { x.clips with players := tmap (fun p => Player.done p n) x.clips.players },
    uc := { x.uc with atts := tmap UcAtt.zero x.uc.atts, ins := [] } }

/-- End every swap fade in progress (R193, R272): banks change state and waiting swaps start. -/
def endSwaps (c : Ctx) (x : Leaf) : LEff :=
  let x := x.modScene fun sc =>
    { sc with out := { sc.out with fades := sc.out.fades.map fun (f : SwapFade) => { f with first := 0, len := 0 } } }
  (x.scene.out.fades.map SwapFade.bank).eraseDups.foldl (fun e b =>
    let r := endSwap c b e.x
    { x := r.x, evs := e.evs ++ r.evs, done := e.done ++ r.done }) { x := x }

/-! Checks of a rate change (R99, R117, R173, R235, R275, R311). -/

/-- The side rate is within the rate class above the render rate (R275). -/
def sideRateOk (render side : Nat) : Bool := decide (rateMul side ≤ 2 * rateMul render)

/-- One scene fits the capacities of a render rate; `taps` and `pairs` are what other scenes use. -/
def Scene.fitsRate (x : Scene) (rate taps pairs : Nat) : Bool :=
  let big : Nat → Bool := fun i => decide (objCap rate ≤ i) && !slotless i
  let objBad := (x.objs.objs.any fun p => big p.1 && p.2.enabled) ||
    (x.objs.beds.any fun d => decide (objCap rate < d.base + bedCount d.system)) ||
    (x.objs.maps.any fun m => decide (objCap rate < m.2.base + m.2.count))
  let groupBad := x.vox.groups.any fun g => g.2.bound && big g.2.target
  let far : Layout → Bool := fun l => l.speakers.any fun p => p.2.kind != 0 && decide (feedCap rate ≤ p.1)
  !objBad && !groupBad && !far x.rend.lay && !far x.rend.edit &&
    decide (taps + x.installed + x.out.q ≤ tapCap rate) && decide (x.reserveUsed ≤ x.out.q) && decide (pairs ≤ pairCap rate)

/-- A leaf fits a render rate. -/
def Leaf.fitsRate (x : Leaf) (v : Variant) (rate : Nat) : Bool :=
  let other : Scene → Nat := fun g => g.installed + g.out.q
  x.scene.fitsRate rate ((x.guest.map other).getD 0) x.pairUse &&
    (match x.guest with
     | none => true
     | some g => g.fitsRate rate (other x.scene) x.pairUse) &&
    ([x.clk.side1, x.clk.side2].all fun d => d.rate == 0 || sideRateOk rate d.rate) &&
    (ucMisfit v rate x.ucAll).isNone

/-- A calibration run is in progress. -/
def Scene.measuring (x : Scene) : Bool := x.activeRun.isSome

/-- A player that is playing, pausing, stopping or held by calibration (R272). -/
def Scene.playersBusy (x : Scene) : Bool := x.clips.players.any fun p => p.2.active || p.2.state == 6

/-! The audio clock (R363, R368, R369). -/

/-- The audio PLL takes the VCXO of a rate family: it is gated until it locks, and takes the stored
band or searches one
(DESIGN CHOICE, log entry 3). -/
def Leaf.audioFamily (x : Leaf) (fam : Nat) : Leaf :=
  if x.clk.family = fam then x else
    let stored := if fam = 0 then x.clk.band48 else x.clk.band44
    let band := if stored = 255 then Config.free "audioBand" (fam + 2 * x.clk.cycles) % 32 else stored
    let x := (x.gatePll 2).modPll 2 fun p => { p with band := band }
    let c := { x.clk with family := fam }
    { x with clk := if fam = 0 then { c with band48 := band } else { c with band44 := band } }

/-! Starting a domain. -/

/-- A domain starts on a rate and a time base: its next meridian is the first media-clock instant
after the time base's present time (R272, R362)
(DEDUCED, log entry 33). -/
def Domain.start (d : Domain) (rate tb now : Nat) : Domain := { d with rate := rate, tb := tb, minNext := max 1 now }

/-- A queued command or note event keeps its absolute time: its count at the new rate, and whether it
fell in the silent interval (R272). -/
def Domain.recount (d : Domain) (t count : Nat) : Nat × Bool :=
  if t = 0 then (count, false) else
    let k := countOf (rateHz d.rate) t
    if k < d.nextCount then (d.nextCount, true) else (k, false)

/-- Pending note events after a restart. -/
def Scene.recount (x : Scene) (d : Domain) : Scene :=
  { x with vox := { x.vox with pending := x.vox.pending.map fun (e : NoteEv) =>
      { e with count := (d.recount e.t e.count).1 } } }

/-- Queued commands of a function after a restart. -/
def State.recount (s : State) (f : FnId) : State :=
  let d := s.fnDom f
  s.modMail f fun m =>
    { m with queued := m.queued.map fun (p : Pend) =>
        let r := d.recount p.cmd.when_ p.count
        { p with count := r.1, late := p.late || r.2 } }

/-- The functions whose commands act on a leaf. -/
def State.actsOn (s : State) (l : LeafId) : List FnId :=
  [FnId.f0, .f1].filter fun f => (s.servers f).any fun p => p.1 == l

/-- Render cycles of a silent interval in microseconds. -/
def cyclesUs (k : Nat) : Nat := k * 5 / 8000

/-- Every time base of a leaf moves on by render cycles
(DESIGN CHOICE, log entry 15). -/
def Leaf.passCycles (x : Leaf) (k : Nat) : Leaf :=
  let x := [0, 1, 2, 3].foldl (fun x i => x.modTb i fun t => t.advance k) x
  { x with clk := { x.clk with cycles := x.clk.cycles + k } }

/-- The latest count whose instant a time base has reached (R362). -/
def TimeBase.countNow (t : TimeBase) (fs : Nat) : Nat := t.t * 5 * fs / (1000000000 * 2 ^ 51)

/-- The first new sample of a leaf (R272 steps 3 to 5): zero states, completed fades, the new rate and
time base, and a fade-in of 64 samples
(DEDUCED, log entry 33). -/
def Leaf.restart (x : Leaf) (rate tb : Nat) : LEff :=
  let n := x.next
  let moved := x.clk.dom.tb != tb
  let d := x.clk.dom.start rate tb (x.tb tb).t
  let x := { x with clk := { x.clk with dom := d, restart := none, fadeIn := some n } }
  let e := endSwaps { n := n, prep := true } x
  let x := e.x.modScene fun sc => sc.zero n
  let x := match x.guest with
    | none => x
    | some g => { x with guest := some (g.zero n) }
  let x := (x.audioFamily (rateFamily rate)).modScene fun sc => sc.recount d
  { e with x := if moved then x.micResettle else x }

/-- `RENDER_RESTARTED` (R272). -/
def restartedEv (old : Domain) (rate tb us : Nat) : Ev :=
  { code := 0x08F1, sev := 1, payload := le8 old.rate ++ le8 rate ++ le8 old.tb ++ le8 tb ++ le32 us }

/-! `RTE_DOMAIN`. -/

/-- Effect of `RTE_DOMAIN` on the render domain (R271, R272, R363, R385, R425)
(DEDUCED, log entry 33). -/
def runRenderDomain (v : Variant) (split : Bool) (g : Ctx) (m : Cmd) (x : Leaf) : LEff :=
  let rate := u8 m.body 1
  let tb := u8 m.body 2
  let d := x.clk.dom
  let moved := d.rate != rate
  if moved && !x.fitsRate v rate then .no x sNoCapacity
  else if !(x.clk.vcxo (rateFamily rate)).fitted || (moved && d.rate != 0 && split) then .no x sBadState
  else if d.rate = 0 then
    let e := x.restart rate tb
    { e with evs := e.evs ++ [restartedEv d rate tb 0] }
  else if !moved && d.tb == tb && x.clk.restart.isNone then { x := x }
  else if x.scenes.any Scene.measuring || (x.scenes.any fun sc => sc.domainLive 0) || (x.scenes.any Scene.playersBusy) ||
      (moved && x.mics.clocks.any fun p => p.2.on) then .no x sBadState
  else
    let r : Restart := match x.clk.restart with
      | none => { first := g.first, rate := rate, tb := tb }
      | some r => { r with rate := rate, tb := tb }
    { x := { x with clk := { x.clk with restart := some r } } }

/-- A stream or a bridge channel is assigned to a side domain (R273). -/
def Scene.sideUsed (x : Scene) (d : Nat) : Bool :=
  (x.net.rx.any fun p => p.2.set.domain == d) ||
    (x.net.tx.any fun p => p.2.set.domain == d || (p.2.next.getD p.2.set).domain == d) ||
    x.route.bridges.any fun p => p.2.op != 0 && p.2.domain == d

/-- Effect of `RTE_DOMAIN` on a side domain (R273, R275)
(DEDUCED, log entry 33). -/
def runSideDomain (i : Nat) (m : Cmd) (x : Leaf) : LEff :=
  let rate := u8 m.body 1
  let tb := u8 m.body 2
  let d := x.domain i
  if rate ≠ 0 ∧ sideRateOk x.clk.dom.rate rate = false then .no x sNoCapacity
  else if d.rate ≠ rate ∧ (x.scenes.any fun sc => sc.sideUsed i) = true then .no x sBadState
  else if rate = 0 then { x := x.modDomain i fun d => { d with rate := 0, tb := tb } }
  else { x := x.modDomain i fun d => d.start rate tb (x.tb tb).t }

/-- `RTE_DOMAIN` (R272, R273, R288). -/
def specRteDomain : Spec where
  op := 0x0801
  len := fixedLen 8
  timed := true
  fields := fun _ c =>
    let b := c.body
    [rng 0 (u8 b 0) 0 2, (1, decide (u8 b 1 < 7) && !(u8 b 0 == 0 && u8 b 1 == 0)), rng 2 (u8 b 2) 0 3, resv c 3 5]
  run := fun c prep d s =>
    let e := onLeaves (fun g m _ x =>
      if u8 m.body 0 = 0 then runRenderDomain s.variant (s.red.mode == 2) g m x else runSideDomain (u8 m.body 0) m x) c prep d s
    if noEffect e.status || u8 c.body 0 != 0 || (s.fnDom c.fn).rate != 0 then e
    else { e with s := e.s.recount c.fn, applied := some (e.s.appliedAt c.fn) }

/-! The silent interval. -/

/-- `RENDER_SILENCE_START` (R272): 64 samples after the restart's effect sample the leaf stops
rendering
(DESIGN CHOICE, log entry 10). -/
def execRenderSilenceStart (l : LeafId) (s : State) : Res :=
  .next (s.modLeaf l fun x =>
    match x.clk.restart with
    | none => x
    | some r => if r.silent || decide (x.next < r.first + 64) then x
                else { x with clk := { x.clk with restart := some { r with silent := true } } })

end Sys2Proof.Machine
end

