-- ==== Sys2Proof/Machine/Redundancy.lean ====
section
/-! DEFINITION. Claims, failures, the per-sample compare, checkpoints, the journal and the split
takeover (R17 to R20, R35 to R39, R137, R253, R410 to R428). -/

namespace Sys2Proof.Machine

/-! Claims (R20, R410, R411, R432). -/

/-- `RED_CLAIM` on a two-leaf module, for a claim that changes, with the tag of the command behind it. -/
def State.claimEvent (s : State) (l : LeafId) (old new cause : Nat) (tag : Nat := 0) : State :=
  if s.variant.hasB = false ∨ old = new then s else
    s.modEvent 0x0EF1 (if within 1 3 cause then 3 else 1) (le8 l.num ++ le8 old ++ le8 new ++ le8 cause)
      s.red.demote (b2n (cause == 1 || cause == 2)) (tag := tag)

/-- A leaf's claim changes now
(DEDUCED, log entry 41). -/
def State.setClaim (s : State) (l : LeafId) (new cause : Nat) (tag : Nat := 0) : State :=
  let old := (s.red.of l).claim
  (s.modRed l fun r => { r with claim := new, grant := none }).claimEvent l old new cause tag

/-- A claim change is granted for the leaf's next meridian
(DEDUCED, log entry 41). -/
def State.grant (s : State) (l : LeafId) (claim cause : Nat) (tag : Nat := 0) (after : Option Nat := none) : State :=
  s.modRed l fun r => { r with grant := some { claim := claim, cause := cause, tag := tag, after := after } }

/-- Both leaves are granted new claims for their next meridians (R20). Where each is to take the other's
number, the one that goes down gives its own up first
(DEDUCED, log entry 41). -/
def State.moveClaims (s : State) (a b cause tag : Nat) : State :=
  let ca := s.red.a.claim
  let cb := s.red.b.claim
  let cross := a == cb && b == ca && a != 0 && b != 0
  let one : State → LeafId → Nat → Nat → State := fun s l new old =>
    if new = old then s
    else if cross ∧ new < old then s.grant l 0 cause tag (some new)
    else s.grant l new cause tag
  one (one s .a a ca) .b b cb

/-- A claim is restored: at once, or by a grant that waits while the other leaf still holds that number
(R20)
(DEDUCED, log entry 41). -/
def State.restoreClaim (s : State) (l : LeafId) (new cause : Nat) (tag : Nat := 0) : State :=
  if new ≠ 0 ∧ new = (s.red.of l.other).claim then s.grant l new cause tag else s.setClaim l new cause tag

/-- A grant takes effect; it waits while it would give both leaves one non-zero claim. A promotion in
twin mode makes the leaf the active one (R20, R417)
(DEDUCED, log entry 41). -/
def State.applyGrant (s : State) (l : LeafId) : State :=
  match (s.red.of l).grant with
  | none => s
  | some g =>
    if g.claim ≠ 0 ∧ g.claim = (s.red.of l.other).claim then s
    else
      let t := s.setClaim l g.claim g.cause g.tag
      let t := match g.after with
        | none => t
        | some k => t.grant l k g.cause g.tag
      let t := if g.cause = 7 ∧ s.red.mode = 1 then { t with red := { t.red with active := l, takeover := none } } else t
      t.notify s g.tag

/-- `CLAIM_GRANT` (R20)
(DESIGN CHOICE, log entry 36). -/
def execClaimGrant (l : LeafId) (s : State) : Res := .next (s.applyGrant l)

/-- The claim of a leaf in independent mode, and of leaf A of a ZL-4824S (R410, R411). -/
def State.homeClaim (s : State) (l : LeafId) : Nat :=
  if s.variant.hasB = false then (if l = .a then 12 else 0)
  else if l = .a then s.red.activeClaim else s.red.standbyClaim

/-- In independent mode a leaf that reports READY and has a render rate gets its claim back at its
meridian (R411)
(DEDUCED, log entry 41). -/
def State.claimReturn (s : State) (l : LeafId) : State :=
  let r := s.red.of l
  if s.red.mode = 0 ∧ r.claim = 0 ∧ r.grant = none ∧ s.alive l = true ∧ (s.leaf l).clk.dom.rate ≠ 0 ∧ s.red.entry = none then
    (s.restoreClaim l (s.homeClaim l) 6).notify s
  else s

/-! Commands that a failure ends or carries over (R39, R420, R492). -/

/-- Take the tests, repairs, image deliveries and updates of a leaf away from it: their commands. -/
def State.takeWork (s : State) (l : LeafId) : List Cmd × State :=
  let b := (s.leaf l).boot
  (b.tests.map Test.cmd ++ b.load.toList.map Load.cmd ++ b.update.toList.map Load.cmd,
   s.modLeaf l fun x => { x with boot := { x.boot with tests := [], load := none, update := none } })

/-- Commands end with `ABORTED`. -/
def State.abortAll (s : State) (cs : List Cmd) : State := cs.foldl (fun s c => s.final c false sAborted 0 0) s

/-- End the tests, image deliveries and updates of a leaf that goes into reset (R492). -/
def State.endWork (s : State) (l : LeafId) : State := (s.takeWork l).2.abortAll (s.takeWork l).1

/-- `RED_SYNC` (R432). -/
def State.syncEvent (s : State) (op status us bytes tag : Nat) : State :=
  s.modEvent 0x0EF5 1 (le8 op ++ le8 (status % 256) ++ le32 us ++ le32 (bytes / 1048576)) (tag := tag)

/-- A joint restart that its entry has left: silent, it ends as an ordinary one; otherwise it is
dropped. -/
def Leaf.dropJoint (x : Leaf) : Leaf :=
  match x.clk.restart with
  | none => x
  | some r =>
    if !r.joint then x
    else { x with clk := { x.clk with restart := if r.silent then some { r with joint := false } else none } }

/-- A twin entry or a restore in progress ends with `ABORTED` (R420). -/
def State.dropEntry (s : State) : State :=
  match s.red.entry with
  | none => s
  | some e =>
    let s := { s with red := { s.red with entry := none } }
    let s := (s.modLeaf .a Leaf.dropJoint).modLeaf .b Leaf.dropJoint
    (s.final e.cmd false sAborted 0 0).syncEvent e.op sAborted 0 0 e.cmd.tag

/-- A split entry that waits for its first checkpoints ends with `ABORTED`. -/
def State.dropSplit (s : State) : State :=
  match s.red.split with
  | none => s
  | some c => ({ s with red := { s.red with split := none } } : State).final c false sAborted 0 0

/-- A role swap that waits for its meridian ends with `BAD_STATE` (R420). -/
def State.dropSwap (s : State) : State :=
  match s.red.swapAt with
  | none => s
  | some c => ({ s with red := { s.red with swapAt := none } } : State).final c false sBadState 0 0

/-- A change to independent mode that waits for its meridian ends with `ABORTED` at a failure
(DEDUCED, log entry 41). -/
def State.dropLeave (s : State) : State :=
  match s.red.leaveAt with
  | none => s
  | some c => ({ s with red := { s.red with leaveAt := none } } : State).final c false sAborted 0 0

/-- The commands of a function in flight at a failure complete with `REPLAYED` and the status they
reach in `detail` (R39). -/
def State.markReplay (s : State) (f : FnId) : State :=
  let mark : Waiting → Waiting := fun w =>
    if w.record.kind = 0 ∧ w.record.status ≠ sReplayed then
      { w with record := { w.record with detail := w.record.status, status := sReplayed } }
    else w
  s.modMail f fun m => { m with replay := m.accNo, waiting := m.waiting.map mark }

/-- Commands that a scene still has to complete: notes, queued swaps, waiting selections and a
calibration run. -/
def Scene.unposted (x : Scene) : List Cmd :=
  x.vox.cmds.map NoteCmd.cmd ++ (x.out.fades.filterMap fun f => f.waiting.map Pend.cmd) ++
    x.route.waits.map SelWait.cmd ++ (x.activeRun.map MeasRun.cmd).toList

/-- `RED_TAKEOVER` (R432). -/
def State.takeoverEvent (s : State) (t : Takeover) (phase us muted left : Nat) : State :=
  s.modEvent 0x0EF4 3 (le8 t.scene ++ le8 t.lost.other.num ++ le8 phase ++ le32 us ++ le16 muted ++ le16 left)

/-! A leaf fails (R38, R411, R417 to R420, R423). -/

/-- The function whose home a leaf is. -/
def State.homeFn (s : State) (l : LeafId) : FnId := s.fnOf l

/-- A leaf of a twin pair fails. -/
def State.twinFails (s : State) (l : LeafId) : State :=
  let o := l.other
  let ro := s.red.of o
  let s := s.modRed l fun r => { r with lost := true, grant := none }
  if s.red.active ≠ l then
    (if s.red.takeover.isSome then ({ s with red := { s.red with takeover := none } } : State).loseFn .f0 else s)
  else if s.alive o = true ∧ ro.claim ≠ 0 ∧ (ro.grant.map Grant.claim) ≠ some 0 then
    let t : Takeover := { lost := l, start := (s.leaf o).now }
    let s := ({ s with red := { s.red with takeover := some t } } : State).markReplay .f0
    let s := s.leafStep o fun x =>
      { x := (runMeasAbort { leaf := o, n := x.next } {} [] x).x }
    s.grant o s.red.activeClaim 7
  else s.loseFn .f0

/-- A leaf fails in split mode. -/
def State.splitFails (s : State) (l : LeafId) : State :=
  let o := l.other
  let fl := s.homeFn l
  let fo := s.homeFn o
  let start : Bool → Scene → Scene → State → State := fun both img live s =>
    let t : Takeover :=
      { lost := l, scene := b2n (s.red.sceneA != l), both := both, start := (s.leaf o).now, image := img,
        cmds := live.unposted ++ (if both then ((s.leaf l).guest.map Scene.unposted).getD [] else []) }
    let s := ({ s with red := { s.red with takeover := some t } } : State).takeoverEvent t 0 0 0 0
    let s := s.modRed l fun r => { r with lost := true }
    let s := s.markReplay fl
    let s := if both then (s.markReplay fo).modLeaf l fun x => { x with guest := none } else s
    s.grant o s.red.activeClaim 7
  match s.red.takeover with
  | some t =>
    let s := ({ s with red := { s.red with takeover := none } } : State).takeoverEvent t 2 0 0 0
    (s.loseFn fl).loseFn fo
  | none =>
    let ro := s.red.of o
    if (s.leaf l).guest.isSome then
      match ro.ckpt, ro.ckptGuest with
      | some own, some _ =>
        if s.alive o = true ∧ ro.claim ≠ 0 then start true own (s.leaf l).scene s
        else ((s.modLeaf l fun x => { x with guest := none }).loseFn fl).loseFn fo
      | _, _ => ((s.modLeaf l fun x => { x with guest := none }).loseFn fl).loseFn fo
    else if (s.red.of l).lost then s
    else match ro.ckpt with
      | some own =>
        if s.alive o = true ∧ ro.lost = false then start false own (s.leaf l).scene s
        else (s.modRed l fun r => { r with lost := true }).loseFn fl
      | none =>
        let t : Takeover := { lost := l, scene := b2n (s.red.sceneA != l) }
        ((s.modRed l fun r => { r with lost := true }).takeoverEvent t 2 0 0 0).loseFn fl

/-- The tie link carries nothing any more: a checkpoint on its way is lost (R15, R420). -/
def State.tieCut (s : State) : State :=
  let cut : RedLeaf → RedLeaf := fun r => { r with transit := none }
  let s := (s.modRed .a cut).modRed .b cut
  { s with red := { s.red with tieUp := false } }

/-- A running leaf fails: its claim is withdrawn at once and the mode decides what follows. `run` is
its `MOD_STATUS.RUN` from then on. Its tests and repairs end with `ABORTED` where it goes into reset and
nothing takes its function over (R492); else with what R38 and R39 lay down
(DEDUCED, log entry 35). -/
def State.leafFails (s0 : State) (l : LeafId) (run : Nat) : State :=
  let work := s0.takeWork l
  let s := work.2.dropEntry.dropSplit.dropSwap.dropLeave
  let s := s.setClaim l 0 3
  let s := (s.modLeaf l fun x => { x with run := run }).tieCut
  let after : State → State := fun s => match s.red.mode with
    | 0 => s.loseFn (s.fnOf l)
    | 1 => s.twinFails l
    | _ => s.splitFails l
  let t := after s
  (if run = 0 ∧ t.red.takeover = none then after (s.abortAll work.1) else t.abortAll work.1).notify s0

/-- `LIVENESS_MISSING` (R19, R418): a running leaf's pulse is missing. -/
def execLivenessMissing (l : LeafId) (s : State) : Res :=
  .next (if s.alive l = true then s.leafFails l 3 else s)

/-! The tie link (R18, R19). -/

/-- The tie link goes down while both pulses continue (R19). A standby whose promotion is already granted
keeps it: the leaf that it follows goes to claim 0 instead
(DEDUCED, log entry 28). -/
def State.tieDown (s : State) (l : LeafId) (cause : Nat) : State :=
  if s.variant.hasB = false ∨ s.red.tieUp = false ∨ s.alive .a = false ∨ s.alive .b = false ∨
      (s.leaf .a).stopped = true ∨ (s.leaf .b).stopped = true then s
  else
    let s := s.tieCut
    let s := { s with red := { s.red with tieFault := true } }
    let s := s.modEvent 0x0EF0 3 (le8 l.num ++ le8 cause)
    let s := s.dropEntry.dropSplit
    let o := s.red.of s.red.active.other
    if s.red.mode = 1 ∧ o.claim ≠ 0 ∧ (o.grant.map Grant.cause) ≠ some 7 then s.grant s.red.active.other 0 4 else s

/-- `TIE_FLIT_CRC_FAIL` (R18): a flit failed its CRC twice at a leaf. -/
def execTieFlitCrcFail (l : LeafId) (s : State) : Res := .next (s.tieDown l 0)

/-- `HEARTBEAT_MISSING` (R18): no heartbeat within one tick plus 4 µs. -/
def execHeartbeatMissing (l : LeafId) (s : State) : Res := .next (s.tieDown l 1)

/-- `TIE_LINK_UP` (R19): the link comes up between two running leaves
(DEDUCED, log entry 28). -/
def execTieLinkUp (s : State) : Res :=
  .next <|
    if s.variant.hasB = false ∨ s.red.tieUp = true ∨ s.alive .a = false ∨ s.alive .b = false then s
    else
      let fault := s.red.tieFault
      let s := { s with red := { s.red with tieUp := true, tieFault := false } }
      if fault then s.modEvent 0x0EF0 3 (le8 255 ++ le8 0) 255 2 else s

/-- `HEARTBEAT_RX` (R18): the peer's class-0 message becomes readable. -/
def execHeartbeatRx (l : LeafId) (s : State) : Res :=
  .next (if s.red.tieUp = true then s.modRed l fun r => { r with peer := (s.red.of l.other).sent } else s)

/-! The per-sample compare (R412 to R417). -/

/-- Withhold a sample from the coping, wherever it stands on its way there (R415). -/
def Leaf.holdCoping (x : Leaf) (p : Nat) : Leaf :=
  { x with cop := if x.cop.sample = p then { x.cop with held := true } else x.cop,
           copPrev := if x.copPrev.sample = p then { x.copPrev with held := true } else x.copPrev }

/-- Both leaves of a twin pair hold claims and see each other. -/
def State.guarded (s : State) : Bool :=
  s.twin && s.red.tieUp && s.alive .a && s.alive .b && s.red.a.claim != 0 && s.red.b.claim != 0

/-- Courses whose CRC differ, as a mask. -/
def Msg.courseMask (p q : Msg) : Nat :=
  ((List.range 8).map fun i => if p.crcs.getD i 0 = q.crcs.getD i 0 then 0 else 2 ^ i).sum

/-- The meridians of two messages lie more than 100 ns apart (R19, R414). -/
def Msg.apart (p q : Msg) : Bool := decide (p.stamp + 100 < q.stamp) || decide (q.stamp + 100 < p.stamp)

/-- Every finished packet of a leaf whose last sample is judged goes out or is discarded. -/
def State.releaseAll (s : State) (l : LeafId) : State :=
  let streams := (s.leaf l).scene.net.tx.map Prod.fst
  streams.foldl (fun s i =>
    (List.range (((s.leaf l).scene.tx i).ready.length)).foldl (fun s _ => s.releaseTx l false i) s) s

/-- What the verdict on a sample does to both leaves: the leaf to demote, and the kind that
`RED_DIVERGENCE` reports (R414, R432)
(DEDUCED, log entry 26). -/
def State.verdict (s : State) (own peer : Msg) (l : LeafId) : Option (LeafId × Nat × Nat) :=
  let differ := own.courseMask peer != 0 || own.other != peer.other || own.apart peer || own.sample == s.red.differAt
  let fa := if l = .a then own.flag else peer.flag
  let fb := if l = .a then peer.flag else own.flag
  if fa && fb then some (s.red.active.other, 3, 1)
  else if fa then some (.a, 1, 1)
  else if fb then some (.b, 2, 1)
  else if differ then some (s.red.active.other, 0, 2)
  else none

/-- The first leaf to judge a sample carries out what concerns the module: counts, events, grants
(R414, R416, R417, R420). -/
def State.judge (s : State) (own peer : Msg) (l : LeafId) : State :=
  let d := s.red.demote
  match s.verdict own peer l with
  | none => { s with red := { s.red with agreed := min 4294967295 (s.red.agreed + 1) } }
  | some (v, kind, cause) =>
    let s := { s with red := { s.red with
      agreed := 0, divergences := if kind = 0 then min 4294967295 (s.red.divergences + 1) else s.red.divergences } }
    if d = 0 ∨ s.guarded = false then s
    else
      let s := s.modEvent 0x0EF2 3
        (le32 (own.sample % 4294967296) ++ le8 kind ++ le8 (own.courseMask peer) ++ le8 (b2n (own.other != peer.other))) d
        (b2n (d == 2))
      let s := s.modRed v fun r => { r with withhold := true }
      if d ≠ 2 then s
      else
        let s := (s.grant v 0 cause).dropSwap
        if v = s.red.active then s.grant v.other s.red.activeClaim 7 else s

/-- `TWIN_VERDICT` (R414): a leaf with both messages of its latest sample reaches its verdict. -/
def execTwinVerdict (l : LeafId) (s : State) : Res :=
  .next <|
    let r := s.red.of l
    match r.own, r.peer with
    | some own, some peer =>
      if s.twin = false ∨ s.alive l = false ∨ s.red.tieUp = false ∨ own.sample ≠ peer.sample ∨ own.sample ≤ r.judged then s
      else
        let p := own.sample
        let first := decide ((s.red.of l.other).judged < p)
        let guarded := s.guarded
        let hold := guarded && s.red.demote != 0 && ((s.verdict own peer l).map fun v => v.1 == l) == some true
        let s := if first then s.judge own peer l else s
        let s := s.modRed l fun r => { r with judged := p, withhold := hold }
        let s := if hold then s.modLeaf l fun x => x.holdCoping p else s
        s.releaseAll l
    | _, _ => s

/-- `GATE_DEADLINE` (R414, R415): the peer's message is absent 1.5 µs after the drain; the leaf's own
self-flag decides. -/
def execGateDeadline (l : LeafId) (s : State) : Res :=
  .next <|
    let r := s.red.of l
    match r.own with
    | none => s
    | some own =>
      let absent := match r.peer with
        | none => true
        | some q => q.sample != own.sample
      if s.guarded = false ∨ own.sample ≤ r.judged ∨ absent = false then s
      else
        let hold := own.flag && s.red.demote != 0
        let s := { s with red := { s.red with agreed := 0, unchecked := min 4294967295 (s.red.unchecked + 1) } }
        let s := s.modRed l fun r => { r with judged := own.sample, withhold := hold }
        let s := if hold then s.modLeaf l fun x => x.holdCoping own.sample else s
        let s := s.reportOn .f2 l
          { code := 0x0EF6, subject := 4294967295, key := l.num, sev := 2, front := le8 l.num, count := 1 }
        s.releaseAll l

/-! Checkpoints and the journal (R421, R422). -/

/-- What a checkpoint holds of a scene: no store contents, meters or capture. -/
def Scene.checkpoint (x : Scene) : Scene :=
  { x with
    vox := { x.vox with waves := [] },
    clips := { x.clips with clips := [], players := [] },
    route := { x.route with meters := { set := x.route.meters.set, next := x.route.meters.next } },
    meas := { x.meas with run := none },
    net := { x.net with rings := tmap (fun r => { r with ready := [] }) x.net.rings } }

/-- `CHECKPOINT_SEND` (R421): a serving leaf takes a checkpoint at a meridian and sends it. -/
def execCheckpointSend (l : LeafId) (s : State) : Res :=
  .next <|
    let o := l.other
    if (s.red.mode = 2 ∨ s.red.split.isSome = true) ∧ s.red.tieUp = true ∧ s.alive l = true ∧ s.alive o = true ∧
        (s.red.of l).lost = false then
      let x := s.leaf l
      s.modRed o fun r =>
        { r with transit := some (x.scene.checkpoint, x.guest.map Scene.checkpoint), ckptClk := x.clk,
                 journal := r.journal.map fun (j : Journal) => { j with since := false } }
    else s

/-- `JOURNAL_ENTRY` (R422): a leaf acknowledges the oldest entry it has not acknowledged. -/
def execJournalEntry (l : LeafId) (s : State) : Res :=
  .next (s.modRed l fun r =>
    let k := (r.journal.takeWhile Journal.acked).length
    { r with journal := r.journal.zipIdx.map fun (p : Journal × Nat) => if p.2 = k then { p.1 with acked := true } else p.1 })

/-! Rebuilding a scene (R253, R283, R311, R409, R423, R424). -/

/-- A scene that starts from a checkpoint at sample `n`: zero state, streams and trackings begin
afresh. -/
def Scene.cold (x : Scene) (n : Nat) : Scene :=
  let x := x.zero n
  let tr := x.meas.track
  { x with
    net := { x.net with
      rx := tmap (fun (q : RxStream) => { on := q.on, from_ := if q.set.domain = 0 then n else 0, set := q.set }) x.net.rx,
      tx := tmap (fun t => { on := t.on, set := t.next.getD t.set }) x.net.tx },
    meas := { x.meas with track := { tr with due := [], toldAt := none, lastValid := n } },
    uc := { x.uc with atts := tmap (fun a =>
      ({ a with from_ := 0, flip := none, active := if a.flip.isSome then 1 - a.active else a.active } : UcAtt)) x.uc.atts } }

/-- The notes that sound and whose release has not begun, in start order, as note-on events (R253,
R409). -/
def Scene.sounding (x : Scene) : List NoteEv :=
  let vs := x.vox.voices.map Prod.snd ++ x.vox.shadows.map fun q => q.2.v
  let vs := sortBy (fun a b => decide (a.start < b.start) || (a.start == b.start && decide (a.seq ≤ b.seq)))
    (vs.filter fun v => v.fade.isNone && !v.released)
  vs.map fun v => { group := v.group, type := 0, noteId := v.noteId, key := v.key, value := v.vel }

/-- Start notes again under R247. -/
def Scene.renote (x : Scene) (c : Ctx) (fs : Nat) (notes : List NoteEv) : Scene × List NoteRep :=
  let x := { x with vox := { x.vox with voices := [], shadows := [] } }
  notes.foldl (fun a e => let r := noteOn a.1 c fs e; (r.1, a.2 ++ r.2)) (x, [])

/-- Place a lost scene's objects into free slots (R137): the scene, and whether `OBJ_FOLDED` is due. -/
def Scene.fitObjects (x : Scene) (free rate t n : Nat) : Scene × Bool :=
  let clear : Scene := { x with objs := { x.objs with clusters := [] } }
  let x := clear.modObjs clear.enabled fun _ o => { o with run := { o.run with muted := false, places := [] } }
  let en := x.enabled
  let limit := min (x.slots rate) free
  let bed : Nat → Bool := fun i => (x.obj i).run.bed.isSome
  let above : Nat → Nat → Bool := fun a b => (bed a && !bed b) || (bed a == bed b && x.above a b)
  if en.length ≤ limit then (x, false)
  else
    let r := if x.objs.foldMode = 2 ∧ 0 < limit then foldLoop x t n limit (fun _ => true) above (en.length + 1) en [] []
      else (en, [])
    let keep := (sortBy above r.1).take (limit - r.2.length)
    let y := x.applyFold t n r.2 en
    (y.modObjs (r.1.filter fun i => !keep.contains i) fun _ o => { o with run := { o.run with muted := true } }, true)

/-- Mute wavefront objects, the lowest-ranked first, until the pairs fit (R424). -/
def Leaf.mutePairs : List Nat → Leaf → Leaf
  | [], x => x
  | i :: r, x =>
    if x.pairUse ≤ pairCap x.clk.dom.rate then x
    else Leaf.mutePairs r (x.modScene fun sc => sc.modObj i fun o => { o with run := { o.run with muted := true } })

/-- Sizes of the lost scene's pools in the survivor's spare voices (R253)
(DEDUCED, log entry 25). -/
def fitPools (sizes : List Nat) (spare : Nat) : List Nat :=
  let total := sizes.sum
  if total ≤ spare then sizes
  else
    let cut := sizes.map fun k => k * spare / total
    (cut.zip sizes).foldl (fun (a : List Nat × Nat) p =>
      if p.2 ≠ 0 ∧ 0 < a.2 then (a.1 ++ [p.1 + 1], a.2 - 1) else (a.1 ++ [p.1], a.2)) ([], spare - cut.sum) |>.1

/-- Banks that fit the FIR line, in bank order; the feeds of the others run as pass-through. Answers
how many were left out (R424). -/
def Scene.fitBanks (x : Scene) (budget : Nat) : Scene × Nat :=
  let x := { x with out := { x.out with banks := (tmap Bank.unload x.out.banks).filter fun p => p.2.state != 0 } }
  let r := x.out.banks.foldl (fun (a : List Nat × Nat) p =>
    let taps := x.bankTaps p.1
    if a.2 + taps ≤ budget then (a.1, a.2 + taps) else (a.1 ++ [p.1], a.2)) ([], 0)
  let drop := r.1
  let feeds := (x.out.feeds.filter fun p => drop.contains p.2.run.path.bank).map Prod.fst
  let y := x.modFeeds feeds fun _ f =>
    { f with run := { f.run with path := (passPath x.out.e).startFrom {} f.set.align, next := none } }
  let y := { y with out := { y.out with banks := y.out.banks.filter fun p => !drop.contains p.1 } }
  ({ y with out := { y.out with q := min y.out.q (budget - min budget y.installed) } }, drop.length)

/-- Attachments that fit, in attachment order (R311): the scene and `UC_NOT_RESTORED` events. -/
def Leaf.fitMicrocode (x : Leaf) (v : Variant) : Leaf × List Ev :=
  let sc := x.scene
  let mine : Scene → List (UcAtt × UcProg) := fun g =>
    (g.uc.atts.filter fun q => q.2.state != 0).map fun q => (q.2, g.prog q.2.program)
  let other := (x.guest.map mine).getD []
  let words : Scene → Nat := fun g => (g.uc.progs.map fun p => p.2.code.length).sum
  let room := 8192 - (x.guest.map words).getD 0
  let step : List (Nat × UcAtt) × List Nat × List Ev → Nat × UcAtt → List (Nat × UcAtt) × List Nat × List Ev := fun a q =>
    let p := q.2.program
    let progs := if a.2.1.contains p then a.2.1 else a.2.1 ++ [p]
    let used := (progs.map fun i => (sc.prog i).code.length).sum
    let ev : Nat → Ev := fun cause => { code := 0x09F3, sev := 2, subject := q.1, payload := le8 cause }
    if room < used then (a.1, a.2.1, a.2.2 ++ [ev 0])
    else match ucMisfit v x.clk.dom.rate (other ++ (a.1 ++ [q]).map fun k => (k.2, sc.prog k.2.program)) with
      | some cause => (a.1, progs, a.2.2 ++ [ev cause])
      | none => (a.1 ++ [q], progs, a.2.2)
  let r := (sc.uc.atts.filter fun q => q.2.state != 0).foldl step ([], [], [])
  let rest := (sc.uc.progs.map Prod.fst).foldl (fun ps i =>
    if ps.contains i then ps
    else if ((ps ++ [i]).map fun k => (sc.prog k).code.length).sum ≤ room then ps ++ [i] else ps) r.2.1
  (x.modScene fun g => { g with uc := { g.uc with atts := r.1, progs := g.uc.progs.filter fun p => rest.contains p.1 } }, r.2.2)

/-- The side domains of a lost scene take free ones of the survivor (R424): new numbers by old, and the
leaf with the domains started. -/
def Leaf.fitDomains (x : Leaf) (old : Clk) : Leaf × (Nat → Option Nat) :=
  let was : Nat → Domain := fun d => if d = 1 then old.side1 else old.side2
  let free : Nat → Leaf → Bool := fun d y => (y.domain d).rate == 0
  let step : Leaf × List (Nat × Nat) → Nat → Leaf × List (Nat × Nat) := fun a d =>
    if (was d).rate = 0 ∨ x.scene.sideUsed d = false then a
    else match [1, 2].find? fun k => free k a.1 with
      | none => a
      | some k =>
        (a.1.modDomain k fun q => q.start (was d).rate (was d).tb (a.1.tb (was d).tb).t, a.2 ++ [(d, k)])
  let r := [1, 2].foldl step (x, [])
  (r.1, fun d => if d = 0 then some 0 else (r.2.find? fun p => p.1 == d).map Prod.snd)

/-- Streams and bridges move to the domains found; those without one are disabled and counted. -/
def Scene.moveDomains (x : Scene) (dest : Nat → Option Nat) : Scene × Nat :=
  let left := (x.net.rx.filter fun p => p.2.on && (dest p.2.set.domain).isNone).length +
    (x.net.tx.filter fun p => p.2.on && (dest p.2.set.domain).isNone).length +
    (x.route.bridges.filter fun p => p.2.op != 0 && (dest p.2.domain).isNone).length
  ({ x with
     net := { x.net with
       rx := tmap (fun (q : RxStream) => match dest q.set.domain with
         | some d => { q with set := { q.set with domain := d } }
         | none => { q with on := false }) x.net.rx,
       tx := tmap (fun (t : TxStream) => match dest t.set.domain with
         | some d => { t with set := { t.set with domain := d } }
         | none => { t with on := false }) x.net.tx },
     route := { x.route with bridges := tmap (fun (b : Bridge) =>
         if b.op = 0 then b else match dest b.domain with
         | some d => { b with domain := d }
         | none => { b with op := 0 }) x.route.bridges } }, left)

/-- Fit the lost scene, standing in the place of the leaf's own, into what the leaf's own scene leaves
unused (R424). Answers the events, the number of muted objects and of things not restored, and the
reports of notes started again. -/
def Leaf.fitLost (x : Leaf) (v : Variant) (old : Clk) : Leaf × List Ev × Nat × Nat × List NoteRep :=
  let rate := x.clk.dom.rate
  let fs := x.fs
  let n := x.next
  let units := (x.guest.map Scene.units).getD 0
  let ob := x.scene.fitObjects (objCap rate - units) rate x.nextTns n
  let x := { x with scene := ob.1 }
  let wave := (x.scene.enabled.filter fun i => (x.scene.obj i).rend.mode == 2)
  let x := Leaf.mutePairs ((sortBy x.scene.above wave).reverse) x
  let notes := x.scene.sounding
  let sizes := (List.range 16).map fun p => (x.scene.pool p).size
  let spare := 1024 - (x.guest.map fun g => ((List.range 16).map fun p => (g.pool p).size).sum).getD 0
  let cut := fitPools sizes spare
  let sc := (List.range 16).foldl (fun sc p => sc.modPool p fun q => { q with size := cut.getD p 0 }) x.scene
  let nr := sc.renote { n := n, prep := true } fs notes
  let shrunk := ((List.range 16).filter fun p => cut.getD p 0 != sizes.getD p 0).map fun p =>
    let mine := (notes.filter fun e => (sc.vgroup e.group).pool == p).length
    let dropped := (nr.1.pool p).dropped + 4294967296 - (sc.pool p).dropped
    let dropped := dropped % 4294967296
    ({ code := 0x06F3, sev := 2, subject := p,
       payload := le16 (sizes.getD p 0) ++ le16 (cut.getD p 0) ++ le16 (mine - dropped) ++ le16 dropped } : Ev)
  let bk := nr.1.fitBanks x.tapBudget
  let uc := ({ x with scene := bk.1 } : Leaf).fitMicrocode v
  let dm := uc.1.fitDomains old
  let mv := dm.1.scene.moveDomains dm.2
  let x := { dm.1 with scene := mv.1.recount dm.1.clk.dom }
  let muted := (x.scene.enabled.filter fun i => (x.scene.obj i).run.muted).length
  let folded : List Ev := if ob.2 then
      [{ code := 0x02F0, sev := 1, payload := x.scene.foldedPayload rate 5, autonomy := x.scene.objs.foldMode, flags := 1 }] else []
  (x, folded ++ shrunk ++ uc.2, muted, bk.2 + mv.2, nr.2)

/-- A leaf's streams leave every group that they hold. -/
def State.leaveGroups (s : State) (l : LeafId) : State :=
  (s.leaf l).scene.net.rx.foldl (fun s p => [0, 1].foldl (fun s leg => s.setJoined l p.1 leg []) s) s

/-- The egress streams of a leaf ask for the destinations of the legs that the mode gives it (R337, R338). -/
def State.askLegs (s : State) (l : LeafId) : State :=
  ((s.leaf l).scene.net.tx.filter fun p => p.2.on).foldl (fun s p => s.askDests l p.1 (p.2.next.getD p.2.set)) s

/-- The restored scene's streams join their groups and resolve their destinations from the survivor's
ports. -/
def State.rejoin (s : State) (l : LeafId) : State :=
  let bare : RxStream → RxStream := fun q => { q with leg0 := { q.leg0 with joined := [] }, leg1 := { q.leg1 with joined := [] } }
  let s := s.modLeaf l fun x => x.modScene fun sc =>
    { sc with net := { sc.net with rx := tmap bare sc.net.rx, tx := tmap (fun t => { t with asks := [], macs := [] }) sc.net.tx } }
  (((s.leaf l).scene.net.rx.filter fun p => p.2.on).foldl (fun s p => s.settleGroups l p.1) s).askLegs l

/-- Apply a journalled position commit to a function's scene
(DEDUCED, log entry 24). -/
def State.replayCommit (s : State) (j : Journal) : State :=
  (s.servers j.cmd.fn).foldl (fun s p =>
    let x := s.leaf p.1
    let x := if p.2 then x.swapGuest else x
    let c : Ctx := { leaf := p.1, fn := j.cmd.fn, n := x.next }
    let x := (j.recs.foldl (fun acc q => applyWindowRecord c j.buf q.2 j.at_ acc q.1) (x, [])).1
    s.setLeaf p.1 (if p.2 then x.swapGuest else x)) s

/-- A command that its function still has to carry out or to transfer. -/
def Mail.inFlight (m : Mail) (acc : Nat) : Bool :=
  (m.accepted.any fun c => c.acc == acc) || (m.queued.any fun p => p.cmd.acc == acc) || m.dma.any fun j => j.cmd.acc == acc

/-- Replay the journal without posting completions: position commits and the commands that are not
still in flight. Stores are not carried, so wave and clip loads are left out, and so is a calibration
run (R421, R422)
(DEDUCED, log entry 24). -/
def State.replayJournal (rerun : Cmd → List Byte → State → State) (s : State) (js : List Journal) : State :=
  js.foldl (fun s j =>
    let f := j.cmd.fn
    let m := (s.fn f).mail
    if j.cmd.op = 0 then s.replayCommit j
    else if m.inFlight j.cmd.acc || [0x0502, 0x0605, 0x0701].contains j.cmd.op then s
    else
      let s := s.modMail f fun m => { m with floor := m.accNo }
      let s := rerun j.cmd j.data s
      s.modMail f fun q => { q with floor := m.floor }) s

/-- Complete the commands of the lost scene that nothing completes any more (R39)
(DEDUCED, log entry 24). -/
def State.finishLost (s : State) (l : LeafId) (cmds : List Cmd) : State :=
  let keep : Cmd → Bool := fun c => cmds.any fun d => d.fn == c.fn && d.acc == c.acc
  let s := s.modLeaf l fun x => x.modScene fun sc =>
    { sc with vox := { sc.vox with cmds := sc.vox.cmds.filter fun k => keep k.cmd },
              route := { sc.route with waits := sc.route.waits.filter fun w => keep w.cmd } }
  let live := (s.leaf l).scene.unposted
  let f := s.fnOf l
  (cmds.filter fun c => c.fn == f && !(live.any fun d => d.acc == c.acc)).foldl (fun s c =>
    s.final c true (if c.op = 0x0502 then sAborted else sOk) 0 0) s

/-- The survivor has rebuilt the lost scene and starts it (R137, R253, R283, R311, R423, R424)
(DEDUCED, log entry 24; DEDUCED, log entry 25). -/
def State.splitRestore (rerun : Cmd → List Byte → State → State) (l : LeafId) (s0 : State) : State :=
  match s0.red.takeover with
  | none => s0
  | some t =>
    if s0.red.mode ≠ 2 ∨ t.lost ≠ l.other ∨ s0.alive l = false then s0
    else
      let x := s0.leaf l
      let r := s0.red.of l
      let n := x.next
      let s := s0.setLeaf l { x with
        guest := some t.image, scene := if t.both then r.ckptGuest.getD x.scene else x.scene }
      let s := { s with red := { s.red with takeover := none } }
      let s := s.modRed l fun r => { r with lost := r.lost && !t.both, journal := [], ckpt := none, ckptGuest := none, transit := none }
      let cold : State → State := fun s => s.leafStep l fun x =>
        let e := endSwaps { leaf := l, n := n, prep := true } x
        { e with x := e.x.modScene fun sc => sc.cold n }
      let notes : State → State := fun s =>
        let x := s.leaf l
        let q := x.scene.renote { leaf := l, n := n, prep := true } x.fs x.scene.sounding
        (s.setLeaf l { x with scene := q.1 }).noteReports l q.2
      let s := (s.replayJournal rerun r.journal).asGuest l cold
      let s := if t.both then ((notes (cold s)).finishLost l t.cmds).rejoin l else s
      let fit := ((s.leaf l).swapGuest).fitLost s.variant r.ckptClk
      let s := s.asGuest l fun s =>
        let s := s.leafStep l fun x =>
          let q := x.fitLost s.variant r.ckptClk
          { x := q.1, evs := q.2.1 }
        ((s.noteReports l fit.2.2.2.2).finishLost l t.cmds).rejoin l
      let y := s.leaf l
      let s := (s.recount .f0).recount .f1
      (s.takeoverEvent t 1 ((y.nextTns - t.start) / 1000) fit.2.2.1 fit.2.2.2.1).notify s0

/-! Twin entry and restore (R408, R409, R428). -/

/-- The end of the copy of a twin entry or restore: the joint restart is set (R408). -/
def execTwinCopyDone (s : State) : Res :=
  .next <|
    match s.red.entry with
    | none => s
    | some e =>
      if e.copied || e.op == 2 then s
      else
        let x := s.leaf e.source
        let now := x.now
        let late := e.at_ != 0 && decide (e.at_ ≤ now)
        let time := if e.at_ = 0 ∨ late = true then now + 2000000 else e.at_
        let d := s.fresh "checkpointBytes"
        let bytes := d.1 % 50331649 + (if e.copyStores then x.scene.waveBytes + x.scene.clipBytes else 0)
        let s := d.2
        let first := x.next + (countOf x.fs time - x.clk.dom.nextCount)
        let s := { s with red := { s.red with entry := some { e with copied := true, late := late, bytes := bytes } } }
        if x.fs = 0 then s
        else s.modLeaf e.source fun x =>
          { x with clk := { x.clk with restart := some { first := first, rate := x.clk.dom.rate, tb := x.clk.dom.tb, joint := true } } }

/-- The scene of a joint restart at its first new sample: zero state, while clip players keep theirs
and sounding notes start again (R409). -/
def Scene.jointZero (x : Scene) (c : Ctx) (fs : Nat) : Scene × List NoteRep :=
  let notes := x.sounding
  let y := x.zero c.n
  ({ y with clips := { y.clips with players := x.clips.players } } : Scene).renote c fs notes

/-- `TWIN_RESTART` (R408, R409): after a silent interval of `cycles` render cycles both leaves start at
the same sample, in lockstep from then on. -/
def execTwinRestart (cycles : Nat) (s0 : State) : Res :=
  .next <|
    match s0.red.entry with
    | none => s0
    | some e =>
      let src := e.source
      let j := src.other
      let x := s0.leaf src
      let ready := match x.clk.restart with
        | some r => r.joint && r.silent
        | none => x.clk.dom.rate == 0
      if !e.copied || !ready || e.op == 2 then s0
      else
        let n := x.next
        let c : Ctx := { leaf := src, n := n, prep := true }
        let s := s0.leafStep src fun x => endSwaps c x
        let x := s.leaf src
        let q := x.scene.jointZero c x.fs
        let clk := { x.clk with restart := none, fadeIn := if x.fs = 0 then none else some n }
        let s := ((s.setLeaf src { x with scene := q.1, clk := clk }).noteReports src q.2).leaveGroups j
        let s := s.modLeaf j fun y =>
          let y := { y with scene := q.1, clk := { y.clk with
            dom := clk.dom, side1 := clk.side1, side2 := clk.side2, tbs := clk.tbs, restart := none, fadeIn := clk.fadeIn } }
          let y := { y with cop := { sample := x.cop.sample }, copPrev := { sample := x.copPrev.sample } }
          if x.fs = 0 then y else y.audioFamily (rateFamily clk.dom.rate)
        let was := s.red.mode
        let s := { s with red := { s.red with entry := none, agreed := 0 } }
        let fresh : RedLeaf → RedLeaf := fun r =>
          { r with lost := false, grant := none, own := none, sent := none, peer := none, withhold := false, judged := n - 1 }
        let s := (s.modRed .a fresh).modRed .b fresh
        let cause := if e.op = 0 then 0 else 6
        let s := (s.restoreClaim src s.red.activeClaim cause e.cmd.tag).restoreClaim j s.red.standbyClaim cause e.cmd.tag
        let s := { s with red := { s.red with mode := 1, active := src } }
        let s := (if was = 1 then s else s.loseFn .f1).rejoin j
        let status := if e.late then sLate else sOk
        let s := s.final e.cmd false status 0 (s.leaf src).nextTns
        (s.syncEvent e.op status (cyclesUs cycles) e.bytes e.cmd.tag).notify s0 e.cmd.tag

/-! Split entry and the return of a leaf in split mode (R406, R421, R428). -/

/-- The survivor hands a scene back: at one meridian it stops rendering the scene that the leaf once
served, and the leaf cold-starts it
(DEDUCED, log entry 25). -/
def State.handBack (s0 : State) (e : Entry) (l : LeafId) : State :=
  let o := l.other
  match (s0.leaf o).guest with
  | none => s0
  | some g =>
    let x := s0.leaf o
    let s := s0.modLeaf o fun x => { x with guest := none }
    let s := s.modLeaf l fun y =>
      let own := y.scene
      let sc := g.checkpoint
      let sc := { sc with vox := { sc.vox with waves := own.vox.waves }, clips := own.clips }
      let y := { y with scene := sc, clk := { y.clk with
        dom := { x.clk.dom with sample := y.clk.dom.sample }, tbs := x.clk.tbs } }
      if x.fs = 0 then y else y.audioFamily (rateFamily x.clk.dom.rate)
    let s := { s with red := { s.red with entry := none } }
    let s := s.modRed l fun r => { r with lost := false }
    let n := (s.leaf l).next
    let s := s.leafStep l fun y =>
      let r := endSwaps { leaf := l, n := n, prep := true } y
      { r with x := r.x.modScene fun sc => (sc.cold n).recount r.x.clk.dom }
    let y := s.leaf l
    let q := y.scene.renote { leaf := l, n := n, prep := true } y.fs y.scene.sounding
    let s := ((s.setLeaf l { y with scene := q.1 }).noteReports l q.2).rejoin l
    let mine := decide ((s.red.sceneA == l) = (s.red.copingScene == 0))
    let tag := e.cmd.tag
    let s := s.setClaim o 0 6 tag
    let s := (s.setClaim l (if mine then s.red.activeClaim else s.red.standbyClaim) 6 tag).setClaim o
      (if mine then s.red.standbyClaim else s.red.activeClaim) 6 tag
    let d := s.fresh "handBackSilence"
    let b := d.2.fresh "checkpointBytes"
    let s := (b.2.recount .f0).recount .f1
    let s := s.final e.cmd false sOk 0 0
    (s.syncEvent 2 sOk (d.1 % 40001) (b.1 % 50331649) tag).notify s0 tag

/-- `CHECKPOINT_RECEIVED` (R15, R406, R421, R428): a complete checkpoint has reached a leaf over the tie
link. -/
def execCheckpointReceived (l : LeafId) (s0 : State) : Res :=
  .next <|
    match (s0.red.of l).transit with
    | none => s0
    | some k =>
      if s0.red.tieUp = false then s0 else
      let s := s0.modRed l fun r =>
        { r with ckpt := some k.1, ckptGuest := k.2, ckptAt := (s0.leaf l).now, transit := none,
                 journal := r.journal.filter Journal.since }
      let s := match s.red.split with
        | none => s
        | some c =>
          if (s.red.of l.other).ckpt.isNone then s
          else
            let s := { s with red := { s.red with split := none, mode := 2 } }
            let co := if s.red.copingScene = 0 then s.red.sceneA else s.red.sceneA.other
            let n : LeafId → Nat := fun k => if k = co then s.red.activeClaim else s.red.standbyClaim
            (s.moveClaims (n .a) (n .b) 0 c.tag).final c false sOk 0 0
      let s := match s.red.entry with
        | none => s
        | some e => if e.op = 2 ∧ e.source = l.other then s.handBack e l else s
      s.notify s0

end Sys2Proof.Machine
end

