-- ==== Sys2Proof/Machine/Sched.lean ====
section
/-! DEFINITION. The hardware scheduler of the control cores (chapter 19): threads, ready lists, next
slots, the delay list, event queues and their trace records. The firmware's own threads and their work
are the effects of the commands themselves. -/

namespace Sys2Proof.Machine

/-- A context that is not listed: free. -/
def thread0 : Thread := {}
/-- A core that is not listed: idle. -/
def core0 : SchCore := {}
/-- A queue that is not listed: empty. -/
def queue0 : SchQueue := {}
/-- A thread context
(DESIGN CHOICE, log entry 31). -/
def Sched.thread (s : Sched) (t : Nat) : Thread := tget s.threads t thread0
/-- A core. -/
def Sched.core (s : Sched) (c : Nat) : SchCore := tget s.cores c core0
/-- An event queue. -/
def Sched.que (s : Sched) (q : Nat) : SchQueue := tget s.queues q queue0
/-- The ready list of a priority. -/
def Sched.list (s : Sched) (p : Nat) : List Nat := tget s.ready p []

/-- A change of the scheduler of a leaf. -/
def Leaf.modSched (x : Leaf) (f : Sched → Sched) : Leaf := { x with sched := f x.sched }
/-- A change of a context. -/
def Leaf.modThread (x : Leaf) (t : Nat) (f : Thread → Thread) : Leaf :=
  x.modSched fun s => { s with threads := tmod s.threads t thread0 f }
/-- A change of a core. -/
def Leaf.modCore (x : Leaf) (c : Nat) (f : SchCore → SchCore) : Leaf :=
  x.modSched fun s => { s with cores := tmod s.cores c core0 f }
/-- A change of an event queue. -/
def Leaf.modQue (x : Leaf) (q : Nat) (f : SchQueue → SchQueue) : Leaf :=
  x.modSched fun s => { s with queues := tmod s.queues q queue0 f }

/-- A trace record of a thread. -/
def Leaf.traceT (x : Leaf) (kind core t other queue arg depth : Nat) : Leaf :=
  x.trace { kind := kind, core := core, thread := t, prio := (x.sched.thread t).prio, other := other,
            otherPrio := if other = 255 then 0 else (x.sched.thread other).prio, queue := queue, arg := arg, depth := depth }

/-- Put a thread at the tail of its priority's ready list (R472). -/
def Leaf.enqueue (x : Leaf) (t : Nat) : Leaf :=
  let p := (x.sched.thread t).prio
  (x.modThread t fun h => { h with state := 1 }).modSched fun s => { s with ready := tset s.ready p (s.list p ++ [t]) [] }

/-- Take a thread out of the ready lists. -/
def Leaf.unready (x : Leaf) (t : Nat) : Leaf :=
  let p := (x.sched.thread t).prio
  x.modSched fun s => { s with ready := tset s.ready p ((s.list p).filter (· ≠ t)) [] }

/-- The ready threads in dispatch order: highest priority first, each list from its head (R472). -/
def Sched.order (s : Sched) : List Nat := ((List.range 32).reverse).flatMap fun p => s.list p

/-- A thread may run on a core (R474). -/
def Sched.mayRun (s : Sched) (t core : Nat) : Bool := match (s.thread t).only with
  | none => true
  | some c => c == core

/-- The thread that a core would dispatch next. -/
def Sched.nextFor (s : Sched) (core : Nat) : Option Nat := s.order.find? fun t => s.mayRun t core

/-- A core starts a ready thread. The switch breaks affinity when the thread last ran elsewhere (R473)
(DESIGN CHOICE, log entry 31). -/
def Leaf.dispatch (x : Leaf) (core t : Nat) : Leaf :=
  let h := x.sched.thread t
  let x := x.unready t
  let x := if h.last ≠ 255 ∧ h.last ≠ core then x.traceT 12 core t 255 65535 0 0 else x
  let x := (x.modThread t fun h => { h with state := 2, last := core }).modCore core fun c => { c with run := some t }
  x.traceT 1 core t 255 65535 0 0

/-- Every idle core takes the head of the highest non-empty list, the lowest-numbered core first (R472,
R479); then the next slots hold what each core would dispatch next (R473). -/
def Leaf.fillCores (x : Leaf) : Leaf :=
  let x := (List.range 8).foldl (fun (x : Leaf) (c : Nat) =>
    match (x.sched.core c).run, x.sched.nextFor c with
    | none, some t => x.dispatch c t
    | _, _ => x) x
  (List.range 8).foldl (fun (x : Leaf) (c : Nat) =>
    let n := x.sched.nextFor c
    x.modCore c fun k => { k with next := n }) x

/-- A thread leaves its core. -/
def Leaf.vacate (x : Leaf) (core : Nat) : Leaf := x.modCore core fun c => { c with run := none }

/-- The context becomes free (R472). -/
def Leaf.freeThread (x : Leaf) (t : Nat) : Leaf := x.modSched fun s => { s with threads := tdel s.threads t }

/-- A thread cancelled while it ran ends at its next block or preemption point (R479). -/
def Leaf.endIfCancelled (x : Leaf) (t : Nat) (go : Leaf → Leaf) : Leaf :=
  if (x.sched.thread t).cancel then x.freeThread t else go x

/-- The core that a newly ready thread preempts (R472): the core that last ran it if that runs a lower
priority, otherwise the core running the lowest priority, the lowest-numbered among equals. -/
def Sched.victim (s : Sched) (t : Nat) : Option Nat :=
  let h := s.thread t
  let prioOf : Nat → Option Nat := fun c => (s.core c).run.map fun r => (s.thread r).prio
  let lower : Nat → Bool := fun c => s.mayRun t c && (match prioOf c with
    | none => false
    | some p => decide (p < h.prio))
  if h.last < 8 ∧ lower h.last = true then some h.last
  else
    (List.range 8).foldl (fun best c =>
      if !lower c then best
      else match best with
        | none => some c
        | some b => if (prioOf c).getD 32 < (prioOf b).getD 32 then some c else some b) none

/-- A thread becomes ready: it joins its list, idle cores take it, or it preempts (R472). -/
def Leaf.makeReady (x : Leaf) (t : Nat) : Leaf :=
  let x := (x.traceT 0 255 t 255 65535 0 0).enqueue t
  let x := x.fillCores
  if (x.sched.thread t).state ≠ 1 then x
  else match x.sched.victim t with
    | none => x
    | some c =>
      match (x.sched.core c).run with
      | none => x
      | some old =>
        let x := (x.traceT 2 c t old 65535 0 0).vacate c
        let x := x.endIfCancelled old fun x => x.enqueue old
        (x.dispatch c t).fillCores

/-- What firmware does at a decision: the thread of a core blocks on a queue, sleeps or exits, or a
thread is cancelled (R472, R476, R477, R479). -/
def Leaf.act (x : Leaf) (a : SchedAct) : Leaf :=
  let leave : Nat → (Nat → Leaf → Leaf) → Leaf := fun core go =>
    match (x.sched.core core).run with
    | none => x
    | some t => ((x.vacate core).endIfCancelled t (go t)).fillCores
  match a with
  | .block core q =>
    leave core fun t x =>
      let x := x.traceT 3 core t 255 q 0 (x.sched.que q).entries.length
      match (x.sched.que q).entries with
      | _ :: rest =>
        let held := (x.sched.que q).held
        let x := x.modQue q fun k => { k with entries := rest ++ held.take 1, held := held.drop 1 }
        let x := if held.length = 1 then x.traceT 11 255 t 255 q 0 (rest.length + 1) else x
        x.makeReady t
      | [] => x.modThread t fun h => { h with state := 3, queue := q }
  | .sleep core wake =>
    leave core fun t x =>
      (x.traceT 4 core t 255 65535 wake 0).modThread t fun h => { h with state := 4, wake := wake }
  | .leave core => leave core fun t x => (x.traceT 7 core t 255 65535 0 0).freeThread t
  | .cancel t =>
    let h := x.sched.thread t
    let x := x.traceT 6 (if h.state = 2 then h.last else 255) t 255 65535 0 0
    if h.state = 2 then x.modThread t fun h => { h with cancel := true }
    else (x.unready t).freeThread t

/-- Firmware actions at one decision
(DESIGN CHOICE, log entry 31). -/
def Leaf.acts (x : Leaf) (as : List SchedAct) : Leaf := as.foldl Leaf.act x

/-- `THREAD_READY` (R472, R479): after the firmware's actions a free or blocked thread becomes ready at
a priority, or, made ready and cancelled in one cycle, is freed without appearing in a ready list
(DESIGN CHOICE, log entry 31). -/
def execThreadReady (l : LeafId) (t prio : Nat) (only : Option Nat) (cancelled : Bool) (as : List SchedAct) (s : State) : Res :=
  .next <| s.modLeaf l fun x =>
    let x := x.acts as
    let st := (x.sched.thread t).state
    if 256 ≤ t ∨ 32 ≤ prio ∨ st = 1 ∨ st = 2 then x
    else
      let x := x.modThread t fun h => { h with prio := prio, only := only, state := 3 }
      if cancelled then ((x.traceT 0 255 t 255 65535 0 0).traceT 6 255 t 255 65535 0 0).freeThread t
      else x.makeReady t

/-- `TIMESLICE_EXPIRE` (R472): threads of equal priority on a core share it in quanta of 100 µs
(DESIGN CHOICE, log entry 31). -/
def execTimesliceExpire (l : LeafId) (core : Nat) (s : State) : Res :=
  .next <| s.modLeaf l fun x =>
    match (x.sched.core core).run with
    | none => x
    | some t =>
      let p := (x.sched.thread t).prio
      match (x.sched.list p).find? fun u => x.sched.mayRun u core with
      | none => x
      | some u =>
        let x := (x.traceT 2 core u t 65535 0 0).vacate core
        let x := x.endIfCancelled t fun x => x.enqueue t
        (x.dispatch core u).fillCores

/-- `DELAY_TICK` (R476): the 10 µs tick; threads whose wake time has come become ready in ascending
order of context number. -/
def execDelayTick (l : LeafId) (as : List SchedAct) (s : State) : Res :=
  .next <| s.modLeaf l fun x =>
    let x := (x.acts as).modSched fun k => { k with tick := k.tick + 1 }
    let due := (x.sched.threads.filter fun p => p.2.state == 4 && decide (p.2.wake ≤ x.sched.tick)).map fun p => p.1
    due.foldl (fun (x : Leaf) (t : Nat) => ((x.traceT 5 255 t 255 65535 (x.sched.thread t).wake 0).makeReady t)) x

/-- `EVENT_POST` (R477): a post readies the thread blocked on the queue, or waits in the queue. A full
queue back-pressures a hardware producer and refuses a software post. -/
def execEventPost (l : LeafId) (q word : Nat) (hw : Bool) (as : List SchedAct) (s : State) : Res :=
  .next <| s.modLeaf l fun x =>
    let x := x.acts as
    if 128 ≤ q then x else
      let k := x.sched.que q
      match x.sched.threads.find? fun p => p.2.state == 3 && p.2.queue == q with
      | some (t, _) =>
        let x := x.modThread t fun h => { h with queue := 65535 }
        (x.traceT 8 255 t 255 q word k.entries.length).makeReady t
      | none =>
        if k.entries.length < 64 then
          (x.modQue q fun k => { k with entries := k.entries ++ [word] }).traceT 8 255 0 255 q word (k.entries.length + 1)
        else if hw then
          let x := if k.held.isEmpty then x.traceT 10 255 0 255 q word 64 else x
          x.modQue q fun k => { k with held := k.held ++ [word] }
        else (x.modQue q fun k => { k with refused := k.refused + 1 }).traceT 9 255 0 255 q word 64

/-- `SCHED_QUEUE_FULL` (R477, R481): a refusal has persisted for 1 ms on a queue. -/
def execSchedQueueFull (l : LeafId) (q : Nat) (s : State) : Res :=
  .next <|
    let x := s.leaf l
    let k := x.sched.que q
    if k.refused = 0 then s
    else
      let blocked := match x.sched.threads.find? fun p => p.2.state == 3 && p.2.queue == q with
        | none => 255
        | some p => p.1
      (s.modLeaf l fun x => x.modQue q fun k => { k with refused := 0 }).report l 0x0FE9 2 q k.refused (le8 blocked)

end Sys2Proof.Machine
end

