-- ==== Sys2Proof/Machine/Boot.lean ====
section
/-! DEFINITION. Power-up, resets, boot and the commands of group 0x01 (chapter 20, R16, R28, R45,
R482 to R490, R494 to R496, R501, R506, R507). -/

namespace Sys2Proof.Machine

/-! Pins (R501, R506, R507). -/

/-- `MOD_OK` is high (R506). -/
def State.modOk (s : State) : Bool :=
  let ok : Leaf → Bool := fun x => x.pwr == 2 && x.run == 2
  s.plinth.supply && ok s.la && (!s.variant.hasB || ok s.lb) && (!s.variant.hasCoping || s.plinth.copingPg)

/-- `TXDIS` of a port is driven high (R507). -/
def State.txDis (s : State) (l : LeafId) (p : Nat) : Bool :=
  let q := (s.leaf l).port p
  (s.leaf l).run != 2 || q.mode == 0 || q.modAbs

/-- `SFP_LOS` (R507): LOS goes high and takes the link down at once. -/
def execSfpLos (l : LeafId) (port : Nat) (s : State) : Res :=
  .next (if 2 ≤ port then s else (s.modPort l port fun q => { q with los := true }).linkDown l port)

/-- `SFP_MODABS` (R507): a module is plugged in; the firmware of a running leaf reads its identity
page, and LOS follows the new module. -/
def execSfpModabs (l : LeafId) (port : Nat) (page : List Byte) (s : State) : Res :=
  .next <| if 2 ≤ port then s else s.modPort l port fun q =>
    { q with modAbs := false, los := false, sfpPage := if s.alive l then page else q.sfpPage }

/-- `SFP_MODABS_HIGH` (R507): the module is removed and TXDIS goes high. -/
def execSfpModabsHigh (l : LeafId) (port : Nat) (s : State) : Res :=
  .next (if 2 ≤ port then s else s.modPort l port fun q => { q with modAbs := true })

/-! Resets (R28, R45, R484). -/

/-- What a leaf keeps through its reset: flash, fuses, straps, rails and the levels at its pins
(DEDUCED, log entry 35). -/
def Leaf.fresh (x : Leaf) : Leaf :=
  let b := x.boot
  let pin : Port → Port := fun q => { los := q.los, modAbs := q.modAbs }
  { pwr := x.pwr, wasReady := x.wasReady,
    boot := { strapSrc := b.strapSrc, strapTest := b.strapTest, pref := b.pref, valid0 := b.valid0, valid1 := b.valid1,
              ver0 := b.ver0, ver1 := b.ver1, secMin := b.secMin },
    port0 := pin x.port0, port1 := pin x.port1,
    ecc := { fuse := x.ecc.fuse, field := x.ecc.field } }

/-- The control outputs of a leaf hold their codes and take the next demand directly (R397). -/
def Coping.leafReset (c : Coping) (l : LeafId) : Coping :=
  [0, 1].foldl (fun c k => c.modCv (l.num * 2 + k) fun v => { v with fresh := true }) c

/-- What a leaf holds of its peer, in its own memory (R412, R421)
(DEDUCED, log entry 35). -/
def RedLeaf.forget (r : RedLeaf) : RedLeaf :=
  { claim := r.claim, grant := r.grant, flags := r.flags, lost := r.lost, judged := 0 }

/-- One leaf goes into reset. A running leaf fails first (R45, R411); its function then waits for
`SYS_CAPS` again unless the peer has taken it over
(DEDUCED, log entry 35). -/
def State.resetLeaf (s0 : State) (l : LeafId) : State :=
  let s := if s0.alive l then s0.leafFails l 0 else s0.endWork l
  let s := s.modLeaf l Leaf.fresh
  let s := (s.modRed l RedLeaf.forget).modRed l.other fun r => { r with transit := none, peer := none }
  let s := { s with cop := s.cop.leafReset l }
  let s := { s with red := { s.red with tieUp := false } }
  let f := s.homeFn l
  let s := if s.red.mode = 0 ∨ s.unserved f = true then s.modFn f fun x => { x with capsDone := s.roView f && x.capsDone } else s
  s.notify s0

/-- A module reset: both leaves, the tie link and the coping together; the endpoint stays enumerated
and every function waits for `SYS_CAPS` (R3, R28)
(DEDUCED, log entry 35). -/
def State.resetModule (s0 : State) : State :=
  let s := (((s0.endWork .a).endWork .b).dropEntry).dropSplit.dropSwap.dropLeave
  let s := (s.loseFn .f0).loseFn .f1
  let wipe : Leaf → Leaf := fun x => { x.fresh with wasReady := false }
  let s := (s.modLeaf .a wipe).modLeaf .b wipe
  let s := { s with red := {} }
  let s := { s with cop := copReset }
  let caps : Fn → Fn := fun x => { x with capsDone := false }
  (((s.modFn .f0 caps).modFn .f1 caps).modFn .f2 caps).notify s0

/-- The key of `MOD_RESET` (R41)
(DESIGN CHOICE, log entry 48). -/
def resetKey (v : BitVec 32) : Bool := bits v.toNat 31 16 == 0xA5C3

/-- `MOD_RESET.LEAF_A`, `LEAF_B` and `COPING` bits of a write (R41, R45)
(DESIGN CHOICE, log entry 48). -/
def State.resetBits (s : State) (v : Nat) : State :=
  let s := if bit v 1 then s.resetLeaf .a else s
  let s := if bit v 2 && s.variant.hasB then s.resetLeaf .b else s
  if bit v 3 && s.variant.hasCoping then { s with cop := copReset } else s

/-- A write to `MOD_RESET` (R41): a wrong key or a bit that must be zero discards it; `MODULE` overrides
the other bits
(DESIGN CHOICE, log entry 48). -/
def writeModReset (v : BitVec 32) (s : State) : State :=
  if s.reachable .f2 = false then s
  else if resetKey v = false ∨ bits v.toNat 15 4 ≠ 0 then s.dbError .f2 3
  else if bit v.toNat 0 then s.resetModule else s.resetBits v.toNat

/-- A write to a BAR0 register without a row of its own (R40 to R44). -/
def writeBar0 (f : FnId) (off v : Nat) (s : State) : State :=
  match off with
  | 0x100 => ringDoorbell f (BitVec.ofNat 32 v) s
  | 0x108 => s.modFn f fun x => { x with dbErr := x.dbErr &&& ~~~(BitVec.ofNat 4 v) }
  | 0x114 => writeCqCons f (BitVec.ofNat 32 v) s
  | 0x11C => writeEqCons f (BitVec.ofNat 32 v) s
  | 0x140 => writePosCommit f (BitVec.ofNat 32 v) s
  | 0x200 => s.modFn f fun x => { x with intStatus := x.intStatus &&& ~~~(BitVec.ofNat 8 v) }
  | 0x204 => writeIntMask f v s
  | 0x208 => s.modFn f fun x => { x with intVector := BitVec.ofNat 32 v }
  | 0x20C => s.modFn f fun x => { x with modDelay := v % 65536, modCount := v / 65536 % 256 }
  | 0x304 => writeDmaCtrl f (BitVec.ofNat 32 v) s
  | 0x404 => if f = .f2 then writeModReset (BitVec.ofNat 32 v) s else s
  | o =>
    if 0x1000 ≤ o ∧ o < 0x1100 then
      (s.modMail f fun m => { m with msix := mwrite msixDefault m.msix (o - 0x1000) (le32 v) }).flushPba f
    else s

/-- `REGISTER_WRITE` (R32, R40, R46): the words of an aligned BAR0 access are written in ascending order;
any other BAR0 access changes nothing (DESIGN CHOICE, log entry 63). -/
def execRegisterWrite (f : FnId) (bar2 : Bool) (off : Nat) (bytes : List Byte) (s : State) : Res :=
  .next <|
    if s.reachable f = false then s
    else if bar2 then writeBar2 f off bytes s
    else if off % 4 = 0 ∧ bytes.length % 4 = 0 then
      (List.range (bytes.length / 4)).foldl (fun s i => writeBar0 f (off + 4 * i) (u32 bytes (4 * i)) s) s
    else s

/-- `MOD_RESET_MODULE` (R28). -/
def execModResetModule (v : BitVec 32) (s : State) : Res := .next (writeModReset (v ||| 1) s)
/-- `MOD_RESET_LEAF` (R45). -/
def execModResetLeaf (v : BitVec 32) (s : State) : Res := .next (writeModReset v s)
/-- `MOD_RESET_COPING` (R484). -/
def execModResetCoping (v : BitVec 32) (s : State) : Res := .next (writeModReset (v ||| 8) s)

/-! Supply and rails (R16, R482, R483, R501, R513). -/

/-- `SUPPLY_GOOD` (R482, R483, R501): the rails come up, the bank voltages are sampled, the endpoint
answers and its link comes up
(DESIGN CHOICE, log entry 16). -/
def execSupplyGood (s : State) : Res :=
  .next <|
    if s.plinth.supply then s
    else
      let s := s.modLeaf .a fun x => { x with pwr := 2 }
      let s := if s.variant.hasB then s.modLeaf .b fun x => { x with pwr := 2 } else s
      ({ s with plinth := { s.plinth with
          supply := true, enabled := true, copingPg := s.variant.hasCoping, vio := s.plinth.vsel } } : State).train

/-- `SUPPLY_FAIL` (R482, R484): everything is cleared but flash contents, fuses and what is fitted to
the pins. -/
def execSupplyFail (s : State) : Res :=
  .next <|
    let keep : Leaf → Leaf := fun x => { x.fresh with pwr := 0, wasReady := false }
    { State.reset with
      variant := s.variant, la := keep s.la, lb := keep s.lb, plinth := { vsel := s.plinth.vsel },
      outbox := s.outbox, freeCount := s.freeCount, pending := s.pending }

/-- `LEAF_RAIL_FAULT` (R16): one leaf's rails are switched off. -/
def execLeafRailFault (l : LeafId) (cause : Nat) (s : State) : Res :=
  .next <|
    if (l = .b ∧ s.variant.hasB = false) ∨ (s.leaf l).pwr = 0 ∨ 2 < cause then s
    else
      let t := (s.resetLeaf l).modLeaf l fun x => { x with pwr := 3 }
      t.modEvent 0x01F5 3 (le8 l.num ++ le8 cause)

/-- `PLINTH_OVERTEMP` (R513): a module reset
(DESIGN CHOICE, log entry 44). -/
def execPlinthOvertemp (s : State) : Res := .next (if s.plinth.supply then s.resetModule else s)

/-! The boot (R485 to R490). -/

/-- `LEAF_RESET_RELEASE` (R485, R489): the straps are sampled and the boot begins
(DESIGN CHOICE, log entry 16). -/
def execLeafResetRelease (l : LeafId) (s : State) : Res :=
  .next <|
    let x := s.leaf l
    if x.pwr ≠ 2 ∨ x.run ≠ 0 then s
    else
      let t := s.setLeaf l { x with run := 1, boot := { x.boot with
        src := x.boot.strapSrc, test := min 2 x.boot.strapTest, waitHost := x.boot.strapSrc } }
      t.notify s

/-- The slot that a flash boot takes: the preferred one, else the other; none when neither verifies
(R486, R487). -/
def Boot.choose (b : Boot) : Option Nat :=
  let ok : Nat → Bool := fun i => if i = 0 then b.valid0 && decide (b.secMin ≤ b.ver0) else b.valid1 && decide (b.secMin ≤ b.ver1)
  if ok b.pref then some b.pref else if ok (1 - b.pref) then some (1 - b.pref) else none

/-- A boot step fails (R490): the leaf stays in reset. -/
def State.bootFail (s : State) (l : LeafId) (step cause : Nat) : State :=
  let t := (s.endWork l).modLeaf l fun x => { x with run := 3 }
  (t.modEvent 0x01E1 3 (le8 l.num ++ le8 step ++ le8 cause)).notify s

/-- `SYS_BOOT_FAIL` (R490). -/
def execSysBootFail (l : LeafId) (step cause : Nat) (s : State) : Res :=
  .next (if (s.leaf l).run ≠ 1 ∨ 9 < step ∨ 6 < cause then s else s.bootFail l step cause)

/-- Field entries that cannot be applied: a spare that the fuse map uses, or one that does not exist
(R448). -/
def Ecc.badField (e : Ecc) : List (EccRepair × Nat) :=
  e.field.filterMap fun r =>
    if (if r.kind = 0 then 8 else 2) ≤ r.spare ∨ 48 ≤ r.bank then some (r, 3)
    else if e.fuse.any fun q => q.bank == r.bank && q.kind == r.kind && q.spare == r.spare then some (r, 2)
    else none

/-- A failing word as the repeat table would hold it. -/
def TestWord.hit (w : TestWord) : EccHit :=
  { bank := w.bank, row := w.row, slot := w.slot, pos := Nat.log2 w.bits.toNat, weak := true }

/-- A repair replaces a word. -/
def EccRepair.covers (r : EccRepair) (h : EccHit) : Bool :=
  r.bank == h.bank && (if r.kind = 0 then r.index == h.row else r.index == h.slot * 72 + h.pos)

/-- Replace the words that fail a boot march, which are weak words together, by R449 (R490); none when no
spare is free for one. Answers the memories and the spare kind of each word. -/
def Ecc.bootRepair (e : Ecc) (all : List EccHit) : List EccHit → Option (Ecc × List (EccHit × Nat))
  | [] => some (e, [])
  | h :: r =>
    if 48 ≤ h.bank then none
    else match e.boot.find? fun q => q.covers h with
      | some q => (e.bootRepair all r).map fun p => (p.1, (h, q.kind) :: p.2)
      | none =>
        match ({ e with table := all } : Ecc).chooseSpare h with
        | none => none
        | some q => (({ e with boot := e.boot ++ [q] } : Ecc).bootRepair all r).map fun p => (p.1, (h, q.kind) :: p.2)

/-- PLLs of a leaf after its boot: the audio PLL waits for a rate family (R363, R368, R369). -/
def Leaf.bootPlls (x : Leaf) : Leaf :=
  [0, 1, 3, 4, 5].foldl (fun x i => x.modPll i fun p => { p with locked := true, gated := false }) x

/-- `BOOT_READY` (R448, R466, R483, R489, R490): the boot ends, `ms` after it began, having found the words
`fails` in its marches
(DESIGN CHOICE, log entry 16). -/
def execBootReady (l : LeafId) (ms : Nat) (fails : List TestWord) (s : State) : Res :=
  .next <|
    let x := s.leaf l
    let b := x.boot
    if x.run ≠ 1 ∨ b.waitHost = true then s
    else match (if b.src then some 255 else b.choose) with
      | none => s.bootFail l 3 0
      | some slot =>
        let bad := x.ecc.badField
        let s1 := bad.foldl (fun s p => s.repairRejected l p.1.bank p.2 p.1.index) s
        match x.ecc.bootRepair (fails.map TestWord.hit) (fails.map TestWord.hit) with
        | none => s1.bootFail l 8 5
        | some (e, kinds) =>
          let s1 := kinds.foldl (fun s p => s.weakEvent l p.1 p.2) s1
          let spares := min 255 (e.fuse.length + (e.field.length - bad.length) + e.boot.length)
          let ver := if slot = 0 then b.ver0 else if slot = 1 then b.ver1 else b.runVer
          let s1 := s1.modLeaf l fun y =>
            ({ y with run := 2, wasReady := true, ecc := e,
                      boot := { y.boot with slot := slot, ms := ms, runVer := ver } } : Leaf).bootPlls.loadDelays false
          let ev : Event := { code := 0x01E0, leaf := l.num,
                              payload := le8 l.num ++ le8 slot ++ le8 b.test ++ le8 spares ++ le32 ms }
          (s1.events [s1.fnOf l, .f2] ev).notify s

/-! Images (R487, R488, R495). -/

/-- An image is accepted by a leaf whose fused minimum is `secMin` (R487)
(DEDUCED, log entry 21). -/
def imageOk (secMin : Nat) (d : List Byte) : Bool :=
  Config.imageCheck 0 d && Config.imageCheck 1 d && Config.imageCheck 2 d && decide (secMin ≤ Config.imageVersion d)

/-- The leaf that a command on function 2 names. -/
def targetLeaf (c : Cmd) : LeafId := if c.target = 2 then .b else .a

/-- A command on function 2 that names leaf B needs one. -/
def targetPresent (v : Variant) (c : Cmd) : Bool := v.hasB || !(c.fn == .f2 && c.target == 2)

/-- `SYS_BOOT_LOAD` (R488, R494, R495): the image is verified once it has arrived. -/
def specSysBootLoad : Spec where
  op := 0x0103
  fns := fun f => f == .f2
  present := targetPresent
  targets := fun t => t == 1 || t == 2
  len := fixedLen 48
  fields := fun _ c => [resv c 0 16]
  refs := fun _ => [16, 32]
  pre := fun s c =>
    let x := s.leaf (targetLeaf c)
    (if x.run = 1 ∧ x.boot.waitHost = true ∧ x.boot.load = none then sOk else sBadState, 0)
  stage := fun c s => s.modLeaf (targetLeaf c) fun x => { x with boot := { x.boot with load := some { cmd := c } } }
  undo := fun c s => s.modLeaf (targetLeaf c) fun x => { x with boot := { x.boot with load := none } }
  run := fun c _ d s =>
    let l := targetLeaf c
    let x := s.leaf l
    let s := s.modLeaf l fun x => { x with boot := { x.boot with load := none } }
    if x.run ≠ 1 ∨ x.boot.waitHost = false then { s := s, status := sAborted }
    else if imageOk x.boot.secMin d then
      { s := s.modLeaf l fun x => { x with boot := { x.boot with waitHost := false, runVer := Config.imageVersion d } } }
    else { s := s, status := sBadField, detail := 48 }

/-- The slot that is not booted (R495). -/
def Boot.spareSlot (b : Boot) : Nat := if b.slot = 0 then 1 else if b.slot = 1 then 0 else 1 - b.pref

/-- Mark a slot with a validity and a version. -/
def Boot.setSlot (b : Boot) (i : Nat) (ok : Bool) (ver : Nat) : Boot :=
  if i = 0 then { b with valid0 := ok, ver0 := ver } else { b with valid1 := ok, ver1 := ver }

/-- `SYS_FW_UPDATE` (R494, R495): the slot not booted is written; it holds no valid image until it has
been verified. -/
def specSysFwUpdate : Spec where
  op := 0x0104
  fns := fun f => f == .f2
  present := targetPresent
  targets := fun t => t == 1 || t == 2
  len := fixedLen 32
  fields := fun _ c => [(0, decide (u8 c.body 0 < 4)), resv c 1 15]
  refs := fun _ => [16]
  pre := fun s c => (if s.alive (targetLeaf c) = true ∧ (s.leaf (targetLeaf c)).boot.update = none then sOk else sBadState, 0)
  stage := fun c s => s.modLeaf (targetLeaf c) fun x =>
    { x with boot := { x.boot with update := some { cmd := c, update := true } } }
  undo := fun c s => s.modLeaf (targetLeaf c) fun x => { x with boot := { x.boot with update := none } }
  run := fun c _ d s =>
    let l := targetLeaf c
    if (s.leaf l).boot.update.isNone then { s := s, status := sAborted }
    else
      { s := s.modLeaf l fun x =>
          { x with boot := { x.boot.setSlot x.boot.spareSlot false 0 with update := some { cmd := c, data := d, update := true } } },
        mode := 2 }

/-- `FW_SLOT_VERIFIED` (R487, R495): the update ends; the slot is valid or invalid. -/
def execFwSlotVerified (l : LeafId) (s : State) : Res :=
  .next <|
    match (s.leaf l).boot.update with
    | none => s
    | some u =>
      let b := (s.leaf l).boot
      if u.data = [] then s
      else if !imageOk b.secMin u.data then
        (s.modLeaf l fun x => { x with boot := { x.boot with update := none } }).final u.cmd false sBadField 48 0
      else
        let flags := u8 u.cmd.body 0
        let k := b.spareSlot
        let s := s.modLeaf l fun x =>
          let b := { x.boot.setSlot k true (Config.imageVersion u.data) with update := none }
          { x with boot := { b with pref := if bit flags 1 then k else b.pref,
                                    secMin := if bit flags 0 then max b.secMin b.runVer else b.secMin } }
        s.final u.cmd false sOk 0 0

/-! `SYS_CAPS` and `SYS_CANCEL` (R3, R4, R63, R495). -/

/-- The response of `SYS_CAPS`; no leaf for the module
(DEDUCED, log entry 49). -/
def capsResp (s : State) (l : Option LeafId) : List Byte :=
  let v := s.variant
  match l with
  | none =>
    le8 v.code ++ le8 255 ++ le8 (unitBits v) ++ le8 0 ++ zeros 40 ++ le32 (Config.fwVer none).toNat ++ zeros 4 ++
      le8 255 ++ zeros 11
  | some l =>
    let x := s.leaf l
    let rate := x.clk.dom.rate
    let vox : Nat → Nat := fun n => if v.hasVoice then n else 0
    le8 v.code ++ le8 l.num ++ le8 (unitBits v) ++ le8 rate ++
      le16 (objCap rate) ++ le16 (feedCap rate) ++ le32 (tapCap rate) ++ le32 (pairCap rate) ++
      le16 (vox 1024) ++ le16 (vox 64) ++ le16 (vox 4096) ++ le16 256 ++ le16 1024 ++ le16 128 ++ le8 64 ++ le8 64 ++
      le16 256 ++ le8 64 ++ le8 4 ++ le16 8192 ++ le32 14336 ++ le32 (ucPool v rate) ++
      le32 (Config.fwVer (some l)).toNat ++ le32 x.boot.runVer ++ le8 x.boot.slot ++ le8 x.boot.test ++ zeros 2 ++
      le32 x.boot.ms ++ zeros 4

/-- `SYS_CAPS` (R3, R495)
(DESIGN CHOICE, log entry 16). -/
def specSysCaps : Spec where
  op := 0x0101
  fns := fun _ => true
  present := targetPresent
  targets := fun t => decide (t < 3)
  len := fixedLen 4
  fields := fun _ c => [resv c 0 4]
  run := fun c _ _ s =>
    let l := if c.fn = .f2 then (if c.target = 0 then none else some (targetLeaf c)) else (s.server c.fn).map Prod.fst
    { s := (s.modFn c.fn fun x => { x with capsDone := true }).notify s c.tag, resp := capsResp s l }

/-- The unit that a `target` of function 2 names is in the variant (R4, R48). -/
def unitPresent (v : Variant) (c : Cmd) : Bool :=
  !(c.fn == .f2 && ((c.target == 2 && !v.hasB) || (c.target == 3 && !v.hasCoping)))

/-- `SYS_CANCEL` (R63): the queued commands with a tag whose effect sample lies beyond the coming one
are withdrawn. `undo` takes back what each had staged. -/
def specSysCancel (undo : Cmd → State → State) : Spec where
  op := 0x0102
  len := fixedLen 8
  fns := fun _ => true
  present := unitPresent
  targets := fun t => decide (t < 4)
  fields := fun _ c => [resv c 4 4]
  run := fun c _ _ s =>
    let d := s.fnDom c.fn
    let hit : Pend → Bool := fun p => p.released && p.cmd.tag == u32 c.body 0 && decide (d.nextCount < p.count)
    let ps := (s.fn c.fn).mail.queued.filter hit
    if ps.isEmpty then { s := s, status := sBadState }
    else
      let s := s.modMail c.fn fun m => { m with queued := m.queued.filter fun p => !hit p }
      let s := ps.foldl (fun s p => (undo p.cmd s).final p.cmd true sAborted 0 0) s
      { s := s, detail := ps.length }

end Sys2Proof.Machine
end

