-- ==== Sys2Proof/Machine/Dram.lean ====
section
/-! DEFINITION. The DRAM controller (chapter 18): request queues, refresh, temperature, write drains, row-activation
throttling and uncorrectable errors by master. -/

namespace Sys2Proof.Machine

/-- A channel that is not listed. -/
def dramCh0 : DramCh := {}
/-- A DRAM channel. -/
def Leaf.dch (x : Leaf) (i : Nat) : DramCh := tget x.dramc.chans i dramCh0
/-- A change of a DRAM channel. -/
def Leaf.modDch (x : Leaf) (i : Nat) (f : DramCh → DramCh) : Leaf :=
  { x with dramc := { x.dramc with chans := tmod x.dramc.chans i dramCh0 f } }

/-! The request queues (R459, R460). -/

/-- The request queue of a bank, head first. -/
def DramCh.queue (d : DramCh) (b : Nat) : List DramReq := tget d.queues b []
/-- A channel with the queue of a bank replaced. -/
def DramCh.setQueue (d : DramCh) (b : Nat) (q : List DramReq) : DramCh := { d with queues := tset d.queues b q [] }
/-- Writes whose bursts the write-data buffer holds (R459). -/
def DramCh.writes (d : DramCh) : Nat := (d.queues.map fun p => (p.2.filter DramReq.write).length).sum
/-- A request of QoS 12 or more is queued (R461). -/
def DramCh.urgent (d : DramCh) : Bool := (d.queues.any fun p => p.2.any fun r => decide (12 ≤ r.qos)) || d.held.any fun r => decide (12 ≤ r.qos)

/-- Two requests address the same burst. -/
def sameBurst (r q : DramReq) : Bool := r.bank == q.bank && r.row == q.row && r.col == q.col

/-- A request joins its bank's queue: a read of a burst that an earlier queued write holds promotes that
write to the head (R460). -/
def DramCh.join (d : DramCh) (r : DramReq) : DramCh :=
  let q := d.queue r.bank
  let mine : DramReq → Bool := fun w => !r.write && w.write && sameBurst w r
  d.setQueue r.bank (q.filter mine ++ (q.filter fun w => !mine w) ++ [r])

/-- There is room for a request: 8 entries a bank and 32 bursts of write data (R459). -/
def DramCh.room (d : DramCh) (r : DramReq) : Bool :=
  decide ((d.queue r.bank).length < 8) && (!r.write || decide (d.writes < 32))

/-- The requests that wait join in their order while there is room; one that has none holds back those to
its bank (R452, R459). -/
def DramCh.takeIn (d : DramCh) : DramCh :=
  d.held.foldl (fun d r =>
    if !(d.held.any fun h => h.bank == r.bank) && d.room r then d.join r else { d with held := d.held ++ [r] })
    { d with held := [] }

/-- A read waits for an earlier queued write to its burst (R460): the request at place `i` of a queue. -/
def readWaits (q : List DramReq) (i : Nat) : Bool :=
  match q[i]? with
  | none => false
  | some r => !r.write && (q.take i).any fun w => w.write && sameBurst w r

/-- A queued write that a read waits for (R460). -/
def wanted (q : List DramReq) (i : Nat) : Bool :=
  match q[i]? with
  | none => false
  | some w => w.write && (q.drop (i + 1)).any fun r => !r.write && sameBurst w r

/-- The place in a queue that its bank serves next among those that may be served (R459, R460): a write
that a read waits for; else the best hit on the open row while fewer than 4 have been served or no other row
waits; else the best of all. The best has the highest QoS, the oldest among equals (DESIGN CHOICE, log entry
76)
(DESIGN CHOICE, log entry 76). -/
def DramCh.serveNext (d : DramCh) (b : Nat) (drain : Bool) : Option Nat :=
  let q := d.queue b
  let open_ := tget d.opened b 4294967296
  let may := (List.range q.length).filter fun i =>
    match q[i]? with
    | none => false
    | some r => if r.write then drain || wanted q i else !drain && !readWaits q i
  let qos : Nat → Nat := fun i => (q[i]?.map DramReq.qos).getD 0
  let best : List Nat → Option Nat := fun l => l.foldl (fun a i => match a with
    | none => some i
    | some k => if qos k < qos i then some i else a) none
  let row : Nat → Bool := fun i => (q[i]?.map DramReq.row) == some open_
  let hits := may.filter row
  match may.find? (wanted q) with
  | some i => some i
  | none =>
    if hits ≠ [] ∧ (tget d.hits b 0 < 4 ∨ may.all row = true) then best hits
    else if hits ≠ [] then best (may.filter fun i => !row i) else best may

/-- One request is issued to the DRAM: that of the next bank, in rotation from the one last activated, that
may serve one (R459)
(DESIGN CHOICE, log entry 76). -/
def DramCh.issue (d : DramCh) (drain : Bool) : DramCh :=
  let banks := (List.range 16).map fun k => (d.last + 1 + k) % 16
  match banks.findSome? fun b => (d.serveNext b drain).map fun i => (b, i) with
  | none => d
  | some (b, i) =>
    let q := d.queue b
    let r := q.getD i {}
    let hit := tget d.opened b 4294967296 == r.row
    let d := d.setQueue b (q.eraseIdx i)
    ({ d with opened := tset d.opened b r.row 4294967296, hits := tset d.hits b (if hit then tget d.hits b 0 + 1 else 1) 0,
              last := if hit then d.last else b } : DramCh).takeIn

/-- A number of requests are issued. -/
def DramCh.issues (d : DramCh) (n : Nat) (drain : Bool) : DramCh := (List.range n).foldl (fun d _ => d.issue drain) d

/-- `DRAM_REFRESH` (R461): a refresh falls due. With requests of QoS 12 or more queued it is postponed,
up to 8; otherwise it and every postponed one are issued. `busy` says so of requests that no
`DRAM_WRITE_DRAIN` has brought. -/
def execDramRefresh (l : LeafId) (ch : Nat) (busy : Bool) (s : State) : Res :=
  .next <|
    if 8 ≤ ch then s else
      s.modLeaf l fun x => x.modDch ch fun d =>
        let busy := busy || d.urgent
        if busy && decide (d.postponed < 8) then { d with postponed := d.postponed + 1 }
        else if busy then { d with issued := d.issued + 1 }
        else { d with issued := d.issued + 1 + d.postponed, postponed := 0 }

/-- `DRAM_TEMP` (R470). -/
def State.dramTemp (s : State) (l : LeafId) (ch repaid sev : Nat) : State :=
  let d := (s.leaf l).dch ch
  s.leafEvent l 0x0FE6 sev 4294967295 (le8 ch ++ le8 d.mr4 ++ le8 (b2n d.doubled) ++ le8 repaid)

/-- `DRAM_TEMP_POLL` (R462, R463): a reading of MR4. `above` says that it asks for a rate above the
normal one, `beyond` that it reports a temperature beyond the operating range. The change to the
doubled rate issues every postponed refresh at once; the change back takes 16 consecutive readings
(DESIGN CHOICE, log entry 44). -/
def execDramTempPoll (l : LeafId) (ch mr4 : Nat) (above beyond : Bool) (s : State) : Res :=
  .next <|
    if 8 ≤ ch then s else
      let d := (s.leaf l).dch ch
      let put : (DramCh → DramCh) → State → State := fun f s => s.modLeaf l fun x => x.modDch ch f
      let s := put (fun d => { d with mr4 := mr4 % 256, run := if above then 0 else min 16 (d.run + 1) }) s
      let s :=
        if above && !d.doubled then
          (put (fun d => { d with doubled := true, issued := d.issued + d.postponed, postponed := 0 }) s).dramTemp l ch d.postponed 1
        else if !above && d.doubled && decide (15 ≤ d.run) then
          (put (fun d => { d with doubled := false }) s).dramTemp l ch 0 1
        else s
      if beyond then s.dramTemp l ch 0 3 else s

/-- `DRAM_WRITE_DRAIN` (R459, R460): requests have come to a channel, and the controller has issued a
number of those that may be issued, or a write has waited 2 µs (no number). The writes drain in a group when
24 bursts are held or one has waited so long. -/
def execDramWriteDrain (l : LeafId) (ch : Nat) (reqs : List DramReq) (issues : Option Nat) (s : State) : Res :=
  .next <|
    if 8 ≤ ch then s else
      s.modLeaf l fun x => x.modDch ch fun d =>
        let d := ({ d with held := d.held ++ reqs.filter fun r => decide (r.bank < 16) } : DramCh).takeIn
        let d := d.issues (min (issues.getD 0) 128) false
        if issues.isNone || decide (24 ≤ d.writes) then d.issues d.writes true else d

/-- `DRAM_THROTTLE` (R464, R470): a row reaches 4 096 activates in its window; its master is held to
one activate per 2 µs on that bank for the rest of the window
(DESIGN CHOICE, log entry 29). -/
def execDramThrottle (l : LeafId) (ch bank row master unit : Nat) (s : State) : Res :=
  .next <|
    if 8 ≤ ch ∨ 16 ≤ bank then s else
      let t : Throttle := { bank := bank, row := row, cls := master, unit := unit }
      let s := s.modLeaf l fun x => x.modDch ch fun d =>
        { d with throttled := if d.throttled.contains t then d.throttled else d.throttled ++ [t] }
      s.reportOn (s.fnOf l) l
        { code := 0x0FE7, subject := 4294967295, key := master * 256 + unit, sev := 2, width := 0, count := 1,
          front := le8 master ++ le8 unit ++ le8 ch ++ le8 bank ++ le32 row }

/-- `DRAM_ACTIVATE_WINDOW_END` (R464): a 32 ms window ends; its counts and throttles go. -/
def execDramActivateWindowEnd (l : LeafId) (ch : Nat) (s : State) : Res :=
  .next <| if 8 ≤ ch then s else s.modLeaf l fun x => x.modDch ch fun d => { d with throttled := [] }

/-- The packet that holds the coming sample of an ingress stream is lost (R465, R332). -/
def RxStream.lose (q : RxStream) (count : Nat) : RxStream :=
  let want := q.wanted count
  { q with buf := q.buf.filter fun r => !within 0 ((q.set.samples : Int) - 1) (countDiff want r.count) }

/-- `DRAM_ECC` (R465, R470): an uncorrectable error read by the master of a class of R450. `users` names
what the read was for: feeds of a course port; a voice and its oscillator, or 65 536 plus a clip
player and its channel; an ingress stream
(DEDUCED, log entry 30). -/
def State.dramEcc (halt : FnId → Nat → State → State) (l : LeafId) (master unit ch addr : Nat)
    (users : List (Nat × Nat)) (s : State) : State :=
  if master = 4 then (s.eccEvent l 3 255 255 0 0).abandonCommand (s.fnOf l)
  else if master = 5 then halt (s.fnOf l) 0 (s.eccEvent l 4 255 255 0 0)
  else
    let s := s.modEcc l fun e => { e with uncorr := min 4294967295 (e.uncorr + 1) }
    let s := match master with
      | 0 => s.modEcc l fun e => { e with once := users.map (fun (u : Nat × Nat) => u.1) ++ e.once, flag := true }
      | 2 => s.modEcc l fun e =>
          { e with quietOsc := users.filter (fun (u : Nat × Nat) => decide (u.1 < 65536)) ++ e.quietOsc,
                   quietClip := (users.filter fun (u : Nat × Nat) => decide (65536 ≤ u.1)).map (fun (u : Nat × Nat) => (u.1 - 65536, u.2)) ++ e.quietClip }
      | 3 => users.foldl (fun (s : State) (u : Nat × Nat) => s.modLeaf l fun x =>
          x.modScene fun sc => sc.modRx u.1 fun q => q.lose (x.streamClock q.set.domain).2) s
      | _ => s
    s.reportOn (s.fnOf l) l
      { code := 0x0FE8, subject := 4294967295, key := master * 256 + unit, sev := 3, width := 2, count := 1,
        front := le8 master ++ le8 unit ++ le8 ch ++ zeros 5 ++ le64 addr }

end Sys2Proof.Machine
end

