-- ==== Sys2Proof/Machine/Diag.lean ====
section
/-! DEFINITION. Self-test and diagnostics: the commands of group 0x0F and the ends of their tests
(R467 to R469, R491 to R493, R497, R498). -/

namespace Sys2Proof.Machine

/-! Which leaf, and whether a test may run (R491, R492). -/

/-- The leaf that a command of group 0x0F acts on. -/
def State.testLeaf (s : State) (c : Cmd) : LeafId :=
  if c.fn = .f2 then targetLeaf c else match s.server c.fn with
    | some p => p.1
    | none => .a

/-- Targets of group 0x0F on function 2 (R492). R492 names tests; a `DIAG_` command is held to the same
(DESIGN CHOICE, log entry 59). -/
def diagTargets (t : Nat) : Bool := t == 1 || t == 2

/-- A test runs on a leaf; an ordered field repair is none. -/
def Leaf.testing (x : Leaf) : Bool := x.boot.tests.any fun t => !t.field

/-- The leaf is the twin standby at its claim, which a test on it first gives up (R491). -/
def State.standbyUp (s : State) (l : LeafId) : Bool :=
  s.twin && s.red.active != l && (s.red.of l).claim != 0

/-- Start a test: `free` says that it runs in service too. A twin standby first goes to claim 0. A
delay sweep that a frequency change meets ends first (R469)
(DEDUCED, log entry 50). -/
def startTest (free : State → Cmd → LeafId → Bool) (c : Cmd) (s : State) : Eff :=
  let l := s.testLeaf c
  let x := s.leaf l
  let overtakes := c.op == 0x0F04 && ((x.boot.tests.filter fun t => !t.field).map Test.op) == [0x0F03]
  if s.twin && c.fn == .f0 then { s := s, status := sBusy }
  else if !s.alive l || (x.testing && !overtakes) then { s := s, status := sBadState }
  else if !(s.standbyUp l) && s.inService l && !free s c l then { s := s, status := sBusy }
  else
    let t := if s.standbyUp l then s.setClaim l 0 0 c.tag else s
    let t := t.modLeaf l fun x => { x with boot := { x.boot with tests := x.boot.tests ++ [{ op := c.op, cmd := c, fn := c.fn }] } }
    { s := t.notify s c.tag, mode := 2 }

/-- While a leaf runs logic BIST its function is unserved: the slots that other commands hold complete
with `NOT_ACTIVE_LEAF` (R38)
(DEDUCED, log entry 50). -/
def State.bistLose (s : State) (f : FnId) (c : Cmd) : State :=
  let m := (s.fn f).mail
  let slots := (List.range 32).filter fun i =>
    bit (s.fn f).busy.toNat i && !(c.fn == f && c.slot == i) && !(m.waiting.any fun w => w.release && w.record.slot == i)
  let s := slots.foldl (fun s i =>
    let d := parseSlot f i (m.accNo + 1) (mread winDefault m.win (i * 512) 512)
    s.final d false sNotActive 0 0) s
  s.modMail f fun m =>
    { m with accepted := [], queued := [], dma := [], fence := none, late := [], floor := if c.fn = f then c.acc - 1 else m.accNo }

/-- `TST_BIST` (R492, R498). -/
def specTstBist : Spec where
  op := 0x0F01
  fns := fun _ => true
  present := targetPresent
  targets := diagTargets
  len := fixedLen 8
  fields := fun _ c => [(0, !bit (u16 c.body 0) 15), resv c 2 6]
  run := fun c _ _ s =>
    let l := s.testLeaf c
    let e := startTest (fun _ _ _ => false) c s
    if e.mode = 2 ∧ s.unserved (s.fnOf l) = false ∧ e.s.unserved (s.fnOf l) = true then
      { e with s := e.s.bistLose (s.fnOf l) c }
    else e

/-- Banks that a march names
(DEDUCED, log entry 50). -/
def marchBanks (c : Cmd) : List Nat := (List.range 48).filter fun i => bit (u64 c.body 8) i

/-- The banks of a preserving march go to the control cores for the test (R434, R492). -/
def State.lendBanks (s : State) (l : LeafId) (c : Cmd) : State :=
  s.modLeaf l fun x =>
    let was := (marchBanks c).map fun k => (k, (x.ecc.bank k).owner)
    let x := x.modEcc fun e => (marchBanks c).foldl (fun e k => e.modBank k fun b => { b with owner := 2 }) e
    { x with boot := { x.boot with
      tests := x.boot.tests.map fun t => if t.op = c.op ∧ t.cmd.acc = c.acc ∧ t.fn = c.fn then { t with owners := was } else t } }

/-- `TST_MARCH` (R492, R498): a preserving march of banks that no course owns runs in service. -/
def specTstMarch : Spec where
  op := 0x0F02
  fns := fun _ => true
  present := targetPresent
  targets := diagTargets
  len := fixedLen 24
  fields := fun _ c =>
    let b := c.body
    let mem := u8 b 0
    [rng 0 mem 0 2, rng 1 (u8 b 1) 0 1, rng 2 (u8 b 2) 0 1, resv c 3 5,
     (8, if mem = 0 then decide (u64 b 8 < 2 ^ 48) else if mem = 1 then decide (u64 b 8 < 256) else u64 b 8 == 0),
     (16, mem != 2 || decide (u32 b 16 < 14336)),
     (20, mem != 2 || within 1 (14336 - (u32 b 16 : Int)) (u32 b 20))]
  run := fun c _ _ s =>
    let mem := u8 c.body 0
    let mode := u8 c.body 1
    if mem = 0 ∧ mode = 0 ∧ ((marchBanks c).any fun k => ((s.leaf (s.testLeaf c)).ecc.bank k).owner == 0) = true then
      { s := s, status := sBusy }
    else
      let e := startTest (fun _ c _ => u8 c.body 0 == 0 && u8 c.body 1 == 0) c s
      if e.mode = 2 ∧ mem = 0 ∧ mode = 0 then { e with s := e.s.lendBanks (s.testLeaf c) c } else e

/-- `TST_DRAM_SWEEP` (R468). -/
def specTstDramSweep : Spec where
  op := 0x0F03
  fns := fun _ => true
  present := targetPresent
  targets := diagTargets
  len := fixedLen 4
  fields := fun _ c => [resv c 0 4]
  run := fun c _ _ s => startTest (fun _ _ _ => false) c s

/-- `TST_DRAM_FREQ` (R467, R469). -/
def specTstDramFreq : Spec where
  op := 0x0F04
  fns := fun _ => true
  present := targetPresent
  targets := diagTargets
  len := fixedLen 8
  fields := fun _ c => [rng 0 (u8 c.body 0) 0 1, resv c 1 7]
  run := fun c _ _ s =>
    let l := s.testLeaf c
    let e := startTest (fun _ _ _ => false) c s
    if e.mode = 2 ∧ (s.leaf l).testing = false then { e with s := e.s.modLeaf l fun x => x.gatePll 1 } else e

/-! Ends of tests (R441, R469, R492, R493). -/

/-- The response of `TST_BIST` (R498): `sigs` gives block, signature and expected signature. -/
def bistResp (blocks : Nat) (r : TestResult) : List Byte :=
  let run := (List.range 15).filter fun i => bit blocks i
  let bad := r.sigs.filter fun q => run.contains q.1 && q.2.1 != q.2.2
  let fails := run.filter fun i => bad.any fun q => q.1 == i
  let mask : List Nat → Nat := fun is => (is.map fun i => 2 ^ i).sum
  let first := fails.head?
  let q := first.bind fun i => bad.find? fun q => q.1 == i
  le16 (mask (run.filter fun i => !fails.contains i)) ++ le16 (mask fails) ++ le8 (first.getD 255) ++ zeros 3 ++
    le64 ((q.map fun p => p.2.1).getD 0) ++ le64 ((q.map fun p => p.2.2).getD 0) ++ le32 r.took ++ zeros 4

/-- Failing bits of a word. -/
def failingBits (w : TestWord) : Nat := ((List.range 64).filter fun i => bit w.bits.toNat i).length

/-- The words of a result that lie in the memory a march names. -/
def marchWords (c : Cmd) (r : TestResult) : List TestWord :=
  r.words.filter fun w =>
    if u8 c.body 0 = 0 then (marchBanks c).contains w.bank
    else if u8 c.body 0 = 1 then decide (48 ≤ w.bank) && decide (w.bank < 56) && bit (u64 c.body 8) (w.bank - 48)
    else w.bank == 255 && decide (u32 c.body 16 * 1048576 ≤ w.address) && decide (w.address < (u32 c.body 16 + u32 c.body 20) * 1048576)

/-- The response of `TST_MARCH` (R498). -/
def marchResp (ws : List TestWord) (took : Nat) : List Byte :=
  let w := ws.head?.getD {}
  le32 (ws.filter fun (w : TestWord) => failingBits w ≤ 1).length ++ le32 (ws.filter fun (w : TestWord) => decide (1 < failingBits w)).length ++
    le8 w.bank ++ le8 w.slot ++ le16 w.row ++ le64 w.address ++ le32 (w.bits.toNat % 4294967296) ++ le32 (took / 1000) ++ zeros 4

/-- The response of `TST_DRAM_SWEEP` (R468, R498): the first and last passing settings of each step reached,
reads first, with the factory value of the present frequency. -/
def sweepResp (test : Bool) (r : TestResult) : List Byte :=
  (List.range 32).flatMap fun i =>
    match r.lanes[i]? with
    | some q => le8 q.1 ++ le8 q.2 ++ le8 (factoryDelay test (i % 16) (i / 16)) ++ le8 1
    | none => le8 255 ++ le8 255 ++ le8 255 ++ le8 255

/-- A failing word enters the repeat table as weak, where there is room (R446, R493). -/
def State.enterWeak (s : State) (l : LeafId) (w : TestWord) : State :=
  let e := (s.leaf l).ecc
  let h : EccHit := { bank := w.bank, row := w.row, slot := w.slot, pos := Nat.log2 w.bits.toNat, at_ := (s.leaf l).now }
  if e.table.any fun q => q.same h.bank h.row h.slot then s.markWeak l h
  else match e.makeRoom with
    | some t => (s.modEcc l fun e => { e with table := t ++ [h] }).markWeak l h
    | none => (s.modEcc l fun e => { e with overflow := min 4294967295 (e.overflow + 1) }).report l 0x0FE3 2 4294967295 1 []

/-- Zero the bytes of a stored item that lie in a range of DRAM, in MiB
(DEDUCED, log entry 50). -/
def zeroRange (kind slot base len : Nat) (d : List Byte) : List Byte :=
  d.zipIdx.map fun (p : Byte × Nat) => if within base (base + len - 1 : Int) (Config.dramPlace kind slot p.2 : Int) then 0 else p.1

/-- What a destructive march leaves of a leaf's memories (R492)
(DEDUCED, log entry 50). -/
def Leaf.marched (x : Leaf) (c : Cmd) : Leaf :=
  if u8 c.body 1 = 0 then x
  else if u8 c.body 0 = 0 then
    let hit : Nat → Bool := fun key => (marchBanks c).contains (key / 262144)
    x.modEcc fun e => { e with
      words := e.words.filter fun p => !hit p.1,
      banks := e.banks.map fun (p : Nat × AshBank) => if (marchBanks c).contains p.1 then (p.1, { p.2 with merge := [] }) else p }
  else if u8 c.body 0 = 2 then
    let z := fun kind slot d => zeroRange kind slot (u32 c.body 16) (u32 c.body 20) d
    let sc : Scene → Scene := fun g =>
      { g with
        vox := { g.vox with
          waves := g.vox.waves.map fun (p : Nat × Wave) => (p.1, { p.2 with data := z 0 p.1 p.2.data }),
          patches := g.vox.patches.map fun (p : Nat × List Byte) => (p.1, z 1 p.1 p.2) },
        clips := { g.clips with clips := g.clips.clips.map fun (p : Nat × Clip) => (p.1, { p.2 with data := z 2 p.1 p.2.data }) } }
    { x with scene := sc x.scene, guest := x.guest.map sc }
  else x

/-- The end of a logic BIST: block states are zero and the scene restarts from zero state
(DEDUCED, log entry 50). -/
def Leaf.bisted (x : Leaf) : Leaf :=
  let n := x.next
  let x := (endSwaps { n := n, prep := true } x).x
  { x with scene := x.scene.zero n, guest := x.guest.map fun g => g.zero n }

/-- `TEST_COMPLETE` (R441, R469, R492, R493): the first test of a leaf ends with what it found
(DEDUCED, log entry 50). -/
def execTestComplete (l : LeafId) (res : TestResult) (s0 : State) : Res :=
  .next <|
    match (s0.leaf l).boot.tests.find? fun t => !t.field with
    | none => s0
    | some t =>
      let c := t.cmd
      let rest := (s0.leaf l).boot.tests.filter fun q => !(q.op == t.op && q.cmd.acc == c.acc && q.fn == t.fn)
      let s := s0.modLeaf l fun x => { x with boot := { x.boot with tests := rest } }
      let dr := (s0.leaf l).dramc
      let past := dr.relock || rest.any fun q => q.op == 0x0F04
      let s := match t.op with
        | 0x0F01 => (s.modLeaf l Leaf.bisted).final c false sOk 0 0 (bistResp (u16 c.body 0) res)
        | 0x0F02 =>
          let ws := marchWords c res
          let s := s.modLeaf l fun x =>
            (x.marched c).modEcc fun e => t.owners.foldl (fun (e : Ecc) (o : Nat × Nat) => e.modBank o.1 fun b => { b with owner := o.2 }) e
          let s := ws.foldl (fun (s : State) (w : TestWord) =>
            if within 48 55 w.bank then s.repairRejected l w.bank 0 w.row else s.enterWeak l w) s
          let s := s.final c false sOk 0 0 (marchResp ws res.took)
          if u8 c.body 0 = 1 ∧ ws ≠ [] then s.modLeaf l fun x => { x with stopped := true } else s
        | 0x0F03 =>
          let s := s.modLeaf l fun x =>
            let x := x.loadDelays dr.test
            if past then ({ x with dramc := { x.dramc with relock := false } } : Leaf).gatePll 1 else x
          s.final c false (if past then sAborted else sOk) 0 0 (sweepResp dr.test res)
        | _ =>
          let s := s.modLeaf l fun x =>
            let x := x.modPll 1 fun p => { p with locked := true, gated := false }
            x.loadDelays (u8 c.body 0 == 1)
          s.final c false sOk 0 0
      s.notify s0

/-! Diagnostics (R447, R449, R480, R498). -/

/-- `DIAG_CONFIG` (R498). -/
def specDiagConfig : Spec where
  op := 0x0F05
  fns := fun _ => true
  present := targetPresent
  targets := diagTargets
  timed := true
  len := fixedLen 8
  fields := fun _ c => [rng 0 (u8 c.body 0) 0 2, resv c 1 3]
  run := fun c _ _ s =>
    let ls := if c.fn = .f2 then [targetLeaf c] else (s.servers c.fn).map Prod.fst
    { s := ls.foldl (fun s l => s.modLeaf l fun x =>
        { x with ecc := { x.ecc with mode := u8 c.body 0 },
                 sched := { x.sched with mask := BitVec.ofNat 32 (u32 c.body 4) ||| 0x2000 } }) s }

/-- `DIAG_REPAIR` (R449, R498): it completes once the field entry is written. -/
def specDiagRepair : Spec where
  op := 0x0F06
  fns := fun _ => true
  present := targetPresent
  targets := diagTargets
  len := fixedLen 8
  fields := fun _ c => [rng 0 (u8 c.body 0) 0 47, rng 1 (u8 c.body 1) 0 63, rng 2 (u16 c.body 2) 0 4095, resv c 4 4]
  run := fun c _ _ s =>
    let l := s.testLeaf c
    let e := (s.leaf l).ecc
    let at_ : EccHit → Bool := fun h => h.same (u8 c.body 0) (u16 c.body 2) (u8 c.body 1)
    if !(e.table.any fun h => at_ h && h.weak) || !s.alive l then { s := s, status := sBadState }
    else
      let s := s.modLeaf l fun x =>
        { x with ecc := { x.ecc with table := mapIf at_ (fun h => { h with repair := 2 }) x.ecc.table },
                 boot := { x.boot with tests := x.boot.tests ++ [{ op := c.op, cmd := c, fn := c.fn, field := true }] } }
      { s := s, mode := 2 }

/-- A trace record as the host reads it (R480). -/
def Trace.bytes (t : Trace) : List Byte :=
  le64 t.time ++ le32 t.cycle ++ le32 t.seq ++ le8 t.kind ++ le8 t.core ++ le8 t.thread ++ le8 t.prio ++ le8 t.other ++
    le8 t.otherPrio ++ le16 t.queue ++ le32 t.arg ++ le16 t.depth ++ zeros 2

/-- The records from a sequence number on; `0xFFFF_FFFF` names the oldest held (R498). -/
def Sched.from_ (q : Sched) (first : Nat) : List Trace :=
  if first = 4294967295 then q.trace
  else q.trace.dropWhile fun t => decide (2147483648 ≤ (t.seq + 4294967296 - first) % 4294967296)

/-- `DIAG_TRACE_READ` (R498). -/
def specDiagTraceRead : Spec where
  op := 0x0F07
  fns := fun _ => true
  present := targetPresent
  targets := diagTargets
  len := fixedLen 32
  toHost := true
  refs := fun _ => [16]
  fields := fun _ c =>
    [rng 4 (u32 c.body 4) 1 65536, resv c 8 8, (24, u32 c.body 24 == 32 * u32 c.body 4)]
  run := fun c _ _ s =>
    let rs := ((s.leaf (s.testLeaf c)).sched.from_ (u32 c.body 0)).take (u32 c.body 4)
    { s := s, out := some (rs.flatMap Trace.bytes), detail := rs.length }

/-- `DIAG_MEM_QUERY` (R498). -/
def specDiagMemQuery : Spec where
  op := 0x0F08
  fns := fun _ => true
  present := targetPresent
  targets := diagTargets
  len := fixedLen 4
  fields := fun _ c => [resv c 0 4]
  run := fun c _ _ s =>
    let e := (s.leaf (s.testLeaf c)).ecc
    let freeAll : Nat → Nat := fun kind => ((List.range 48).map fun b => (e.freeSpares b kind).length).sum
    { s := s,
      resp := le8 e.table.length ++ le8 (e.table.filter EccHit.weak).length ++ le16 e.field.length ++ le16 (freeAll 0) ++
        le16 (freeAll 1) ++ le32 e.corrAshlar ++ le32 (e.corrProgram.map Prod.snd).sum ++ le32 e.corrDram ++
        le32 e.uncorr ++ le32 e.overflow ++ le32 e.decerr }

end Sys2Proof.Machine
end

