-- ==== Sys2Proof/Machine/Twin.lean ====
section
/-! DEFINITION. The commands of group 0x0E (R406 to R410, R426, R428, R430, R431). -/

namespace Sys2Proof.Machine

/-- A two-leaf module (R5). -/
def twoLeaves (v : Variant) (_ : Cmd) : Bool := v.hasB

/-- A mode change, a restore, a swap or a takeover is under way: another of them is refused (R406,
DEDUCED, log entry 41). -/
def Red.changing (r : Red) : Bool := r.entry.isSome || r.split.isSome || r.takeover.isSome || r.swapAt.isSome || r.leaveAt.isSome

/-- Both leaves run and the tie link is up. -/
def State.paired (s : State) : Bool := s.alive .a && s.alive .b && s.red.tieUp

/-- The leaf that a body byte names
(DESIGN CHOICE, log entry 27). -/
def leafOf (k : Nat) : LeafId := if k = 1 then .b else .a

/-- A scene selects a microphone channel at some point (R387, R407). -/
def Scene.usesMics (x : Scene) : Bool :=
  x.points.any fun p =>
    let q := x.sel p.1 p.2
    srcKind q.src == 4 || (match q.waiting with
      | some w => srcKind w.src == 4
      | none => false)

/-- A leaf blocks twin entry: a microphone selection, a master-capable time base or a calibration run
(R407). -/
def Leaf.blocksTwin (x : Leaf) : Bool :=
  (x.scenes.any Scene.usesMics) || (x.scenes.any Scene.measuring) || [0, 1, 2, 3].any fun i => (x.tb i).source == 1 && (x.tb i).role != 0

/-- The stores of two scenes hold the same content in every occupied slot (R409). -/
def Scene.sameStores (x y : Scene) : Bool :=
  let waves := (x.vox.waves ++ y.vox.waves).all fun p => decide (x.wave p.1 = y.wave p.1)
  let clips := (x.clips.clips ++ y.clips.clips).all fun p => decide (x.clip p.1 = y.clip p.1)
  waves && clips

/-- A scene configures a feed or a stream outside a part of them (R407, R426). `lo` is the first of the
part, `hi` the one behind its end: feeds, egress and ingress streams. -/
def Scene.outside (x : Scene) (feed tx rx : Nat → Bool) : Bool :=
  (x.out.feeds.any fun p => !feed p.1) || (x.net.tx.any fun p => p.2.on && !tx p.1) || (x.net.rx.any fun p => p.2.on && !rx p.1) ||
    (x.rend.lay.speakers.any fun p => p.2.kind != 0 && !feed p.1)

/-- Twin entry or a twin restore begins: the joining leaf goes to claim 0, then the copy runs (R408). -/
def State.startEntry (s : State) (op : Nat) (src : LeafId) (copyStores : Bool) (at_ : Nat) (c : Cmd) : State :=
  let s := if (s.red.of src.other).claim = 0 then s else s.setClaim src.other 0 0 c.tag
  { s with red := { s.red with entry := some { op := op, source := src, at_ := at_, copyStores := copyStores, cmd := c } } }

/-- The claims of independent mode are granted for the leaves' next meridians; a leaf at claim 0 stays
there until R411 brings it back (R20, R410). -/
def State.homeClaims (s : State) (tag : Nat) : State :=
  let on : LeafId → Nat := fun l => if (s.red.of l).claim = 0 then 0 else s.homeClaim l
  s.moveClaims (on .a) (on .b) 0 tag

/-- The module leaves twin or split mode (R37, R406): each leaf keeps its scene, and function 1 becomes
a function of leaf B that waits for `SYS_CAPS`. -/
def State.toIndependent (s : State) : State :=
  let was := s.red.mode
  let s := if was = 1 then s.modLeaf s.red.active.other fun x => x.orphanRun s.red.active.other else s
  let clear : RedLeaf → RedLeaf := fun r =>
    { claim := r.claim, grant := r.grant, flags := r.flags, judged := r.judged }
  let s := (s.modRed .a clear).modRed .b clear
  let s := { s with red := { s.red with mode := 0, active := .a, agreed := 0 } }
  let s := (s.modLeaf .a fun x => { x with guest := none }).modLeaf .b fun x => { x with guest := none }
  let s := if was = 1 then (s.askLegs .a).askLegs .b else s
  let s := if was = 1 then s.modFn .f1 fun x => { x with capsDone := false } else s
  let s := if s.serving .a then s else s.loseFn .f0
  if s.serving .b then s else s.loseFn .f1

/-- The leaf whose next meridian ends a protected mode: in twin mode the active leaf, else leaf A while it
renders, else leaf B (R406, DEDUCED, log entry 41). -/
def State.leaveLeaf (s : State) : LeafId :=
  if s.red.mode = 1 then s.red.active else if s.alive .a ∧ (s.leaf .a).fs ≠ 0 then .a else .b

/-- A change to independent mode takes effect (R406). -/
def State.doLeave (s0 : State) (l : LeafId) : State :=
  match s0.red.leaveAt with
  | none => s0
  | some c =>
    if s0.leaveLeaf ≠ l then s0
    else
      let s := ({ s0 with red := { s0.red with leaveAt := none } } : State).toIndependent
      (s.final c false sOk 0 (s.leaf l).nextTns).notify s0 c.tag

/-- `RED_MODE` from independent to twin, or a twin restore, which runs the same steps: why it cannot be
(R407, R409, R428), as a detail (DEDUCED, log entry 41). -/
def State.twinRefusal (s : State) (src : LeafId) (copyStores : Bool) : Option Nat :=
  if !s.paired || s.la.blocksTwin || s.lb.blocksTwin then some 0
  else if !copyStores && !(s.leaf src).scene.sameStores (s.leaf src.other).scene then some 1
  else none

/-- The scenes fit the partition that a `RED_MODE` body gives (R407, R426). -/
def State.partitionOk (s : State) (b : List Byte) : Bool :=
  let sa := leafOf (u8 b 1)
  let lo : Nat → Nat → Bool := fun k i => decide (i < k)
  let hi : Nat → Nat → Bool := fun k i => decide (k ≤ i)
  !(s.leaf sa).scene.outside (lo (u16 b 2)) (lo (u8 b 4)) (lo (u8 b 5)) &&
    !(s.leaf sa.other).scene.outside (hi (u16 b 2)) (hi (u8 b 4)) (hi (u8 b 5))

/-- `RED_MODE` (R406 to R408, R426, R431). A change to independent mode waits for the next meridian, so that
a verdict that is pending comes first (R420). -/
def specRedMode : Spec where
  op := 0x0E01
  present := twoLeaves
  fns := fun f => f == .f2
  len := fixedLen 24
  fields := fun s c =>
    let b := c.body
    let cap := feedCap (s.leaf (leafOf (u8 b 1))).clk.dom.rate
    [rng 0 (u8 b 0) 0 2, (1, u8 b 0 == 0 || decide (u8 b 1 < 2)),
     (2, if u8 b 0 = 2 then within 1 (cap - 1 : Int) (u16 b 2) else u16 b 2 == 0),
     (4, u8 b 0 != 2 || decide (u8 b 4 ≤ 64)), (5, u8 b 0 != 2 || decide (u8 b 5 ≤ 64)),
     (6, u8 b 0 != 2 || decide (u8 b 6 < 2)), (7, decide (u8 b 7 < 2)), resv c 8 8]
  run := fun c _ _ s =>
    let b := c.body
    let src := leafOf (u8 b 1)
    let dest := u8 b 0
    if s.red.changing || dest == s.red.mode || (dest != 0 && s.red.mode != 0) then { s := s, status := sBadState }
    else if dest = 0 then
      let t : State := { s.homeClaims c.tag with red := { (s.homeClaims c.tag).red with leaveAt := some c } }
      let l := s.leaveLeaf
      { s := if s.alive l = true ∧ (s.leaf l).fs ≠ 0 then t else t.doLeave l, mode := 2 }
    else if dest = 1 then
      match s.twinRefusal src (bit (u8 b 7) 0) with
      | some d => { s := s, status := sBadState, detail := d }
      | none => { s := s.startEntry 0 src (bit (u8 b 7) 0) (u64 b 16) c, mode := 2 }
    else if !s.paired || s.la.clk.dom.rate != s.lb.clk.dom.rate || !s.partitionOk b then { s := s, status := sBadState }
    else
      let clear : RedLeaf → RedLeaf := fun r => { r with ckpt := none, ckptGuest := none, transit := none, journal := [], lost := false }
      let s := (s.modRed .a clear).modRed .b clear
      { s := { s with red := { s.red with
          split := some c, sceneA := src, splitFeed := u16 b 2, splitTx := u8 b 4, splitRx := u8 b 5, copingScene := u8 b 6 } },
        mode := 2 }

/-- `RED_RESTORE` (R428, R431). -/
def specRedRestore : Spec where
  op := 0x0E02
  present := twoLeaves
  fns := fun f => f == .f2
  len := fixedLen 16
  fields := fun _ c => [rng 0 (u8 c.body 0) 0 1, (1, decide (u8 c.body 1 < 4)), resv c 2 6]
  run := fun c _ _ s =>
    let l := leafOf (u8 c.body 0)
    let hand := bit (u8 c.body 1) 0
    let stores := bit (u8 c.body 1) 1
    if s.red.mode = 0 ∨ s.red.changing = true ∨ s.paired = false ∨ (s.red.of l).claim ≠ 0 ∨ (s.red.of l.other).claim = 0 then
      { s := s, status := sBadState }
    else if s.red.mode = 1 then
      (match s.twinRefusal l.other stores with
       | some d => { s := s, status := sBadState, detail := d }
       | none => { s := s.startEntry 1 l.other stores (u64 c.body 8) c, mode := 2 })
    else if hand then
      (if (s.leaf l.other).guest.isNone then { s := s, status := sBadState }
       else { s := { s with red := { s.red with entry := some { op := 2, source := l.other, cmd := c } } }, mode := 2 })
    else
      { s := (s.grant l s.red.standbyClaim 6 c.tag).syncEvent 1 sOk 0 0 c.tag }

/-- The two leaves of a twin pair agree: no verdict holds either back (R431). -/
def State.agreeing (s : State) : Bool :=
  s.guarded && s.red.a.grant.isNone && s.red.b.grant.isNone && !s.red.a.withhold && !s.red.b.withhold

/-- A role swap takes effect at the active leaf's meridian (R429, R431): both claims change at once. -/
def State.doSwap (s0 : State) : State :=
  match s0.red.swapAt with
  | none => s0
  | some c =>
    let s := { s0 with red := { s0.red with swapAt := none } }
    if s.agreeing = false then s.final c false sBadState 0 0
    else
      let l := s.red.active
      let a := (s.red.of l).claim
      let b := (s.red.of l.other).claim
      let s := (s.modRed l fun r => { r with claim := s.red.standbyClaim, grant := none }).modRed l.other fun r =>
        { r with claim := s.red.activeClaim, grant := none }
      let s := (s.claimEvent l a s.red.standbyClaim 5 c.tag).claimEvent l.other b s.red.activeClaim 5 c.tag
      let s := { s with red := { s.red with active := l.other } }
      (s.final c false sOk 0 (s.leaf l.other).nextTns).notify s0 c.tag

/-- `RED_SWAP` (R429, R431). -/
def specRedSwap : Spec where
  op := 0x0E03
  present := twoLeaves
  fns := fun f => f == .f2
  len := fixedLen 8
  fields := fun _ c => [rng 0 (u8 c.body 0) 0 1, (1, u8 c.body 0 == 0 || decide (u8 c.body 1 < 2)), resv c 2 6]
  run := fun c _ _ s =>
    let l := leafOf (u8 c.body 1)
    if u8 c.body 0 = 0 then
      if s.twin = false ∨ s.red.changing = true ∨ s.agreeing = false then { s := s, status := sBadState }
      else
        let t := { s with red := { s.red with swapAt := some c } }
        { s := if (s.leaf s.red.active).fs = 0 then t.doSwap else t, mode := 2 }
    else if s.red.mode ≠ 2 ∨ s.red.changing = true ∨ s.alive .a = false ∨ s.alive .b = false ∨ (s.red.of l).lost = true then
      { s := s, status := sBadState }
    else { s := s.resetLeaf l }

/-- `RED_CONFIG` (R410, R431): claims in force change to their new numbers by grants. -/
def specRedConfig : Spec where
  op := 0x0E04
  present := twoLeaves
  fns := fun f => f == .f2
  len := fixedLen 8
  fields := fun _ c =>
    let b := c.body
    [rng 0 (u8 b 0) 2 15, rng 1 (u8 b 1) 1 (u8 b 0 - 1 : Int), rng 2 (u8 b 2) 0 2, resv c 3 5]
  run := fun c _ _ s =>
    let old := s.red
    let s := { s with red := { s.red with
      activeClaim := u8 c.body 0, standbyClaim := u8 c.body 1, demote := u8 c.body 2 } }
    let new : Nat → Nat := fun k => if k = old.activeClaim then u8 c.body 0 else if k = old.standbyClaim then u8 c.body 1 else k
    let step : State → LeafId → State := fun s l =>
      let r := s.red.of l
      let cur := (r.grant.map Grant.claim).getD r.claim
      if cur = 0 ∨ new cur = cur then s
      else s.grant l (new cur) ((r.grant.map Grant.cause).getD 0) c.tag
    { s := step (step s .a) .b }

/-- `state` of `RED_QUERY` (R431)
(DEDUCED, log entry 34). -/
def State.redState (s : State) : Nat :=
  let r := s.red
  if r.takeover.isSome then 3
  else if r.entry.isSome || r.split.isSome then 1
  else if r.mode = 1 then (if s.guarded then 0 else 2)
  else if r.mode = 2 then
    (if (s.paired && r.a.claim != 0 && r.b.claim != 0 && r.a.ckpt.isSome && r.b.ckpt.isSome ||
      (s.paired && (s.la.guest.isSome && r.b.ckptGuest.isSome || s.lb.guest.isSome && r.a.ckptGuest.isSome))) then 0 else 2)
  else 2

/-- `active` of `RED_QUERY` (R410, R431): the leaf that holds the active claim
(DEDUCED, log entry 34). -/
def State.redActive (s : State) : Nat :=
  if s.red.a.claim = s.red.activeClaim then 0 else if s.red.b.claim = s.red.activeClaim then 1 else 255

/-- Milliseconds since a leaf received its latest complete checkpoint, saturating
(DEDUCED, log entry 34). -/
def State.ckptAge (s : State) (l : LeafId) : Nat :=
  let r := s.red.of l
  if r.ckpt.isNone then 0 else min 65535 (((s.leaf l).now - r.ckptAt) / 1000000)

/-- `RED_QUERY` (R431)
(DEDUCED, log entry 34). -/
def specRedQuery : Spec where
  op := 0x0E05
  present := twoLeaves
  fns := fun f => f == .f2
  len := fixedLen 4
  fields := fun _ c => [resv c 0 4]
  run := fun _ _ _ s =>
    let r := s.red
    let split : Nat → Nat := fun v => if r.mode = 2 then v else 0
    let js : RedLeaf → Nat := fun q => (q.journal.filter Journal.since).length
    { s := s,
      resp := le8 r.mode ++ le8 s.redState ++ le8 s.redActive ++ le8 r.demote ++ le8 r.a.claim ++ le8 r.b.claim ++
        le16 (split (max (s.ckptAge .a) (s.ckptAge .b))) ++ le32 r.agreed ++ le32 r.divergences ++ le32 r.a.flags ++
        le32 r.b.flags ++ le32 r.unchecked ++ le16 (split (min 65535 (max (js r.a) (js r.b)))) ++ zeros 2 }

end Sys2Proof.Machine
end

