-- ==== Sys2Proof/Machine/Commands.lean ====
section
/-! DEFINITION. The commands by opcode, commands that come due (R53, R55 to R61), the bulk channel
(R78 to R82), what halts it, and one meaning for each command of the mailboxes. -/

namespace Sys2Proof.Machine

/-! The opcodes (R83, R84). -/

/-- Opcodes, part 1. -/
def specs0 : List Spec :=
  [specSysCaps,
   specSysBootLoad,
   specSysFwUpdate,
   specScnConfig,
   specScnClearAll,
   specObjConfigAll,
   specObjEnable,
   specObjSetPos,
   specObjBedAll,
   specObjAdmMap,
   specObjQuery,
   specLaySpeaker,
   specLaySegment,
   specLayCommit,
   specLayQuery,
   specRndConfig,
   specRndObjQuery,
   specOutFeedConfig,
   specOutBankLoadAll,
   specOutBankSwapAll,
   specOutSwapReserve,
   specOutSceneDelay,
   specOutFeedQuery,
   specOutBankQuery]

/-- Opcodes, part 2. -/
def specs1 : List Spec :=
  [specMeasTarget,
   specMeasStart,
   specMeasAbort,
   specMeasQuery,
   specMeasResult,
   specTrkConfig,
   specTrkBaseline,
   specTrkQuery,
   specVoxConfig,
   specVoxPool,
   specVoxGroup,
   specVoxPatchLoad,
   specVoxWaveLoad,
   specNoteEvents,
   specNoteUmp,
   specVoxChannelMap,
   specVoxQuery,
   specClipLoad,
   specClipCue,
   specClipPlay,
   specClipPause,
   specClipStop,
   specClipQuery,
   specRteDomain]

/-- Opcodes, part 3. -/
def specs2 : List Spec :=
  [specRteSource,
   specRteEgress,
   specRteBus,
   specRteBridge,
   specRteQuery,
   specMtrConfig,
   specMtrRead,
   specUcLoad,
   specUcAttach,
   specUcParam,
   specUcQuery,
   specNetPort,
   specNetRing,
   specNetFilter,
   specNetRxStream,
   specNetTxStream,
   specNetQuery,
   specNetStreamQuery,
   specClkTbSource,
   specClkServo,
   specClkTbAction,
   specClkVcxo,
   specClkPll,
   specClkTbQuery]

/-- Opcodes, part 4. -/
def specs3 : List Spec :=
  [specClkPllQuery,
   specMicClock,
   specMicEnable,
   specMicConfig,
   specMicRead,
   specMicQuery,
   specCopOutConfig,
   specCopCvConfig,
   specCopMute,
   specCopQuery,
   specRedMode,
   specRedRestore,
   specRedSwap,
   specRedConfig,
   specRedQuery,
   specTstBist,
   specTstMarch,
   specTstDramSweep,
   specTstDramFreq,
   specDiagConfig,
   specDiagRepair,
   specDiagTraceRead,
   specDiagMemQuery]

/-- Every command but `SYS_CANCEL`. -/
def specTable : List Spec := specs0 ++ specs1 ++ specs2 ++ specs3

/-- Take back what a command had staged before its effect. -/
def undoCmd (c : Cmd) (s : State) : State :=
  match specTable.find? fun sp => sp.op == c.op with
  | none => s
  | some sp => sp.undo c s

/-- What the chapter of an opcode says of it; none for an unknown one (R52 item 2). -/
def specOf (op : Nat) : Option Spec :=
  if op = 0x0102 then some (specSysCancel undoCmd) else specTable.find? fun sp => sp.op == op

/-! Commands that come due (R53, R55, R59, R61). -/

/-- A queued command's sample is the coming one, or has passed
(DEDUCED, log entry 18). -/
def Pend.due (p : Pend) (next : Nat) : Bool := decide (p.count ≤ next)

/-- The first due command in acceptance order, of those accepted before `bound`; one that waits for an
earlier one's transfer is not due (R53)
(DEDUCED, log entry 18). -/
def firstDue (next : Nat) (bound : Option Nat) (m : Mail) : Option Pend :=
  let waits : Pend → Bool := fun p => p.cmd.when_ == 0 && m.holds p.cmd.acc
  let early : Pend → Bool := fun p => match bound with
    | none => true
    | some k => decide (p.cmd.acc < k)
  m.queued.foldl (fun m p =>
    if !p.due next || waits p || !early p then m else match m with
      | none => some p
      | some q => if p.cmd.acc < q.cmd.acc then some p else some q) none

/-- A queued command reaches its meridian: its state checks and its effect run. A step that has
passed its sample makes it late (R59, R61)
(DEDUCED, log entry 18). -/
def applyPend (p : Pend) (s : State) : State :=
  let f := p.cmd.fn
  let s := s.modMail f fun m => { m with queued := m.queued.filter fun q => q.cmd.acc != p.cmd.acc }
  let late := p.late || (p.count != 0 && decide (p.count < (s.fnDom f).nextCount))
  match specOf p.cmd.op with
  | none => s.final p.cmd p.released sBadOpcode 0 0
  | some sp =>
    if late && bit p.cmd.flags 0 then (sp.undo p.cmd s).final p.cmd p.released sLate 0 0
    else applyNow sp p.cmd (p.prepared && !late) late p.released p.data s

/-- Carry out the first due command of a function accepted before `bound`, unless a takeover holds it
back (R39). -/
def applyFirst (bound : Option Nat) (f : FnId) (s : State) : State :=
  if s.takingOver f then s else
    match firstDue (s.fnDom f).nextCount bound (s.fn f).mail with
    | none => s
    | some p => applyPend p s

/-- Carry out every due command of a function in acceptance order (R53)
(DEDUCED, log entry 18). -/
def drainAll (f : FnId) (s : State) : State :=
  (List.range (s.fn f).mail.queued.length).foldl (fun s _ => applyFirst none f s) s

/-- Carry out the due commands that were accepted before one (R53)
(DEDUCED, log entry 18). -/
def drainDue (c : Cmd) (s : State) : State :=
  (List.range (s.fn c.fn).mail.queued.length).foldl (fun s _ => applyFirst (some c.acc) c.fn s) s

/-- `TIMED_COMMAND_APPLY` (R55, R59, R61): the first command due at the coming meridian has its
effect
(DESIGN CHOICE, log entry 1). -/
def execTimedCommandApply (f : FnId) (s : State) : Res := .next (applyFirst none f s)

/-- `POS_COMMIT_APPLY` (R73): a commit whose sample has come is applied, after every command of that
sample. -/
def execPosCommitApply (f : FnId) (s : State) : Res :=
  .next (if s.commitDue f then applyCommit f (drainAll f s) else s)

/-- Validate the oldest accepted command that nothing holds back (R39, R52, R54). -/
def validateNext (f : FnId) (s : State) : State :=
  let m := (s.fn f).mail
  match m.accepted with
  | [] => s
  | c :: rest =>
    if s.takingOver f || m.fence.isSome then s
    else validate (specOf c.op) drainDue c (s.modMail f fun m => { m with accepted := rest })

/-- `COMMAND_VALIDATED` (R52, R54)
(DESIGN CHOICE, log entry 1). -/
def execCommandValidated (f : FnId) (s : State) : Res := .next (validateNext f s)

/-! The bulk channel (R78 to R82). -/

/-- Halt a function's bulk channel: the transferring command completes with `INTERNAL_FAULT` or
`ABORTED`, the queued ones with `ABORTED`, without effect (R82). `cause` 0 is an uncorrectable error,
1 a completion error of the host, 2 Bus Master Enable cleared. -/
def State.haltDma (f : FnId) (cause : Nat) (s : State) : State :=
  let m := (s.fn f).mail
  if m.halted then s else
    let addr := match m.dma with
      | [] => 0
      | j :: _ => (j.refs.head?.map XferRef.addr).getD 0
    let s := s.modMail f fun m => { m with halted := true, dma := [] }
    let stop : Nat → State → DmaJob → State := fun status s j => (undoCmd j.cmd s).final j.cmd false status 0 0
    let s := match m.dma with
      | [] => s
      | j :: rest => rest.foldl (stop sAborted) (stop (if cause = 0 then sInternal else sAborted) s j)
    let s := s.event f { code := 0x01F4, severity := 3, leaf := s.leafByte f, time := s.fnNow f,
                         subject := 4294967295, payload := le8 cause ++ zeros 7 ++ le64 addr }
    s.raise f 7

/-- `DMA_HALT` (R82). -/
def execDmaHalt (f : FnId) (cause : Nat) (s : State) : Res :=
  .next (s.haltDma f (if cause = 0 then 0 else 1))

/-- `BUS_MASTER_DISABLE` (R31): the bulk channel halts; MSI-X messages and host rings stop. -/
def execBusMasterDisable (f : FnId) (s : State) : Res :=
  .next ((s.modMail f fun m => { m with bme := false }).haltDma f 2)

/-- A scene without what commands of a function, released with `DEFERRED`, have not yet done: queued
swaps, waiting selections and note records (R33). -/
def Scene.forget (f : FnId) (x : Scene) : Scene :=
  let mine : Cmd → Bool := fun c => c.fn == f
  let ids := (x.route.waits.filter fun w => mine w.cmd).map fun w => w.cmd.acc
  let accs := (x.vox.cmds.filter fun k => mine k.cmd).map fun k => k.cmd.acc
  let y := x.points.foldl (fun (y : Scene) p =>
    let q := y.sel p.1 p.2
    match q.waiting with
    | none => y
    | some w => if ids.contains w.seq then y.setSel p.1 p.2 { q with waiting := none } else y) x
  { y with
    route := { y.route with waits := y.route.waits.filter fun w => !mine w.cmd },
    vox := { y.vox with cmds := y.vox.cmds.filter fun k => !mine k.cmd,
                        pending := y.vox.pending.filter fun e => !accs.contains e.acc },
    out := { y.out with fades := y.out.fades.map fun (d : SwapFade) =>
      { d with waiting := d.waiting.filter fun p => !mine p.cmd } } }

/-- A function-level reset of one function: what its commands had staged is taken back, for none of
them takes effect any more (R33). -/
def State.flrFn (s : State) (f : FnId) : State :=
  let m := (s.fn f).mail
  let s := (m.queued.map Pend.cmd ++ m.dma.map DmaJob.cmd).foldl (fun s c => undoCmd c s) s
  let drop : Leaf → Leaf := fun x => { x with scene := x.scene.forget f, guest := x.guest.map (Scene.forget f) }
  (((s.modLeaf .a drop).modLeaf .b drop)).flr f

/-- `FUNCTION_LEVEL_RESET` (R33). -/
def execFunctionLevelReset (f : FnId) (s : State) : Res := .next (s.flrFn f)

/-- `LINK_HOT_RESET` (R34): a function-level reset of every function; the link is up afterwards. -/
def execLinkHotReset (s : State) : Res :=
  .next <|
    let s := ((s.flrFn .f0).flrFn .f1).flrFn .f2
    if s.plinth.supply then s.train else s

/-- Loads whose content goes to the peer's journal (R422): banks, patches and microcode
(DEDUCED, log entry 23). -/
def journalled (c : Cmd) : Bool := c.op == specOutBankLoad.op || c.op == specVoxPatchLoad.op || c.op == specUcLoad.op

/-- Put a load's content into its journal entry
(DEDUCED, log entry 23). -/
def State.journalData (s : State) (c : Cmd) (data : List Byte) : State :=
  if !journalled c then s else
    let put : Journal → Journal := fun j =>
      if j.cmd.fn = c.fn ∧ j.cmd.acc = c.acc then { j with data := data } else j
    [LeafId.a, .b].foldl (fun s l => s.modRed l fun r => { r with journal := r.journal.map put }) s

/-- The first reference of a function's channel finishes (R79): towards the host its bytes are in host
memory; towards the device `data` is what it brought. The last one of a command lets it go on
(DEDUCED, log entry 23; DESIGN CHOICE, log entry 43). -/
def transferDone (f : FnId) (data : List Byte) (s : State) : State :=
  match (s.fn f).mail.dma with
  | [] => s
  | j :: rest =>
    match j.refs with
    | [] => s
    | r :: refs =>
      if s.takingOver f || (!j.toHost && data.length != r.len) then s
      else
        let s := if j.toHost then s.send { kind := 1, unit := f.num, a := r.addr, data := j.out.take r.len } else s
        let k : DmaJob :=
          { j with refs := refs, data := if j.toHost then j.data else j.data ++ data, out := j.out.drop r.len }
        if refs ≠ [] then s.modMail f fun m => { m with dma := k :: rest }
        else
          let s := s.modMail f fun m => { m with dma := rest }
          if j.toHost then s.final j.cmd false sOk j.detail (if f = .f2 then 0 else s.appliedAt f)
          else match specOf j.cmd.op with
            | none => s.final j.cmd false sBadOpcode 0 0
            | some sp => schedule sp drainDue j.cmd k.data (s.journalData j.cmd k.data)

/-- `DMA_TRANSFER_DONE` (R79). -/
def execDmaTransferDone (f : FnId) (data : List Byte) (s : State) : Res := .next (transferDone f data s)

/-! Errors that may halt the channel, and the restored scene's journal. -/

/-- `ECC_UNCORRECTABLE` (R442). -/
def execEccUncorrectable (l : LeafId) (access course bank row slot : Nat) (feeds : List Nat) (again : Bool)
    (s : State) : Res :=
  .next (s.eccUncorrectable State.haltDma l access course bank row slot feeds again)

/-- `BUS_DECERR` (R453). -/
def execBusDecerr (l : LeafId) (master unit addr : Nat) (s : State) : Res :=
  .next (s.busDecerr State.haltDma l master unit addr)

/-- `DRAM_ECC` (R465). -/
def execDramEcc (l : LeafId) (master unit ch addr : Nat) (users : List (Nat × Nat)) (s : State) : Res :=
  .next (s.dramEcc State.haltDma l master unit ch addr users)

/-- Carry out a journalled command again, without its completions (R422)
(DEDUCED, log entry 24). -/
def rerun (c : Cmd) (data : List Byte) (s : State) : State :=
  match specOf c.op with
  | none => s
  | some sp =>
    if (checkCommand sp s c).1 ≠ sOk ∨ (sp.pre s c).1 ≠ sOk then s
    else (sp.run c false data (sp.stage c s)).s

/-- `SPLIT_TAKEOVER_RESTORE` (R423, R424). -/
def execSplitTakeoverRestore (l : LeafId) (s : State) : Res := .next (s.splitRestore rerun l)

/-! The mailbox commands: the host fills a slot and rings it (DESIGN CHOICE, log entry 1). -/

/-- `SYS_CAPS` (R3). -/
def execSysCaps (c : Cmd) (s : State) : Res := .next (issue specSysCaps drainDue c s)

/-- `SYS_CANCEL` (R63). -/
def execSysCancel (c : Cmd) (s : State) : Res := .next (issue (specSysCancel undoCmd) drainDue c s)

/-- `SYS_BOOT_LOAD` (R488). -/
def execSysBootLoad (c : Cmd) (s : State) : Res := .next (issue specSysBootLoad drainDue c s)

/-- `SYS_FW_UPDATE` (R495). -/
def execSysFwUpdate (c : Cmd) (s : State) : Res := .next (issue specSysFwUpdate drainDue c s)

/-- `SCN_CONFIG` (R144). -/
def execScnConfig (c : Cmd) (s : State) : Res := .next (issue specScnConfig drainDue c s)

/-- `SCN_CLEAR` (R143). -/
def execScnClear (c : Cmd) (s : State) : Res := .next (issue specScnClearAll drainDue c s)

/-- `OBJ_CONFIG` (R144). -/
def execObjConfig (c : Cmd) (s : State) : Res := .next (issue specObjConfigAll drainDue c s)

/-- `OBJ_ENABLE` (R144). -/
def execObjEnable (c : Cmd) (s : State) : Res := .next (issue specObjEnable drainDue c s)

/-- `OBJ_SET_POS` (R123). -/
def execObjSetPos (c : Cmd) (s : State) : Res := .next (issue specObjSetPos drainDue c s)

/-- `OBJ_BED` (R128). -/
def execObjBed (c : Cmd) (s : State) : Res := .next (issue specObjBedAll drainDue c s)

/-- `OBJ_ADM_MAP` (R138). -/
def execObjAdmMap (c : Cmd) (s : State) : Res := .next (issue specObjAdmMap drainDue c s)

/-- `OBJ_QUERY` (R144). -/
def execObjQuery (c : Cmd) (s : State) : Res := .next (issue specObjQuery drainDue c s)

/-- `LAY_SPEAKER` (R175). -/
def execLaySpeaker (c : Cmd) (s : State) : Res := .next (issue specLaySpeaker drainDue c s)

/-- `LAY_SEGMENT` (R175). -/
def execLaySegment (c : Cmd) (s : State) : Res := .next (issue specLaySegment drainDue c s)

/-- `LAY_COMMIT` (R151). -/
def execLayCommit (c : Cmd) (s : State) : Res := .next (issue specLayCommit drainDue c s)

/-- `LAY_QUERY` (R175). -/
def execLayQuery (c : Cmd) (s : State) : Res := .next (issue specLayQuery drainDue c s)

/-- `RND_CONFIG` (R175). -/
def execRndConfig (c : Cmd) (s : State) : Res := .next (issue specRndConfig drainDue c s)

/-- `RND_OBJ_QUERY` (R175). -/
def execRndObjQuery (c : Cmd) (s : State) : Res := .next (issue specRndObjQuery drainDue c s)

/-- `OUT_FEED_CONFIG` (R197). -/
def execOutFeedConfig (c : Cmd) (s : State) : Res := .next (issue specOutFeedConfig drainDue c s)

/-- `OUT_BANK_LOAD` (R197). -/
def execOutBankLoad (c : Cmd) (s : State) : Res := .next (issue specOutBankLoadAll drainDue c s)

/-- `OUT_BANK_SWAP` (R193). -/
def execOutBankSwap (c : Cmd) (s : State) : Res := .next (issue specOutBankSwapAll drainDue c s)

/-- `OUT_SWAP_RESERVE` (R191). -/
def execOutSwapReserve (c : Cmd) (s : State) : Res := .next (issue specOutSwapReserve drainDue c s)

/-- `OUT_SCENE_DELAY` (R186). -/
def execOutSceneDelay (c : Cmd) (s : State) : Res := .next (issue specOutSceneDelay drainDue c s)

/-- `OUT_FEED_QUERY` (R197). -/
def execOutFeedQuery (c : Cmd) (s : State) : Res := .next (issue specOutFeedQuery drainDue c s)

/-- `OUT_BANK_QUERY` (R197). -/
def execOutBankQuery (c : Cmd) (s : State) : Res := .next (issue specOutBankQuery drainDue c s)

/-- `MEAS_TARGET` (R220). -/
def execMeasTarget (c : Cmd) (s : State) : Res := .next (issue specMeasTarget drainDue c s)

/-- `MEAS_START` (R199). -/
def execMeasStart (c : Cmd) (s : State) : Res := .next (issue specMeasStart drainDue c s)

/-- `MEAS_ABORT` (R208). -/
def execMeasAbort (c : Cmd) (s : State) : Res := .next (issue specMeasAbort drainDue c s)

/-- `MEAS_QUERY` (R220). -/
def execMeasQuery (c : Cmd) (s : State) : Res := .next (issue specMeasQuery drainDue c s)

/-- `MEAS_RESULT` (R220). -/
def execMeasResult (c : Cmd) (s : State) : Res := .next (issue specMeasResult drainDue c s)

/-- `TRK_CONFIG` (R217). -/
def execTrkConfig (c : Cmd) (s : State) : Res := .next (issue specTrkConfig drainDue c s)

/-- `TRK_BASELINE` (R213). -/
def execTrkBaseline (c : Cmd) (s : State) : Res := .next (issue specTrkBaseline drainDue c s)

/-- `TRK_QUERY` (R220). -/
def execTrkQuery (c : Cmd) (s : State) : Res := .next (issue specTrkQuery drainDue c s)

/-- `VOX_CONFIG` (R256). -/
def execVoxConfig (c : Cmd) (s : State) : Res := .next (issue specVoxConfig drainDue c s)

/-- `VOX_POOL` (R251). -/
def execVoxPool (c : Cmd) (s : State) : Res := .next (issue specVoxPool drainDue c s)

/-- `VOX_GROUP` (R234). -/
def execVoxGroup (c : Cmd) (s : State) : Res := .next (issue specVoxGroup drainDue c s)

/-- `VOX_PATCH_LOAD` (R238). -/
def execVoxPatchLoad (c : Cmd) (s : State) : Res := .next (issue specVoxPatchLoad drainDue c s)

/-- `VOX_WAVE_LOAD` (R239). -/
def execVoxWaveLoad (c : Cmd) (s : State) : Res := .next (issue specVoxWaveLoad drainDue c s)

/-- `NOTE_EVENTS` (R242). -/
def execNoteEvents (c : Cmd) (s : State) : Res := .next (issue specNoteEvents drainDue c s)

/-- `NOTE_UMP` (R245). -/
def execNoteUmp (c : Cmd) (s : State) : Res := .next (issue specNoteUmp drainDue c s)

/-- `VOX_CHANNEL_MAP` (R256). -/
def execVoxChannelMap (c : Cmd) (s : State) : Res := .next (issue specVoxChannelMap drainDue c s)

/-- `VOX_QUERY` (R256). -/
def execVoxQuery (c : Cmd) (s : State) : Res := .next (issue specVoxQuery drainDue c s)

/-- `CLIP_LOAD` (R285). -/
def execClipLoad (c : Cmd) (s : State) : Res := .next (issue specClipLoad drainDue c s)

/-- `CLIP_CUE` (R285). -/
def execClipCue (c : Cmd) (s : State) : Res := .next (issue specClipCue drainDue c s)

/-- `CLIP_PLAY` (R282). -/
def execClipPlay (c : Cmd) (s : State) : Res := .next (issue specClipPlay drainDue c s)

/-- `CLIP_PAUSE` (R282). -/
def execClipPause (c : Cmd) (s : State) : Res := .next (issue specClipPause drainDue c s)

/-- `CLIP_STOP` (R282). -/
def execClipStop (c : Cmd) (s : State) : Res := .next (issue specClipStop drainDue c s)

/-- `CLIP_QUERY` (R285). -/
def execClipQuery (c : Cmd) (s : State) : Res := .next (issue specClipQuery drainDue c s)

/-- `RTE_DOMAIN` (R272). -/
def execRteDomain (c : Cmd) (s : State) : Res := .next (issue specRteDomain drainDue c s)

/-- `RTE_SOURCE` (R265). -/
def execRteSource (c : Cmd) (s : State) : Res := .next (issue specRteSource drainDue c s)

/-- `RTE_EGRESS` (R265). -/
def execRteEgress (c : Cmd) (s : State) : Res := .next (issue specRteEgress drainDue c s)

/-- `RTE_BUS` (R268). -/
def execRteBus (c : Cmd) (s : State) : Res := .next (issue specRteBus drainDue c s)

/-- `RTE_BRIDGE` (R274). -/
def execRteBridge (c : Cmd) (s : State) : Res := .next (issue specRteBridge drainDue c s)

/-- `RTE_QUERY` (R288). -/
def execRteQuery (c : Cmd) (s : State) : Res := .next (issue specRteQuery drainDue c s)

/-- `MTR_CONFIG` (R288). -/
def execMtrConfig (c : Cmd) (s : State) : Res := .next (issue specMtrConfig drainDue c s)

/-- `MTR_READ` (R270). -/
def execMtrRead (c : Cmd) (s : State) : Res := .next (issue specMtrRead drainDue c s)

/-- `UC_LOAD` (R307). -/
def execUcLoad (c : Cmd) (s : State) : Res := .next (issue specUcLoad drainDue c s)

/-- `UC_ATTACH` (R310). -/
def execUcAttach (c : Cmd) (s : State) : Res := .next (issue specUcAttach drainDue c s)

/-- `UC_PARAM` (R309). -/
def execUcParam (c : Cmd) (s : State) : Res := .next (issue specUcParam drainDue c s)

/-- `UC_QUERY` (R313). -/
def execUcQuery (c : Cmd) (s : State) : Res := .next (issue specUcQuery drainDue c s)

/-- `NET_PORT` (R341). -/
def execNetPort (c : Cmd) (s : State) : Res := .next (issue specNetPort drainDue c s)

/-- `NET_RING` (R323). -/
def execNetRing (c : Cmd) (s : State) : Res := .next (issue specNetRing drainDue c s)

/-- `NET_FILTER` (R341). -/
def execNetFilter (c : Cmd) (s : State) : Res := .next (issue specNetFilter drainDue c s)

/-- `NET_RX_STREAM` (R333). -/
def execNetRxStream (c : Cmd) (s : State) : Res := .next (issue specNetRxStream drainDue c s)

/-- `NET_TX_STREAM` (R337). -/
def execNetTxStream (c : Cmd) (s : State) : Res := .next (issue specNetTxStream drainDue c s)

/-- `NET_QUERY` (R341). -/
def execNetQuery (c : Cmd) (s : State) : Res := .next (issue specNetQuery drainDue c s)

/-- `NET_STREAM_QUERY` (R341). -/
def execNetStreamQuery (c : Cmd) (s : State) : Res := .next (issue specNetStreamQuery drainDue c s)

/-- `CLK_TB_SOURCE` (R343). -/
def execClkTbSource (c : Cmd) (s : State) : Res := .next (issue specClkTbSource drainDue c s)

/-- `CLK_SERVO` (R372). -/
def execClkServo (c : Cmd) (s : State) : Res := .next (issue specClkServo drainDue c s)

/-- `CLK_TB_ACTION` (R372). -/
def execClkTbAction (c : Cmd) (s : State) : Res := .next (issue specClkTbAction drainDue c s)

/-- `CLK_VCXO` (R372). -/
def execClkVcxo (c : Cmd) (s : State) : Res := .next (issue specClkVcxo drainDue c s)

/-- `CLK_PLL` (R370). -/
def execClkPll (c : Cmd) (s : State) : Res := .next (issue specClkPll drainDue c s)

/-- `CLK_TB_QUERY` (R372). -/
def execClkTbQuery (c : Cmd) (s : State) : Res := .next (issue specClkTbQuery drainDue c s)

/-- `CLK_PLL_QUERY` (R372). -/
def execClkPllQuery (c : Cmd) (s : State) : Res := .next (issue specClkPllQuery drainDue c s)

/-- `MIC_CLOCK` (R375). -/
def execMicClock (c : Cmd) (s : State) : Res := .next (issue specMicClock drainDue c s)

/-- `MIC_ENABLE` (R384). -/
def execMicEnable (c : Cmd) (s : State) : Res := .next (issue specMicEnable drainDue c s)

/-- `MIC_CONFIG` (R385). -/
def execMicConfig (c : Cmd) (s : State) : Res := .next (issue specMicConfig drainDue c s)

/-- `MIC_READ` (R389). -/
def execMicRead (c : Cmd) (s : State) : Res := .next (issue specMicRead drainDue c s)

/-- `MIC_QUERY` (R389). -/
def execMicQuery (c : Cmd) (s : State) : Res := .next (issue specMicQuery drainDue c s)

/-- `COP_OUT_CONFIG` (R404). -/
def execCopOutConfig (c : Cmd) (s : State) : Res := .next (issue specCopOutConfig drainDue c s)

/-- `COP_CV_CONFIG` (R404). -/
def execCopCvConfig (c : Cmd) (s : State) : Res := .next (issue specCopCvConfig drainDue c s)

/-- `COP_MUTE` (R402). -/
def execCopMute (c : Cmd) (s : State) : Res := .next (issue specCopMute drainDue c s)

/-- `COP_QUERY` (R404). -/
def execCopQuery (c : Cmd) (s : State) : Res := .next (issue specCopQuery drainDue c s)

/-- `RED_MODE` (R406). -/
def execRedMode (c : Cmd) (s : State) : Res := .next (issue specRedMode drainDue c s)

/-- `RED_RESTORE` (R428). -/
def execRedRestore (c : Cmd) (s : State) : Res := .next (issue specRedRestore drainDue c s)

/-- `RED_SWAP` (R431). -/
def execRedSwap (c : Cmd) (s : State) : Res := .next (issue specRedSwap drainDue c s)

/-- `RED_CONFIG` (R410). -/
def execRedConfig (c : Cmd) (s : State) : Res := .next (issue specRedConfig drainDue c s)

/-- `RED_QUERY` (R431). -/
def execRedQuery (c : Cmd) (s : State) : Res := .next (issue specRedQuery drainDue c s)

/-- `TST_BIST` (R492). -/
def execTstBist (c : Cmd) (s : State) : Res := .next (issue specTstBist drainDue c s)

/-- `TST_MARCH` (R492). -/
def execTstMarch (c : Cmd) (s : State) : Res := .next (issue specTstMarch drainDue c s)

/-- `TST_DRAM_SWEEP` (R468). -/
def execTstDramSweep (c : Cmd) (s : State) : Res := .next (issue specTstDramSweep drainDue c s)

/-- `TST_DRAM_FREQ` (R467). -/
def execTstDramFreq (c : Cmd) (s : State) : Res := .next (issue specTstDramFreq drainDue c s)

/-- `DIAG_CONFIG` (R498). -/
def execDiagConfig (c : Cmd) (s : State) : Res := .next (issue specDiagConfig drainDue c s)

/-- `DIAG_REPAIR` (R498). -/
def execDiagRepair (c : Cmd) (s : State) : Res := .next (issue specDiagRepair drainDue c s)

/-- `DIAG_TRACE_READ` (R498). -/
def execDiagTraceRead (c : Cmd) (s : State) : Res := .next (issue specDiagTraceRead drainDue c s)

/-- `DIAG_MEM_QUERY` (R498). -/
def execDiagMemQuery (c : Cmd) (s : State) : Res := .next (issue specDiagMemQuery drainDue c s)

end Sys2Proof.Machine
end

