-- ==== Sys2Proof/Machine/Render.lean ====
section
/-! DEFINITION. One sample of a scene: what each source delivers, the objects and their renderings
(chapters 5 and 6), the feeds and their output chain (chapters 3, 4 and 7), monitor buses, bridges,
meters and inserts (chapters 10 and 11). The order is that of R86 and R87. -/

namespace Sys2Proof.Machine

/-- The surroundings of one sample: its number, its meridian and the next one in tns, and the render
rate. -/
structure Pass where
  n : Nat
  t : Nat
  tNext : Nat
  rate : Nat

/-- Render rate of a pass in Hz. -/
def Pass.fs (p : Pass) : Nat := rateHz p.rate

/-- The pass of the coming sample of a leaf. -/
def Leaf.pass (x : Leaf) : Pass :=
  { n := x.next, t := x.nextTns, tNext := countTns x.fs (x.clk.dom.nextCount + 1), rate := x.clk.dom.rate }

/-- Push a sample into a delay line; a line that has held nothing but zeros stays empty
(DESIGN CHOICE, log entry 46). -/
def pushZ (n : Nat) (v : Int) (l : List Int) : List Int := if l.isEmpty && v == 0 then [] else push n v l

/-! Sources and selection points (R258 to R266, R274). -/

/-- What a bridge channel delivers at render sample n: its input 1.000 ms earlier through the 48-tap
kernel, whose coefficients the manual does not give, under the output level, as an A32 sample (R102, R274 to
R277)
(DESIGN CHOICE, log entry 19). -/
def Bridge.output (b : Bridge) (n : Nat) : Int :=
  if b.fifo.all fun v => v == 0 then 0
  else
    let v := sat32 (Config.of "bridge" (b.ratio :: (b.fill : Rat) :: b.fifo.map a40Val) * (2 : Rat) ^ 31).floor
    a32to40 (sat32 (roundEven ((v : Rat) * b.level.at_ n)))

/-- The course that holds a monitor bus (R291)
(DEDUCED, log entry 32). -/
def busCourse (i : Nat) : Nat := i / 2
/-- The course that holds an object (R291)
(DEDUCED, log entry 32). -/
def objCourse (i : Nat) : Nat := i / 64

/-- The value in A40 that a source reference delivers for sample n to a point; `obj` is the object
whose input reads a voice group (R259, R263, R442, R465). -/
def Leaf.source (x : Leaf) (n obj r : Nat) : Int :=
  let sc := x.scene
  let i := srcIndex r
  match srcKind r with
  | 1 => (sc.rx (i / 64)).now.getD (i % 64) 0
  | 2 => tget (sc.vgroup i).out obj 0
  | 3 =>
    let p := sc.player (i / 16)
    if x.ecc.quietClip.contains (i / 16, i % 16) then 0 else p.out (sc.clip p.clip) n (i % 16)
  | 4 => x.micSample i n
  | 5 => (sc.bridge i).output n
  | 6 => a32to40 (sc.feed i).run.out
  | 7 => if x.ecc.halted.contains (busCourse i) then 0 else (sc.bus i).out
  | 8 =>
    let o := sc.obj i
    if o.enabled || o.run.fade.busy (n - 1) || o.run.fade.at_ n != 0 then o.run.xo else 0
  | _ => 0

/-- What a selection point reads for sample n, with its cross-fade; a source of another domain reads
zero (R261, R265). -/
def Leaf.point (x : Leaf) (n kind i : Nat) : Int :=
  let v := x.scene.sel kind i
  let d := x.scene.pointDomain kind i
  let read : Nat → Int := fun r =>
    if x.scene.sameDomain d r then x.source n (if kind = 0 then i else 0) r else 0
  v.mix n (read v.old) (read v.src)

/-- The gain of the egress mux around a render restart: a fade out over 64 samples from its effect
sample, silence, and a fade in over 64 samples (R272, R409). -/
def Leaf.egressGain (x : Leaf) (n : Nat) : Rat :=
  let down : Rat := match x.clk.restart with
    | none => 1
    | some r => if r.silent then 0 else if n < r.first then 1 else if r.first + 64 ≤ n + 1 then 0
        else 1 - ((n - r.first + 1 : Nat) : Rat) / 64
  let up : Rat := match x.clk.fadeIn with
    | none => 1
    | some k => if n < k then 0 else if k + 64 ≤ n + 1 then 1 else ((n - k + 1 : Nat) : Rat) / 64
  down * up

/-- The A32 sample of an egress point: a feed unchanged, every other source rounded and clamped
(R264), under the egress gain. -/
def Leaf.egress (x : Leaf) (n kind i : Nat) : Int :=
  let v := x.point n kind i
  let a := sat32 (roundEven ((v : Rat) / 2))
  let g := x.egressGain n
  if g = 1 then a else if g = 0 then 0 else roundEven ((a : Rat) * g)

/-! Renderings (R120, R162, R164 to R171). -/

/-- The primes P(1) to P(47) (R165). -/
def primes : List Nat :=
  [2, 3, 5, 7, 11, 13, 17, 19, 23, 29, 31, 37, 41, 43, 47, 53, 59, 61, 67, 71, 73, 79, 83, 89, 97, 101] ++
  [103, 107, 109, 113, 127, 131, 137, 139, 149, 151, 157, 163, 167, 173, 179, 181, 191, 193, 197, 199, 211]

/-- Delay M of section j of decorrelator k (R165). -/
def sectionDelay (rate k j : Nat) : Nat := rateMul rate * primes.getD (4 * k + j - 1) 0

/-- One sample of an allpass section (R165). -/
def Allpass.step (q : Allpass) (m : Nat) (odd : Bool) (x : Int) : Allpass × Int :=
  let a := coef 22 (if odd then -(3 / 5) else 3 / 5)
  let y := coarseOut (accum 0 0 [(x, -a), (q.xs.getD (m - 1) 0, 4194304), (q.ys.getD (m - 1) 0, a)]).1
  ({ xs := pushZ m x q.xs, ys := pushZ m y q.ys }, y)

/-- One sample of decorrelator k: its four sections in cascade. -/
def decorrelate (rate k : Nat) (t : List (Nat × Allpass)) (x : Int) : List (Nat × Allpass) × Int :=
  (List.range 4).foldl (fun (a : List (Nat × Allpass) × Int) j =>
    let r := (tget a.1 (4 * k + j) {}).step (sectionDelay rate k j) ((k + j) % 2 == 1) a.2
    (tset a.1 (4 * k + j) r.1 {}, r.2)) (t, x)

/-- The signals of the virtual sources of a spread rendering: the input of the previous sample, and
that input through decorrelators 1 to 11. -/
def spreadSignals (rate : Nat) (t : List (Nat × Allpass)) (x : Int) : List (Nat × Allpass) × List Int :=
  (List.range 11).foldl (fun (a : List (Nat × Allpass) × List Int) k =>
    let r := decorrelate rate (k + 1) a.1 x
    (r.1, a.2 ++ [r.2])) (t, [x])

/-- The air-absorption low-pass (R162). -/
def airLp (b : Rat) (last x : Int) : Int :=
  if b = 0 then x else coarseOut (accum 0 0 [(last, c24unit b), (x, c24unit (1 - b))]).1

/-- The input stage of one rendering: state, render input, and whether A40 saturates (R120, R166)
(DEDUCED, log entry 37). -/
def Rendering.input (r : Rendering) (hist : List Int) (gc : Int) (b : Rat) : Rendering × Int × Bool :=
  if r.rend.mode = 2 then
    let y := airLp b r.lp (hist.headD 0)
    let line := pushZ 32016 y r.line
    let v := accum 3 0 [(line.getD r.rend.bulk 0, gc)]
    ({ r with lp := y, line := line }, coarseOut v.1, v.2 || coarseSat v.1)
  else
    let v := accum 3 0 [(hist.getD r.rend.bulk 0, gc)]
    let y := airLp b r.lp (coarseOut v.1)
    ({ r with lp := y }, y, v.2 || coarseSat v.1)

/-- A pair at sample n: its delay glides, or takes its target in the middle of a dip, from where its
amplitude rises (R170, R171)
(DEDUCED, log entry 37). -/
def WavePair.tick (q : WavePair) (n : Nat) : WavePair :=
  if q.dipAt ≠ 0 then
    if n < q.dipAt then q
    else { q with delay := q.target, step := 0, dipAt := 0,
                  amp := { start := 0, target := q.dipAmp, first := q.dipAt, len := q.dipLen } }
  else if n < q.from_ ∨ q.step = 0 then q
  else
    let left := q.target - q.delay
    { q with delay := if absQ left ≤ absQ q.step then q.target else q.delay + q.step }

/-- A contribution to a feed's render sum: feed, sample and coefficient in C24 with shift 0. -/
abbrev Part := Nat × Int × Int

/-- What one rendering adds to the feeds at sample n with a weight: hull gains of the current input,
virtual sources of the previous one, wavefront pairs of the source line (R86, R155 to R171). `xo` is
the render input and `gc` the combined gain of the pairs
(DEDUCED, log entry 37). -/
def Rendering.emit (r : Rendering) (p : Pass) (xo gc : Int) (w : Rat) : Rendering × List Part :=
  let hull : List Part := r.gains.map fun g => (g.1, xo, c24unit (g.2.at_ p.n * w))
  let s := if r.rend.mode = 1 then spreadSignals p.rate r.decor (r.xs.headD 0) else (r.decor, [])
  let spread : List Part := r.srcs.zipIdx.flatMap fun q =>
    q.1.map fun g => (g.1, s.2.getD q.2 0, c24unit (g.2.at_ p.n * w))
  let pairs := r.pairs.map fun q => q.tick p.n
  let wave : List Part := pairs.map fun q =>
    let y := waveRead r.line q.delay
    (q.speaker, coarseOut (accum 3 0 [(y, gc)]).1, c24unit (q.amp.at_ p.n * w))
  ({ r with xs := if xo = 0 ∧ r.xs.isEmpty = true then [] else [xo], decor := s.1,
            pairs := pairs.filter fun q => !(q.gone && q.amp.at_ p.n == 0) },
   (hull ++ spread ++ wave).filter fun a => a.2.1 != 0 && a.2.2 != 0)

/-! Objects (R119 to R126, R187, R188). -/

/-- The detector input of an object's latest sample: its delayed source before gain, or the source
line at the bulk delay in wavefront mode (R166, R188)
(DEDUCED, log entry 37). -/
def Obj.detIn (o : Obj) : Int :=
  let r := o.run.cur
  if r.rend.mode = 2 then r.line.getD r.rend.bulk 0 else o.run.hist.getD r.rend.bulk 0

/-- The input stage of an object for a sample whose source delivers `v`: the object, and whether A40
saturates (R120, R121, R160, R187, R188). The detector takes the latest sample in the course work before it. The render input is the one before any insert
(DEDUCED, log entry 37). -/
def Obj.input (o : Obj) (sc : Scene) (p : Pass) (v : Int) : Obj × Bool :=
  let f := o.cw p.n
  let dyn := f.flag 5
  let det := if !dyn then 0 else match o.run.detX with
    | none => o.run.det
    | some v => detStep 1 f.dynAttack f.dynRelease p.fs o.run.det (a40Val v)
  let dg := if dyn then dbAmp (compDb f.dynThr f.dynRatio 0 (detLevel 1 det)) else 1
  let dist := if p.n < o.run.distOn then o.run.dist.at_ p.n else distGain f sc.rend (vlen ((o.cwTraj p.n).pos p.t))
  let gc := c24 3 (o.run.gainR.at_ p.n * dg * dist)
  let b := o.run.air.at_ p.n
  let hist := pushZ 8192 v o.run.hist
  let c := o.run.cur.input hist gc b
  let run := { o.run with
    hist := hist, dynGain := dg, cur := c.1, xo := c.2.1,
    dist := if p.n < o.run.distOn then o.run.dist else Ramp.rest dist,
    xf := o.run.xf.map fun f => { f with old := (f.old.input hist gc b).1 } }
  let o : Obj := { o with run := run }
  ({ o with run := { run with det := det, detX := some o.detIn } }, c.2.2)

/-- The combined gain of an object at the latest sample that its input stage took, as a coefficient. -/
def Obj.gc (o : Obj) (p : Pass) : Int := c24 3 (o.run.gainR.at_ p.n * o.run.dynGain * o.run.dist.at_ p.n)

/-- The render input of the rendering that a cross-fade leaves, at the latest sample. -/
def ObjXfade.xo (f : ObjXfade) (o : Obj) (p : Pass) : Int :=
  if f.old.rend.mode = 2 then coarseOut (accum 3 0 [(f.old.line.getD f.old.rend.bulk 0, o.gc p)]).1 else f.old.lp

/-- The weight of an object in one of its placements (R135). -/
def ObjRun.weightIn (r : ObjRun) (cid n : Nat) : Rat :=
  if r.places.isEmpty then (if cid = 0 then 1 else 0)
  else ((r.places.find? fun q => q.cid == cid).map fun q => q.level.at_ n).getD 0

/-- What an object's own renderings add to the feeds (R122, R135, R144)
(DEDUCED, log entry 37). -/
def Obj.emit (o : Obj) (p : Pass) : Obj × List Part :=
  if !o.sounds p.n then (o, [])
  else
    let w := o.run.fade.at_ p.n * o.run.weightIn 0 p.n
    let gc := o.gc p
    match o.run.xf with
    | none =>
      let r := o.run.cur.emit p o.run.xo gc w
      ({ o with run := { o.run with cur := r.1 } }, r.2)
    | some f =>
      let k := f.level.at_ p.n
      let old := f.old.emit p (f.xo o p) gc (w * (1 - k))
      let new := o.run.cur.emit p o.run.xo gc (w * k)
      ({ o with run := { o.run with cur := new.1, xf := some { f with old := old.1 } } }, old.2 ++ new.2)

/-- Every object's input stage, in index order, with the inserts of point 0 (R291) and the meters'
saturation (R269): the scene, the `IN` values and the objects whose input saturated. -/
def Leaf.objectInputs (x : Leaf) (p : Pass) : Scene × List (Nat × Int) × List Nat :=
  let sc := x.scene
  sc.objs.objs.foldl (fun (a : Scene × List (Nat × Int) × List Nat) q =>
    let i := q.1
    let r := q.2.input sc p (x.point p.n 0 i)
    let raw := r.1.run.xo
    let xo := if x.ecc.halted.contains (objCourse i) then 0 else sc.insert 0 i p.n raw
    let o : Obj := { r.1 with run := { r.1.run with xo := xo, energy := pushZ 1024 xo r.1.run.energy } }
    (a.1.modObj i fun _ => o, a.2.1 ++ [(i, raw)], if r.2 then a.2.2 ++ [i] else a.2.2)) (sc, [], [])

/-- What an object gives to a cluster at a weight: its render input, or that of both renderings of its
cross-fade (R122, R131). -/
def Obj.share (o : Obj) (p : Pass) (w : Rat) : List (Int × Int) :=
  match o.run.xf with
  | none => [(o.run.xo, c24unit w)]
  | some f => [(f.xo o p, c24unit (w * (1 - f.level.at_ p.n))), (o.run.xo, c24unit (w * f.level.at_ p.n))]

/-- What a cluster adds to the feeds: its members' render inputs, summed and rendered (R131, R135)
(DEDUCED, log entry 37). -/
def Cluster.emit (c : Cluster) (sc : Scene) (p : Pass) : Cluster × List Part :=
  let parts := sc.objs.objs.flatMap fun q =>
    let w := q.2.run.weightIn c.cid p.n * q.2.run.fade.at_ p.n
    if !q.2.sounds p.n || w == 0 then [] else q.2.share p w
  let xo := coarseOut (accum 0 0 parts).1
  let one : Int := 524288
  let r := if c.render.rend.mode = 2 then { c.render with line := pushZ 32016 xo c.render.line } else c.render
  let e := r.emit p xo one 1
  ({ c with render := e.1 }, e.2)

/-- All contributions of a scene's objects and clusters to its feeds. -/
def Scene.emit (sc : Scene) (p : Pass) : Scene × List Part :=
  let own := sc.objs.objs.foldl (fun (a : Scene × List Part) q =>
    let r := q.2.emit p
    (a.1.modObj q.1 fun _ => r.1, a.2 ++ r.2)) (sc, [])
  let cl := sc.objs.clusters.map fun c => c.emit sc p
  ({ own.1 with objs := { own.1.objs with clusters := cl.map Prod.fst } },
   cl.flatMap (fun c => c.2) ++ own.2)

/-- Placements that have faded out are dropped, and clusters that no object is in any more (R135). -/
def Scene.foldTick (sc : Scene) (n : Nat) : Scene :=
  let y := sc.modObjs (sc.objs.objs.map Prod.fst) fun _ o =>
    let left := o.run.places.filter fun q => !(q.level.target == 0 && !q.level.busy n)
    let alone := left.all fun q => q.cid == 0 && !q.level.busy n
    { o with run := { o.run with places := if alone then [] else left } }
  let used := y.objs.objs.flatMap fun q => q.2.run.places.map Placement.cid
  { y with objs := { y.objs with clusters := y.objs.clusters.filter fun c => c.live || used.contains c.cid } }

/-! The gain solver at a sample (R153, R154, R163). -/

/-- An object keeps the direction of the last position beyond 1 mm (R126). -/
def Obj.keepDir (o : Obj) (p : Pass) : Obj :=
  { o with run := { o.run with dir := dirOf ((o.cwTraj p.n).pos p.t) o.run.dir } }

/-- Renderings that begin inside a block take the targets of the block's end at once (R153). -/
def Obj.solveFresh (o : Obj) (v : Solve) : Obj :=
  if !o.sounds v.n || !(o.run.cur.fresh || o.run.xf.any fun f => f.old.fresh) then o
  else
    let r := ((o.cwTraj v.n).solve v (o.cw v.n) (fun _ => false) Rendering.fresh).run
    { o with run := { o.run with cur := r.cur, xf := r.xf, air := r.air } }

/-- A jump within sample n: a point still pending, or one that a change has just made the anchor (R124,
R163). -/
def Obj.jumpsAt (o : Obj) (p : Pass) : Option Nat :=
  let here : Point → Bool := fun q => q.jump && decide (p.t ≤ q.t) && decide (q.t < p.tNext)
  match (o.points.filter here).getLast? with
  | some q => some q.t
  | none => if here o.anchor then some o.anchor.t else none

/-- An object follows a jump at the sample that contains it: the solver evaluates after it (R163). -/
def Obj.jump (o : Obj) (p : Pass) (x : Leaf) : Obj :=
  match o.jumpsAt p with
  | none => o
  | some t =>
    let held := match o.run.heldT with
      | some (k, _) => k == p.n
      | none => false
    let v := { x.changeSolve { n := p.n, prep := !held } with now := max t p.t }
    (o.resolve v fun _ => true).rampDist v

/-- The solver's work for the coming sample over the objects and clusters of a scene: jumps, the block that
begins there, and renderings that begin there. -/
def Leaf.solveScene (x : Leaf) (sc : Scene) : Scene :=
  let p := x.pass
  let k := x.clk.dom.nextCount
  let block := p.n % 16 == 0 && sc.objs.solved != some p.n
  let len := 16 - p.n % 16
  let sc := sc.modObjs (sc.objs.objs.map Prod.fst) fun _ o =>
    let o := (o.settle p.t).keepDir p
    if o.sounds p.n then o.jump p x else o
  let sc := if p.n % 16 = 0 then sc.leadOffsets p.n else sc
  let v : Solve := { n := p.n, first := p.n, len := len, now := p.t, last := countTns p.fs (k + len - 1),
                     mid := (List.range len).reverse.map fun j => countTns p.fs (k + j), fs := p.fs, rend := sc.rend, cSound := sc.rend.soundSpeed }
  let sc := if block then sc.solveBlock v else sc
  let sc := sc.modObjs (sc.objs.objs.map Prod.fst) fun _ o => o.solveFresh v
  let cl := sc.objs.clusters.map fun c => if c.render.fresh then c.solve sc v else c
  { sc with objs := { sc.objs with clusters := cl } }

/-- The scene as it still sounds at its effect sample after an unprepared `SCN_CLEAR` without a fade
(R143, R88). -/
def Scene.ghost (x : Scene) (n : Nat) : Option Scene :=
  match x.objs.ghost with
  | none => none
  | some (k, os, cl) => if n ≤ k then some { x with objs := { x.objs with objs := os, clusters := cl } } else none

/-- The solver's work for the coming sample. Answers the reports of a block (R168, R170). -/
def Leaf.solverStep (x : Leaf) : Leaf × List (Nat × Nat × List Byte) :=
  let n := x.next
  let block := n % 16 == 0 && x.scene.objs.solved != some n
  let sc := x.solveScene x.scene
  let old := (x.scene.ghost n).map fun g => (n, (x.solveScene g).objs.objs, (x.solveScene g).objs.clusters)
  let sc := { sc with objs := { sc.objs with ghost := old } }
  ({ x with scene := sc }, if block then waveReports sc n else [])

/-- Report what a solver block found (R168, R170, R176). -/
def State.solverReports (s : State) (l : LeafId) (reps : List (Nat × Nat × List Byte)) : State :=
  reps.foldl (fun s r =>
    s.reportOn (s.fnOf l) l
      { code := r.2.1, subject := r.1, sev := if r.2.1 = 0x03F1 then 2 else 1, width := 0, extra := r.2.2, count := 1 }) s

/-- `GAIN_SOLVER_BLOCK` (R153): the work of the gain solver for the coming sample. -/
def execGainSolverBlock (l : LeafId) (s : State) : Res :=
  .next <| s.eachScene l fun s =>
    let r := (s.leaf l).solverStep
    if (s.leaf l).fs = 0 then s else (s.setLeaf l r.1).solverReports l r.2

/-! Feeds (R177 to R189, R113, R442, R443). -/

/-- The course work of a feed before sample n takes its latest sample into the compressor's detector and the
limiter's smoothed gain, with the settings staged for n (R86, R88, R111, R187). -/
def Feed.course (f : Feed) (fs n : Nat) : Feed :=
  let c := f.cw n
  match f.run.seen with
  | none => { f with run := { f.run with det := if c.compMode = 0 then 0 else f.run.det } }
  | some q =>
    { f with run := { f.run with
        det := if c.compMode = 0 then 0 else detStep c.compMode c.compAttack c.compRelease fs f.run.det (a40Val q.1),
        s := limSmooth q.2 c.limRelease fs, seen := none } }

/-- The gain of a feed's compressor for sample n, from its detector after sample n − 1 (R187). -/
def Feed.compStep (f : Feed) (n : Nat) : Rat :=
  let c := f.cw n
  if c.compMode = 0 then 1 else dbAmp (compDb c.compThr c.compRatio c.compKnee (detLevel c.compMode f.run.det))

/-- The compressor gains of a scene's feeds for sample n: the feeds of a link group take the smallest
among them; a detector that is switched off is at 0 from the effect sample (R187, R197). -/
def Scene.compGains (sc : Scene) (p : Pass) : Scene :=
  let sc := sc.modFeeds (sc.out.feeds.map Prod.fst) fun _ f => f.course p.fs p.n
  let fs := sc.out.feeds.map fun q => (q.1, q.2.cw p.n, q.2.compStep p.n)
  let least : Nat → Rat → Rat := fun g own =>
    if g = 0 then own else fs.foldl (fun m q => if q.2.1.compMode ≠ 0 ∧ q.2.1.compLink = g then minQ m q.2.2 else m) own
  fs.foldl (fun y q => y.modFeed q.1 fun f =>
    let g := if q.2.1.compMode = 0 then 1 else least q.2.1.compLink q.2.2
    let det := if f.set.compMode = 0 then 0 else f.run.det
    { f with run := { f.run with compGain := g, det := det } }) sc

/-- The correction FIR over the chain inputs, newest first (R179): the output and whether it
saturates. -/
def Path.fir (q : Path) (h : List Int) : Int × Bool :=
  let ps := h.zip q.set.taps
  let v := accum q.shift 0 (ps.drop 1 ++ ps.take 1)
  (coarseOut v.1, v.2 || coarseSat v.1)

/-- One biquad section (R180): output, state and whether it saturates. -/
def Bq.step (z : Bq) (c : List Int) (x : Int) : Int × Bq × Bool :=
  let k : Nat → Int := fun i => c.getD i 0
  let v := accum 0 0 [(z.x1, k 1), (z.x2, k 2), (z.y1, -k 3), (z.y2, -k 4), (x, k 0)]
  let y := fineOut v.1
  (y, { x1 := x, x2 := z.x1, y1 := y, y2 := z.y1 }, v.2 || fineSat v.1)

/-- The biquad sections of a path in cascade. -/
def biquads (secs : List (List Int)) (st : List Bq) (x : Int) : Int × List Bq × Bool :=
  secs.zipIdx.foldl (fun (a : Int × List Bq × Bool) c =>
    let r := (st.getD c.2 {}).step c.1 a.1
    (r.1, a.2.1 ++ [r.2.1], a.2.2 || r.2.2)) (x, [], false)

/-- The clamp of R107 acts in a mix of two samples (R109). -/
def mixSat (old new : Int) (a b : Rat) : Bool := coarseSat (accum 0 0 [(old, c24unit a), (new, c24unit b)]).1

/-- One sample of a filter path: the path, the delayed output, and whether the FIR, the sections and the
delay's reads saturate (R109, R179 to R184). `t` is the tracking offset as rendered. -/
def Path.step (q : Path) (h : List Int) (t : Int) (fade : Option Rat) : Path × Int × Bool × Bool × Bool :=
  let v := q.fir h
  let b := biquads q.set.secs q.bqs v.1
  let line := pushZ 65540 b.1 q.line
  let at_ : Nat → Int := fun d => delayRead line ((d : Int) + t).toNat
  let over_ : Nat → Bool := fun d => delaySat line ((d : Int) + t).toNat
  let w := match fade with
    | none => (at_ q.d, over_ q.d)
    | some k => (coarseMix (at_ q.dOld) (at_ q.d) k, over_ q.d || over_ q.dOld || mixSat (at_ q.dOld) (at_ q.d) (1 - k) k)
  ({ q with bqs := b.2.1, line := line }, w.1, v.2, b.2.2, w.2)

/-- The weights of the old and the new path of a swap fade at sample n (R194). -/
def SwapFade.weights (f : SwapFade) (n : Nat) : Rat × Rat :=
  if n < f.first then (1, 0)
  else
    let x : Rat := minQ 1 (((n - f.first + 1 : Nat) : Rat) / (max 1 f.len : Nat))
    if f.curve = 0 then (1 - x, x) else (cosPi (x / 2), sinPi (x / 2))

/-- The mix of a swap fade under its weights (R194). -/
def SwapFade.mix (f : SwapFade) (n : Nat) (old new : Int) : Int :=
  let w := f.weights n
  if w.2 = 0 then old else coarseOut (accum 0 0 [(old, c24unit w.1), (new, c24unit w.2)]).1

/-- The finished sample under a poison bit, a cross-fade back and a fade-in after a course restart
(R442, R443)
(DEDUCED, log entry 39). -/
def FeedRun.finish (f : FeedRun) (n : Nat) (poisoned : Bool) (v : Int) : FeedRun :=
  let mix : Rat → Int → Int := fun g a => if g = 1 then a else roundEven ((a : Rat) * g)
  let faded : Nat → Int := fun k => mix (1 - ((min 32 (k - 1) : Nat) : Rat) / 32) f.heldOut
  if poisoned then
    if f.poison = 0 then { f with poison := 1, heldOut := f.out }
    else { f with poison := f.poison + 1, out := mix (f.mute.at_ n) (faded (f.poison + 1)) }
  else
    let g := if f.poison = 0 then f else
      { f with poison := 0, heldOut := faded f.poison, clean := { start := 0, target := 1, first := n, len := 32 } }
    let k := g.clean.at_ n
    let a := if k = 1 then v else roundEven ((1 - k) * (g.heldOut : Rat) + k * (v : Rat))
    { g with out := mix (g.mute.at_ n) a }

/-- The slew limiter of a feed takes its update for sample n, once (R189). -/
def Feed.slew (f : Feed) (n : Nat) (w : Int) : Feed :=
  if f.run.slewedAt = some n then f
  else
    let z := slewStep f.set.slewStep (f.cw n).slewInt n f.run.z w
    { f with run := { f.run with z := z, slewed := z != w, slewedAt := some n } }

/-- What one feed gives: the feed, its stage that saturates first, its `IN` values at the chain and
compressor inserts, and whether the limiter acted. -/
structure FeedOut where
  f : Feed
  sat : Option Nat := none
  u : Int := 0
  w : Int := 0
  limited : Bool := false

/-- The stage that `FEED_SATURATED` gives for a clamp in the alignment delay or in a swap fade's mix, for which
R109 names no number: open (DESIGN CHOICE, log entry 67). -/
def laterStage : Nat := (Config.of "laterStage" []).floor.toNat % 256

/-- The taps of the longer of a feed's FIRs (R518). -/
def Feed.taps (f : Feed) : Nat := max f.run.path.set.taps.length ((f.run.next.map fun q => q.set.taps.length).getD 0)

/-- One sample of a feed's chain in the order of R87 and R177, from its render sum. -/
def Feed.step (f : Feed) (sc : Scene) (p : Pass) (i : Nat) (sum : Int × Bool) (poisoned : Bool) : FeedOut :=
  let n := p.n
  let u := sc.inject p.fs 0 i n sum.1
  let h := sc.insert 1 i n u :: f.run.uHist
  let t := (f.run.glide.at_ n).floor
  let fade := f.run.delayF.map fun d => d.level.at_ n
  let a := f.run.path.step h t fade
  let z := f.run.next.map fun q => q.step h t fade
  let mixed : Int × Bool := match z with
    | none => (a.2.1, false)
    | some q => match sc.out.fades.find? fun s => s.feeds.contains i with
      | none => (a.2.1, false)
      | some s => (s.mix n a.2.1 q.2.1, mixSat a.2.1 q.2.1 (s.weights n).1 (s.weights n).2)
  let w := sc.inject p.fs 1 i n (sc.insert 2 i n mixed.1)
  let c := scale w f.run.compGain
  let g := limGain f.run.s f.set.limThr c
  let lim := limOut c g f.set.limThr
  let s := (f.slew n lim).run
  let out := ditherOut f.set.dither s.z (ditherValue (f.cw n).dither i f.run.dithers)
  let firSat := a.2.2.1 || z.any fun q => q.2.2.1
  let bqSat := a.2.2.2.1 || z.any fun q => q.2.2.2.1
  let lateSat := a.2.2.2.2 || mixed.2 || z.any fun q => q.2.2.2.2
  let run := { f.run with
    path := a.1, next := z.map (fun (q : Path × Int × Bool × Bool × Bool) => q.1), uHist := (if h.all fun v => v == 0 then [] else h.take (f.taps - 1)),
    seen := some (w, g), z := s.z, slewed := s.slewed, slewedAt := none, dithers := ditherNext f.run.dithers }
  { f := { f with run := run.finish n poisoned out },
    sat := if sum.2 then some 0 else if firSat then some 1 else if bqSat then some 2
      else if lateSat then some laterStage else none,
    u := u, w := mixed.1, limited := decide (g < 1) }

/-- A path that repeats its sample n − 1: its histories repeat their latest entries (R95)
(DESIGN CHOICE, log entry 46). -/
def Path.again (q : Path) : Path :=
  { q with line := (if q.line.isEmpty then [] else push 65540 (q.line.headD 0) q.line),
           bqs := q.bqs.map fun z => { z with x2 := z.x1, y2 := z.y1 } }

/-- A feed that repeats its finished sample; fades, glides and the dither generator go on, and the detector,
the smoothed gain and the slew limiter hold their values (R95)
(DESIGN CHOICE, log entry 46). -/
def Feed.again (f : Feed) : Feed :=
  { f with run := { f.run with
      path := f.run.path.again, next := f.run.next.map Path.again,
      uHist := (match f.run.uHist with
        | [] => []
        | u :: r => (u :: u :: r).take (f.taps - 1)),
      seen := none, slewedAt := none, dithers := ditherNext f.run.dithers } }

/-- Tracking keeps the finished samples of its window (R214). -/
def Feed.remember (f : Feed) (k : Nat) : Feed :=
  { f with run := { f.run with past := pushZ k f.run.out f.run.past } }

/-- Every feed of a scene for one sample: the scene, the saturated feeds with their first stage, and the
`IN` values. `same` feeds repeat their previous sample, `poisoned` ones carry a poison bit. -/
def Leaf.feedsStep (x : Leaf) (p : Pass) (parts : List Part) (same poisoned : List Nat) :
    Scene × List (Nat × Nat) × List (Nat × Int) × List Nat :=
  let sc := x.scene.compGains p
  (List.range (feedCap p.rate)).foldl (fun (a : Scene × List (Nat × Nat) × List (Nat × Int) × List Nat) i =>
    let f := sc.feed i
    let keep := sc.meas.track.keeps p.fs i
    if same.contains i then (a.1.modFeed i fun _ => f.again.remember keep, a.2.1, a.2.2.1, a.2.2.2)
    else
      let v := accum 0 0 ((parts.filter fun q => q.1 == i).map fun q => q.2)
      let r := f.step sc p i (coarseOut v.1, v.2 || coarseSat v.1) (poisoned.contains i)
      let muted := r.f.run.mute.target == 0
      (a.1.modFeed i fun _ => r.f.remember keep,
       (match r.sat with
        | some k => if muted then a.2.1 else a.2.1 ++ [(i, k)]
        | none => a.2.1),
       a.2.2.1 ++ [(1024 + i, r.u), (2048 + i, r.w)], if r.limited then a.2.2.2 ++ [i] else a.2.2.2)) (sc, [], [], [])

/-- `FEED_SLEW_UPDATE` (R189): for the coming sample the slew limiter of a feed moves towards its target
`w`, the limited sample in A40, by at most one step, or holds its value between multiples of its
interval. The keystone pass of that sample takes the value. -/
def execFeedSlewUpdate (l : LeafId) (feed : Nat) (w : Int) (s : State) : Res :=
  .next (s.eachScene l fun s => s.modLeaf l fun x =>
    if feedCap x.clk.dom.rate ≤ feed then x else x.modScene fun sc => sc.modFeed feed fun f => f.slew x.next w)

/-! Monitor buses, bridges and meters (R268 to R277). -/

/-- The output of a bus for sample n from its inputs' samples n − 1: the sum, the output after the
insert, and the `IN` value (R268, R291). -/
def Bus.step (b : Bus) (sc : Scene) (p : Pass) (i : Nat) : Bus × Int :=
  let sum := coarseOut (accum 3 0 (b.inputs.map fun q => (q.2.prev, c24 3 (q.2.ramp.at_ p.n)))).1
  let raw := coarseOut (accum 3 0 [(sum, c24 3 (b.ramp.at_ p.n))]).1
  ({ b with out := sc.insert 3 i p.n raw }, raw)

/-- Every bus of a scene. -/
def Scene.busesStep (sc : Scene) (p : Pass) : Scene × List (Nat × Int) :=
  sc.route.buses.foldl (fun (a : Scene × List (Nat × Int)) q =>
    let r := q.2.step sc p q.1
    (a.1.modBus q.1 fun _ => r.1, a.2 ++ [(3072 + q.1, r.2)])) (sc, [])

/-- The inputs of buses and outbound bridges take their sources' samples n
(DEDUCED, log entry 38). -/
def Leaf.tapInputs (x : Leaf) (p : Pass) : Scene :=
  let sc := x.scene
  let y := sc.route.buses.foldl (fun (y : Scene) q =>
    q.2.inputs.foldl (fun (y : Scene) r =>
      y.modBus q.1 fun b => { b with inputs := tmod b.inputs r.1 busIn0 fun v => { v with prev := x.point p.n 3 (q.1 * 64 + r.1) } }) y) sc
  sc.route.bridges.foldl (fun (y : Scene) q =>
    if q.2.passes 2 p.n then y.modBridge q.1 fun b => { b with fifo := pushZ (p.fs / 200 + 48) (x.point p.n 4 q.1) b.fifo } else y) y

/-- A bus output that some egress point carries is clamped by the reduction of R264
(DEDUCED, log entry 38). -/
def Scene.busClamped (sc : Scene) (n i : Nat) : Bool :=
  let v := roundEven (((sc.bus i).out : Rat) / 2)
  let uses : Sel → Bool := fun q => (q.sources n).any fun r => srcKind r == 7 && srcIndex r == i
  sat32 v != v && ((sc.route.egress.any fun q => uses q.2) || sc.route.coping.any fun q => uses q.2)

/-- The meters take sample n: object taps, feeds and buses (R269)
(DEDUCED, log entry 38). -/
def Leaf.metersStep (x : Leaf) (p : Pass) (satObjs limited : List Nat) : Scene :=
  let sc := x.scene
  let m := sc.route.meters
  let win := m.set.rms * p.fs / 1000
  let o := sc.objs.objs.foldl (fun (t : List (Nat × Meter)) q =>
    tset t q.1 ((tget t q.1 meter0).take win (x.source p.n 0 (srcRef 8 q.1)) (satObjs.contains q.1)) meter0) m.objs
  let f := (List.range (feedCap p.rate)).foldl (fun (t : List (Nat × Meter)) i =>
    tset t i ((tget t i meter0).take win (a32to40 (sc.feed i).run.out) (limited.contains i)) meter0) m.feeds
  let b := sc.route.buses.foldl (fun (t : List (Nat × Meter)) q =>
    tset t q.1 ((tget t q.1 meter0).take win (x.source p.n 0 (srcRef 7 q.1)) (sc.busClamped p.n q.1)) meter0) m.buses
  { sc with route := { sc.route with meters := { m with objs := o, feeds := f, buses := b } } }

/-! The sample of one scene. -/

/-- What a scene's sample reports: saturated feeds with their first stage. -/
structure Rendered where
  x : Leaf
  sat : List (Nat × Nat) := []

/-- Course work and keystone pass of one sample of the scene that stands on a leaf (R86, R87): objects,
clusters, buses, feeds, inserts and meters. Voices, players, streams, microcode and the solver have
their sample already. -/
def Leaf.render (x : Leaf) (same poisoned : List Nat) : Rendered :=
  let p := x.pass
  let b := x.scene.busesStep p
  let x := { x with scene := b.1 }
  let o := x.objectInputs p
  let e := o.1.emit p
  let was := ((x.scene.ghost p.n).map fun g => ((({ x with scene := g } : Leaf).objectInputs p).1.emit p).2).getD []
  let y := e.1.foldTick p.n
  let x := { x with scene := { y with objs := { y.objs with ghost := none } } }
  let f := x.feedsStep p (was ++ e.2) same poisoned
  let x := { x with scene := f.1 }
  let x := { x with scene := x.tapInputs p }
  let x := { x with scene := (x.metersStep p o.2.2 f.2.2.2).setIns (o.2.1 ++ f.2.2.1 ++ b.2) }
  { x := x, sat := f.2.1 }

end Sys2Proof.Machine
end

