-- ==== Sys2Proof/Machine/Meridian.lean ====
section
/-! DEFINITION. The render tick (R85 to R96): time moves on to the meridian, side domains tick, what
ends or comes due at the sample takes effect, the scene is rendered, and the finished sample goes to the
streams, the coping and the peer. -/

namespace Sys2Proof.Machine

/-! Time (R343, R362). -/

/-- Render cycles from now to the first render-clock edge at or after the instant of a media-clock
count. -/
def TimeBase.cyclesTo (t : TimeBase) (fs c : Nat) : Nat :=
  let want := (c * (1000000000 * 2 ^ 51) + 5 * fs - 1) / (5 * fs)
  let rate := max 1 (((2 : Int) ^ 48 + t.y).toNat)
  (want - t.t + rate - 1) / rate

/-- The coming meridian comes: every time base of the leaf moves on to it
(DESIGN CHOICE, log entry 15). -/
def Leaf.toMeridian (x : Leaf) : Leaf :=
  let d := x.clk.dom
  x.passCycles ((x.tb d.tb).cyclesTo x.fs d.nextCount)

/-! Streams of one domain (R330 to R337). -/

/-- One sample of the ingress streams of a domain: the leaf, and the streams that concealed it with
their cause. -/
def Leaf.rxTick (x : Leaf) (d fs c m : Nat) : Leaf × List (Nat × Nat) :=
  (x.scene.net.rx.filter fun q => q.2.set.domain == d).foldl (fun a q =>
    let r := q.2.tick fs c m
    (a.1.modScene fun sc => sc.modRx q.1 fun _ => r.1, if r.2 then a.2 ++ [(q.1, r.1.cause)] else a.2)) (x, [])

/-- One sample of the egress streams of a domain, of media-clock count `c`, at render sample `n`. -/
def Leaf.txTick (x : Leaf) (d c n : Nat) : Leaf :=
  (x.scene.net.tx.filter fun t => t.2.set.domain == d).foldl (fun y t =>
    y.modScene fun sc => sc.modTx t.1 fun u => u.tick c n fun i => x.egress n 1 (t.1 * 64 + i)) x

/-- The inputs of the inbound bridge channels of a side domain (R274, R276). -/
def Leaf.inboundTick (x : Leaf) (d fs n : Nat) : Leaf :=
  (x.scene.route.bridges.filter fun b => b.2.passes 1 n && b.2.domain == d).foldl (fun y b =>
    y.modScene fun sc => sc.modBridge b.1 fun q => { q with fifo := pushZ (fs / 200 + 48) (x.point n 4 b.1) q.fifo }) x

/-- The counts of a side domain whose instants have come. -/
def Leaf.sideCounts (x : Leaf) (d : Nat) : List Nat :=
  let k := x.domain d
  let fs := rateHz k.rate
  if fs = 0 then [] else
    let last := (x.tb k.tb).countNow fs
    (List.range (min 64 (last + 1 - k.nextCount))).map fun i => k.nextCount + i

/-- The ticks of a side domain for the scene that stands on a leaf. -/
def Leaf.sideScene (x : Leaf) (d n : Nat) : Leaf × List (Nat × Nat) :=
  let k := x.domain d
  let fs := rateHz k.rate
  (x.sideCounts d).zipIdx.foldl (fun a p =>
    let r := a.1.rxTick d fs p.1 (k.sample + 1 + p.2)
    ((r.1.inboundTick d fs n).txTick d p.1 n, a.2 ++ r.2)) (x, [])

/-- A side domain after its ticks. -/
def Leaf.sideDone (x : Leaf) (d : Nat) : Leaf :=
  match (x.sideCounts d).getLast? with
  | none => x
  | some c => x.modDomain d fun k => { k with sample := k.sample + (x.sideCounts d).length, count := c, minNext := 0 }

/-- `NET_STREAM_CONCEAL` (R332). -/
def State.concealed (s : State) (l : LeafId) (reps : List (Nat × Nat)) : State :=
  reps.foldl (fun s r => s.report l 0x0AF1 2 r.1 1 (le8 r.2)) s

/-- The ticks of both side domains up to the leaf's present time. -/
def State.sideTicks (s : State) (l : LeafId) (n : Nat) : State :=
  [1, 2].foldl (fun s d =>
    let s := s.eachScene l fun s =>
      let r := (s.leaf l).sideScene d n
      (s.setLeaf l r.1).concealed l r.2
    s.modLeaf l fun x => x.sideDone d) s

/-! What ends at the coming sample. -/

/-- The completions of the waiting selections that start at sample `n`, with the scene. -/
def Scene.startSels (x : Scene) (n : Nat) : Scene × List Done :=
  x.points.foldl (fun a p =>
    let r := a.1.startSel n p
    (r.1, a.2 ++ r.2)) (x, [])

/-- Everything that ends at the coming sample on the scene that stands on a leaf: clears and bed
removals, object cross-fades, ADM overflow, swap and delay fades, bridge re-centrings, clips, notes
and meter frames. -/
def Leaf.ends (x : Leaf) (l : LeafId) : LEff :=
  let n := x.next
  let x := x.clearReturn
  let x := x.scene.objs.beds.foldl (fun x d => x.bedEnd d.base) x
  let x := x.modScene fun sc => sc.modObjs (sc.objs.objs.map Prod.fst) fun _ o => o.xfadeEnd n
  let a := x.admSettle { leaf := l, n := n, prep := true }
  let x := a.1
  let e : LEff := (x.scene.out.fades.map SwapFade.bank).eraseDups.foldl (fun e k =>
    let r := endSwap { leaf := l, n := n, prep := true } k e.x
    { x := r.x, evs := e.evs ++ r.evs, done := e.done ++ r.done }) { x := x }
  let x := e.x.modScene fun sc => sc.modFeeds (sc.out.feeds.map Prod.fst) fun _ f => f.delayEnd n
  let x := x.modScene fun sc => sc.route.bridges.foldl (fun sc p => sc.modBridge p.1 fun b => b.tick n) sc
  let p := x.beginPlayers n
  let x := p.1.modScene fun sc => (sc.voxTick n).meterFrame n x.clk.dom.rate x.nextTns
  { x := x, evs := a.2 ++ e.evs ++ p.2, done := e.done }

/-! Commands, notes and commits that come due. -/

/-- In twin mode the leaf that is ahead brings a function's commands to both leaves at the same sample
(R36). -/
def State.leads (s : State) (l : LeafId) : Bool :=
  !(s.twin && s.serving l.other && !(s.red.of l.other).lost && decide ((s.leaf l).next < (s.leaf l.other).next))

/-- Apply every commit of a function that is due, in commit order (R73). -/
def State.commits (s : State) (f : FnId) : State :=
  (List.range (s.fn f).mail.posQ.length).foldl (fun s _ => applyCommit f s) s

/-- The claims and the mode that change at a leaf's meridian (R20, R406, R411, R431). -/
def State.claims (s : State) (l : LeafId) : State :=
  let s := (s.applyGrant l).claimReturn l
  (if s.twin = true ∧ s.red.active = l then s.doSwap else s).doLeave l

/-- Everything before the rendering of the coming sample: claims, time, side domains, what ends, and
what comes due: commands, then note events, then position commits; a selection that waited starts unless
one of these commands has superseded it (R267)
(DESIGN CHOICE, log entry 17). -/
def State.startSample (s : State) (l : LeafId) : State :=
  let n := (s.leaf l).next
  let s := (s.claims l).modLeaf l Leaf.toMeridian
  let s := (s.sideTicks l n).eachScene l fun s => s.leafStep l fun x => x.ends l
  let lead := s.leads l
  let fs := s.actsOn l
  let s := if lead then fs.foldl (fun s f => drainAll f s) s else s
  let s := s.eachScene l fun s => s.noteStep l
  let s := if lead then fs.foldl State.commits s else s
  let s := s.eachScene l fun s => s.leafStep l fun x =>
    let q := x.scene.startSels n
    { x := { x with scene := q.1 }, done := q.2 }
  s.eachScene l fun s => (s.modLeaf l fun x => x.modScene fun sc => sc.trackDue n).measFinish l

/-! The sample. -/

/-- Feeds that a lane holds, by the render rate (R92). -/
def laneFeeds (rate course lane : Nat) : List Nat :=
  if rate = 5 ∨ rate = 6 then [course * 64 + lane] else [course * 128 + 2 * lane, course * 128 + 2 * lane + 1]

/-- The feeds that repeat their previous sample: those of courses that overran, and those of lanes with
a failed residue check (R95, R413). -/
def Leaf.sameFeeds (x : Leaf) (overruns : List (Nat × Nat)) (residues : List (Nat × Nat × Nat)) : List Nat :=
  let rate := x.clk.dom.rate
  (overruns.filter fun o => !x.ecc.halted.contains o.1).flatMap (fun o => courseFeeds rate o.1) ++
    residues.flatMap fun r => laneFeeds rate r.1 r.2.1

/-- Reports of the inserts of a sample (R301, R314). -/
def State.ucReports (s : State) (l : LeafId) (reps : List (Nat × Nat × List Nat)) : State :=
  reps.foldl (fun s r => if r.2.1 = 0 then s else s.report l 0x09F2 1 r.1 r.2.1 []) s

/-- Course work and keystone pass of the coming sample for the scene that stands on a leaf, with its
domain-0 streams and its reports (R86, R109). `c` is the media-clock count
(DESIGN CHOICE, log entry 17). -/
def State.renderScene (s : State) (l : LeafId) (c : Nat) (same : List Nat) : State :=
  let v := (s.leaf l).solverStep
  let s := (s.setLeaf l v.1).solverReports l v.2
  let x := s.leaf l
  let p := x.pass
  let x := x.modScene fun sc => sc.voxSample p.fs p.n x.ecc.quietOsc
  let u := x.scene.runMicrocode p.rate p.n
  let r := ({ x with scene := u.1 } : Leaf).rxTick 0 p.fs c p.n
  let poisoned := (x.ecc.poison.flatMap PoisonWord.feeds) ++ x.ecc.once
  let q := r.1.render same poisoned
  let s := ((s.setLeaf l (q.x.txTick 0 c p.n)).concealed l r.2).ucReports l u.2
  q.sat.foldl (fun s f => s.report l 0x04F0 2 f.1 1 (le8 f.2) true) s

/-! The coping, the digest and the self-flag. -/

/-- The coping samples of the scene that stands on a leaf (R391). -/
def Leaf.copVals (x : Leaf) (n : Nat) : List (Nat × Int) :=
  ((List.range 32).map fun k => (k, x.egress n 2 k)).filter fun p => p.2 != 0

/-- What a leaf delivers to the coping: its own selections; after a split takeover those of the coping
scene (R391, R425)
(DEDUCED, log entry 25). -/
def State.copDeliver (s : State) (l : LeafId) (n : Nat) : List (Nat × Int) :=
  let x := s.leaf l
  let copFn : FnId := if s.red.copingScene = 0 then .f0 else .f1
  if s.red.mode ≠ 2 ∨ (s.red.of l.other).lost = false ∨ s.fnOf l = copFn then x.copVals n
  else match x.guest with
    | none => []
    | some _ => x.swapGuest.copVals n

/-- A course's collector entries as bytes: two A32 samples of a lane, or one and 32 unused bits (R94). -/
def Leaf.collector (x : Leaf) (course : Nat) : List Byte :=
  let quad := rateMul x.clk.dom.rate == 4
  (courseFeeds x.clk.dom.rate course).flatMap fun f =>
    le32 (unsigned 32 (x.scene.feed f).run.out) ++ if quad then zeros 4 else []

/-- The bytes of every egress point but for the collector's feeds (R412)
(DEDUCED, log entry 39). -/
def Leaf.otherBytes (x : Leaf) (n : Nat) : List Byte :=
  (x.scene.route.egress.flatMap fun p => le32 (unsigned 32 (x.egress n 1 p.1))) ++
    x.scene.route.coping.flatMap fun p => le32 (unsigned 32 (x.egress n 2 p.1))

/-- The sample's self-flag (R413)
(DEDUCED, log entry 26). -/
def Leaf.selfFlag (x : Leaf) (overruns : List (Nat × Nat)) (residues : List (Nat × Nat × Nat)) : Bool :=
  !overruns.isEmpty || !residues.isEmpty || x.ecc.flag || !x.ecc.halted.isEmpty || x.clk.alarm

/-- The leaf's class-0 message of a sample (R412)
(DEDUCED, log entry 39). -/
def Leaf.message (x : Leaf) (n stamp : Nat) (flag : Bool) : Msg :=
  { sample := n, stamp := stamp, crcs := (List.range 8).map fun i => crc32 (x.collector i),
    other := crc32 (x.otherBytes n), flag := flag }

/-- `COURSE_OVERRUN` for the courses that overran and for those that a program error has halted (R96,
R442), and `RED_RESIDUE` outside twin mode (R413, R432)
(DEDUCED, log entry 26). -/
def State.faultReports (s : State) (l : LeafId) (n : Nat) (overruns : List (Nat × Nat))
    (residues : List (Nat × Nat × Nat)) : State :=
  let halted := (s.leaf l).ecc.halted
  let one : State → Nat → Nat → State := fun s course cycles =>
    s.leafEvent l 0x09F0 3 course (le32 (n % 4294967296) ++ le32 cycles)
  let s := overruns.foldl (fun s o => if halted.contains o.1 then s else one s o.1 o.2) s
  let s := halted.foldl (fun s course =>
    let d := s.fresh "cyclesLeft"
    one d.2 course (d.1 % 4294967296)) s
  if s.twin then s else
    residues.foldl (fun s r =>
      s.reportOn .f2 l
        { code := 0x0EF3, subject := 4294967295, key := l.num, sev := 2,
          front := le8 l.num ++ le8 r.1 ++ le8 r.2.1, count := r.2.2 }) s

/-- The finished sample leaves the render: to the coping, to the peer and to the ports; players move on
and the time bases' policies decide (R94, R355, R391, R412, R415)
(DESIGN CHOICE, log entry 17; DEDUCED, log entry 26). -/
def State.closeSample (s : State) (l : LeafId) (n c stamp : Nat) (overruns : List (Nat × Nat))
    (residues : List (Nat × Nat × Nat)) : State :=
  let vals := s.copDeliver l n
  let s := s.modLeaf l fun x => { x with copPrev := x.cop, cop := { sample := n, vals := vals } }
  let flag := (s.leaf l).selfFlag overruns residues
  let s := s.modRed l fun r => { r with flags := if flag then min 4294967295 (r.flags + 1) else r.flags }
  let s := if s.twin then
      let m := (s.leaf l).message n stamp flag
      s.modRed l fun r => { r with own := some m, sent := some m }
    else s
  let s := s.faultReports l n overruns residues
  let s := s.eachScene l fun s => s.releaseAll l
  let s := s.modLeaf l fun x =>
    ({ x with ecc := { x.ecc with once := [], quietOsc := [], quietClip := [], flag := false } } : Leaf)
  let s := s.eachScene l fun s => s.modLeaf l fun x => x.modScene fun sc => sc.advancePlayers n
  let s := s.modLeaf l fun x => x.modDomain 0 fun d => { d with count := c, minNext := 0 }
  (List.range 4).foldl (fun s i => (s.planTb l i).decideTb l i) s

/-- A leaf renders: it runs, its pulse has not stopped, no logic BIST holds it, and it has a rate. -/
def State.renders (s : State) (l : LeafId) : Bool :=
  s.serving l && !(s.leaf l).stopped && (s.leaf l).fs != 0

/-- The silent interval of a restart has come (R272). -/
def Leaf.fallSilent (x : Leaf) : Leaf :=
  match x.clk.restart with
  | none => x
  | some r => if x.next < r.first + 64 then x else { x with clk := { x.clk with restart := some { r with silent := true } } }

/-- A leaf in the silent interval renders nothing; before a joint restart it renders on behind a closed
egress (R272, R408). -/
def Leaf.silentNow (x : Leaf) : Bool :=
  match x.clk.restart with
  | none => false
  | some r => r.silent && !r.joint

/-- One render tick of a leaf: `overruns` gives the courses that have not finished their work and the
cycles left, `residues` the lanes whose residue check failed, as course, lane and failed checks
(DESIGN CHOICE, log entry 15; DESIGN CHOICE, log entry 17; DESIGN CHOICE, log entry 44). -/
def State.meridian (s0 : State) (l : LeafId) (overruns : List (Nat × Nat)) (residues : List (Nat × Nat × Nat)) : State :=
  if !s0.renders l then s0 else
    let s := s0.modLeaf l Leaf.fallSilent
    let x := s.leaf l
    if x.silentNow then s else
      let n := x.next
      let c := x.clk.dom.nextCount
      let overruns := overruns.filter fun o => decide (o.1 < 8)
      let residues := residues.filter fun r => decide (r.1 < 8) && decide (r.2.1 < 64)
      let s := s.startSample l
      let same := (s.leaf l).sameFeeds overruns residues
      let s := s.eachScene l fun s => s.renderScene l c same
      let s := s.closeSample l n c x.nextTns overruns residues
      s.modLeaf l fun y => { y with clk := { y.clk with dom := { y.clk.dom with sample := n } } }

/-- `MERIDIAN` (R89). -/
def execMeridian (l : LeafId) (overruns : List (Nat × Nat)) (residues : List (Nat × Nat × Nat)) (s : State) : Res :=
  .next (s.meridian l overruns residues)

/-! The end of a silent interval (R272). -/

/-- The render cycles of a silent interval in pieces of 0.25 ms, within which a side domain ticks at
most 48 times
(DESIGN CHOICE, log entry 10). -/
def silencePieces (k : Nat) : List Nat := List.replicate (k / 400000) 400000 ++ [k % 400000]

/-- One piece of a silent interval: time bases move on, side domains tick, with zeros from the leaf's
points, and finished packets leave (R272)
(DESIGN CHOICE, log entry 10). -/
def State.passPiece (s : State) (l : LeafId) (k : Nat) : State :=
  ((s.modLeaf l fun x => x.passCycles k).sideTicks l (s.leaf l).next).eachScene l fun s => s.releaseAll l

/-- Render cycles of silence pass (DESIGN CHOICE, log entry 10). -/
def State.passTime (s : State) (l : LeafId) (k : Nat) : State :=
  (silencePieces k).foldl (fun s q => s.passPiece l q) s

/-- `RENDER_RESTART` (R272): after `cycles` render cycles of silence the leaf renders again at its new
rate and time base. The restart of a twin entry or a restore is `TWIN_RESTART`
(DESIGN CHOICE, log entry 10). -/
def execRenderRestart (l : LeafId) (cycles : Nat) (s : State) : Res :=
  .next <|
    let x := s.leaf l
    match x.clk.restart with
    | none => s
    | some r =>
      if !r.silent || r.joint then s
      else
        let s := (s.passTime l cycles).leafStep l fun y =>
          let e := y.restart r.rate r.tb
          { e with evs := e.evs ++ [restartedEv x.clk.dom r.rate r.tb (cyclesUs cycles)] }
        let s := s.asGuest l fun s => s.leafStep l fun y =>
          let e := endSwaps { leaf := l, n := y.next, prep := true } y
          { e with x := e.x.modScene fun sc => (sc.zero y.next).recount y.clk.dom }
        (s.actsOn l).foldl (fun s f => if (s.server f).map (fun p => p.1) = some l then s.recount f else s) s

end Sys2Proof.Machine
end

