-- ==== Sys2Proof/Machine/Dispatch.lean ====
section
/-! DEFINITION. One arm for each command: its meaning, or its rejection by name. -/

namespace Sys2Proof.Machine

def exec (i : Instr) (s : State) : Host.Outcome State Fault Refusal :=
  match i with
  | .doorbell fn v => Sys2Proof.Machine.execDoorbell fn v s
  | .tbSnapLo fn cycles => Sys2Proof.Machine.execTbSnapLo fn cycles s
  | .cqCons fn v => Sys2Proof.Machine.execCqCons fn v s
  | .eqCons fn v => Sys2Proof.Machine.execEqCons fn v s
  | .posCommit fn v => Sys2Proof.Machine.execPosCommit fn v s
  | .clearHalt fn v => Sys2Proof.Machine.execClearHalt fn v s
  | .modResetModule v => Sys2Proof.Machine.execModResetModule v s
  | .modResetLeaf v => Sys2Proof.Machine.execModResetLeaf v s
  | .modResetCoping v => Sys2Proof.Machine.execModResetCoping v s
  | .registerWrite fn bar2 off bytes => Sys2Proof.Machine.execRegisterWrite fn bar2 off bytes s
  | .sysCaps c => Sys2Proof.Machine.execSysCaps c s
  | .sysCancel c => Sys2Proof.Machine.execSysCancel c s
  | .sysBootLoad c => Sys2Proof.Machine.execSysBootLoad c s
  | .sysFwUpdate c => Sys2Proof.Machine.execSysFwUpdate c s
  | .scnConfig c => Sys2Proof.Machine.execScnConfig c s
  | .scnClear c => Sys2Proof.Machine.execScnClear c s
  | .objConfig c => Sys2Proof.Machine.execObjConfig c s
  | .objEnable c => Sys2Proof.Machine.execObjEnable c s
  | .objSetPos c => Sys2Proof.Machine.execObjSetPos c s
  | .objBed c => Sys2Proof.Machine.execObjBed c s
  | .objAdmMap c => Sys2Proof.Machine.execObjAdmMap c s
  | .objQuery c => Sys2Proof.Machine.execObjQuery c s
  | .laySpeaker c => Sys2Proof.Machine.execLaySpeaker c s
  | .laySegment c => Sys2Proof.Machine.execLaySegment c s
  | .layCommit c => Sys2Proof.Machine.execLayCommit c s
  | .layQuery c => Sys2Proof.Machine.execLayQuery c s
  | .rndConfig c => Sys2Proof.Machine.execRndConfig c s
  | .rndObjQuery c => Sys2Proof.Machine.execRndObjQuery c s
  | .outFeedConfig c => Sys2Proof.Machine.execOutFeedConfig c s
  | .outBankLoad c => Sys2Proof.Machine.execOutBankLoad c s
  | .outBankSwap c => Sys2Proof.Machine.execOutBankSwap c s
  | .outSwapReserve c => Sys2Proof.Machine.execOutSwapReserve c s
  | .outSceneDelay c => Sys2Proof.Machine.execOutSceneDelay c s
  | .outFeedQuery c => Sys2Proof.Machine.execOutFeedQuery c s
  | .outBankQuery c => Sys2Proof.Machine.execOutBankQuery c s
  | .measTarget c => Sys2Proof.Machine.execMeasTarget c s
  | .measStart c => Sys2Proof.Machine.execMeasStart c s
  | .measAbort c => Sys2Proof.Machine.execMeasAbort c s
  | .measQuery c => Sys2Proof.Machine.execMeasQuery c s
  | .measResult c => Sys2Proof.Machine.execMeasResult c s
  | .trkConfig c => Sys2Proof.Machine.execTrkConfig c s
  | .trkBaseline c => Sys2Proof.Machine.execTrkBaseline c s
  | .trkQuery c => Sys2Proof.Machine.execTrkQuery c s
  | .voxConfig c => Sys2Proof.Machine.execVoxConfig c s
  | .voxPool c => Sys2Proof.Machine.execVoxPool c s
  | .voxGroup c => Sys2Proof.Machine.execVoxGroup c s
  | .voxPatchLoad c => Sys2Proof.Machine.execVoxPatchLoad c s
  | .voxWaveLoad c => Sys2Proof.Machine.execVoxWaveLoad c s
  | .noteEvents c => Sys2Proof.Machine.execNoteEvents c s
  | .noteUmp c => Sys2Proof.Machine.execNoteUmp c s
  | .voxChannelMap c => Sys2Proof.Machine.execVoxChannelMap c s
  | .voxQuery c => Sys2Proof.Machine.execVoxQuery c s
  | .clipLoad c => Sys2Proof.Machine.execClipLoad c s
  | .clipCue c => Sys2Proof.Machine.execClipCue c s
  | .clipPlay c => Sys2Proof.Machine.execClipPlay c s
  | .clipPause c => Sys2Proof.Machine.execClipPause c s
  | .clipStop c => Sys2Proof.Machine.execClipStop c s
  | .clipQuery c => Sys2Proof.Machine.execClipQuery c s
  | .rteDomain c => Sys2Proof.Machine.execRteDomain c s
  | .rteSource c => Sys2Proof.Machine.execRteSource c s
  | .rteEgress c => Sys2Proof.Machine.execRteEgress c s
  | .rteBus c => Sys2Proof.Machine.execRteBus c s
  | .rteBridge c => Sys2Proof.Machine.execRteBridge c s
  | .rteQuery c => Sys2Proof.Machine.execRteQuery c s
  | .mtrConfig c => Sys2Proof.Machine.execMtrConfig c s
  | .mtrRead c => Sys2Proof.Machine.execMtrRead c s
  | .ucLoad c => Sys2Proof.Machine.execUcLoad c s
  | .ucAttach c => Sys2Proof.Machine.execUcAttach c s
  | .ucParam c => Sys2Proof.Machine.execUcParam c s
  | .ucQuery c => Sys2Proof.Machine.execUcQuery c s
  | .netPort c => Sys2Proof.Machine.execNetPort c s
  | .netRing c => Sys2Proof.Machine.execNetRing c s
  | .netFilter c => Sys2Proof.Machine.execNetFilter c s
  | .netRxStream c => Sys2Proof.Machine.execNetRxStream c s
  | .netTxStream c => Sys2Proof.Machine.execNetTxStream c s
  | .netQuery c => Sys2Proof.Machine.execNetQuery c s
  | .netStreamQuery c => Sys2Proof.Machine.execNetStreamQuery c s
  | .clkTbSource c => Sys2Proof.Machine.execClkTbSource c s
  | .clkServo c => Sys2Proof.Machine.execClkServo c s
  | .clkTbAction c => Sys2Proof.Machine.execClkTbAction c s
  | .clkVcxo c => Sys2Proof.Machine.execClkVcxo c s
  | .clkPll c => Sys2Proof.Machine.execClkPll c s
  | .clkTbQuery c => Sys2Proof.Machine.execClkTbQuery c s
  | .clkPllQuery c => Sys2Proof.Machine.execClkPllQuery c s
  | .micClock c => Sys2Proof.Machine.execMicClock c s
  | .micEnable c => Sys2Proof.Machine.execMicEnable c s
  | .micConfig c => Sys2Proof.Machine.execMicConfig c s
  | .micRead c => Sys2Proof.Machine.execMicRead c s
  | .micQuery c => Sys2Proof.Machine.execMicQuery c s
  | .copOutConfig c => Sys2Proof.Machine.execCopOutConfig c s
  | .copCvConfig c => Sys2Proof.Machine.execCopCvConfig c s
  | .copMute c => Sys2Proof.Machine.execCopMute c s
  | .copQuery c => Sys2Proof.Machine.execCopQuery c s
  | .redMode c => Sys2Proof.Machine.execRedMode c s
  | .redRestore c => Sys2Proof.Machine.execRedRestore c s
  | .redSwap c => Sys2Proof.Machine.execRedSwap c s
  | .redConfig c => Sys2Proof.Machine.execRedConfig c s
  | .redQuery c => Sys2Proof.Machine.execRedQuery c s
  | .tstBist c => Sys2Proof.Machine.execTstBist c s
  | .tstMarch c => Sys2Proof.Machine.execTstMarch c s
  | .tstDramSweep c => Sys2Proof.Machine.execTstDramSweep c s
  | .tstDramFreq c => Sys2Proof.Machine.execTstDramFreq c s
  | .diagConfig c => Sys2Proof.Machine.execDiagConfig c s
  | .diagRepair c => Sys2Proof.Machine.execDiagRepair c s
  | .diagTraceRead c => Sys2Proof.Machine.execDiagTraceRead c s
  | .diagMemQuery c => Sys2Proof.Machine.execDiagMemQuery c s
  | .commandValidated fn => Sys2Proof.Machine.execCommandValidated fn s
  | .timedCommandApply fn => Sys2Proof.Machine.execTimedCommandApply fn s
  | .noteEventApply l => Sys2Proof.Machine.execNoteEventApply l s
  | .completionPost fn => Sys2Proof.Machine.execCompletionPost fn s
  | .eventsLost fn => Sys2Proof.Machine.execEventsLost fn s
  | .intModerationTimer fn => Sys2Proof.Machine.execIntModerationTimer fn s
  | .rateLimitedReport fn code subject key => Sys2Proof.Machine.execRateLimitedReport fn code subject key s
  | .functionLevelReset fn => Sys2Proof.Machine.execFunctionLevelReset fn s
  | .linkHotReset => Sys2Proof.Machine.execLinkHotReset s
  | .busMasterDisable fn => Sys2Proof.Machine.execBusMasterDisable fn s
  | .powerStateChange fn d3 => Sys2Proof.Machine.execPowerStateChange fn d3 s
  | .dmaTransferDone fn data => Sys2Proof.Machine.execDmaTransferDone fn data s
  | .dmaHalt fn cause => Sys2Proof.Machine.execDmaHalt fn cause s
  | .meridian l overruns residues => Sys2Proof.Machine.execMeridian l overruns residues s
  | .posCommitApply fn => Sys2Proof.Machine.execPosCommitApply fn s
  | .gainSolverBlock l => Sys2Proof.Machine.execGainSolverBlock l s
  | .objXfadeEnd l obj => Sys2Proof.Machine.execObjXfadeEnd l obj s
  | .scnClearReturn l => Sys2Proof.Machine.execScnClearReturn l s
  | .bedRemoveEnd l base => Sys2Proof.Machine.execBedRemoveEnd l base s
  | .admFrame l map frame => Sys2Proof.Machine.execAdmFrame l map frame s
  | .swapFadeEnd l bank => Sys2Proof.Machine.execSwapFadeEnd l bank s
  | .delayFadeEnd l feed => Sys2Proof.Machine.execDelayFadeEnd l feed s
  | .feedSlewUpdate l feed w => Sys2Proof.Machine.execFeedSlewUpdate l feed w s
  | .selectionFadeEnd l kind point => Sys2Proof.Machine.execSelectionFadeEnd l kind point s
  | .meterFrameEnd l => Sys2Proof.Machine.execMeterFrameEnd l s
  | .renderSilenceStart l => Sys2Proof.Machine.execRenderSilenceStart l s
  | .renderRestart l cycles => Sys2Proof.Machine.execRenderRestart l cycles s
  | .bridgeRatioWindow l ch ratio fill => Sys2Proof.Machine.execBridgeRatioWindow l ch ratio fill s
  | .clipLoopEnd l player => Sys2Proof.Machine.execClipLoopEnd l player s
  | .clipEndPassed l player => Sys2Proof.Machine.execClipEndPassed l player s
  | .clipFadeEnd l player => Sys2Proof.Machine.execClipFadeEnd l player s
  | .voiceMatrixEval l => Sys2Proof.Machine.execVoiceMatrixEval l s
  | .voiceEnd l voice => Sys2Proof.Machine.execVoiceEnd l voice s
  | .stealMigrate l shadow => Sys2Proof.Machine.execStealMigrate l shadow s
  | .ucFadeEnd l att => Sys2Proof.Machine.execUcFadeEnd l att s
  | .ucPassAbandon l att course pass => Sys2Proof.Machine.execUcPassAbandon l att course pass s
  | .measSlotEnd l => Sys2Proof.Machine.execMeasSlotEnd l s
  | .measAnalysisDone l => Sys2Proof.Machine.execMeasAnalysisDone l s
  | .measReturnEnd l => Sys2Proof.Machine.execMeasReturnEnd l s
  | .measDesignDone l => Sys2Proof.Machine.execMeasDesignDone l s
  | .measInstallSwap l => Sys2Proof.Machine.execMeasInstallSwap l s
  | .trackingUpdate l errs => Sys2Proof.Machine.execTrackingUpdate l errs s
  | .trkStarved l => Sys2Proof.Machine.execTrkStarved l s
  | .netRxFrame l port frame fcsOk coded stamp => Sys2Proof.Machine.execNetRxFrame l port frame fcsOk coded stamp s
  | .hostRingPoll l ring desc => Sys2Proof.Machine.execHostRingPoll l ring desc s
  | .netTxFrame l ring frame => Sys2Proof.Machine.execNetTxFrame l ring frame s
  | .netRingPending l ring => Sys2Proof.Machine.execNetRingPending l ring s
  | .netLinkChange l port up => Sys2Proof.Machine.execNetLinkChange l port up s
  | .sfpLos l port => Sys2Proof.Machine.execSfpLos l port s
  | .sfpModabs l port page => Sys2Proof.Machine.execSfpModabs l port page s
  | .netFecFallback l port => Sys2Proof.Machine.execNetFecFallback l port s
  | .netLegLost l stream leg => Sys2Proof.Machine.execNetLegLost l stream leg s
  | .arpResolved l stream leg mac => Sys2Proof.Machine.execArpResolved l stream leg mac s
  | .mediaTxDiscard l port => Sys2Proof.Machine.execMediaTxDiscard l port s
  | .egressPacketComplete l stream => Sys2Proof.Machine.execEgressPacketComplete l stream s
  | .heartbeatRx l => Sys2Proof.Machine.execHeartbeatRx l s
  | .twinVerdict l => Sys2Proof.Machine.execTwinVerdict l s
  | .gateDeadline l => Sys2Proof.Machine.execGateDeadline l s
  | .tieFlitCrcFail l => Sys2Proof.Machine.execTieFlitCrcFail l s
  | .heartbeatMissing l => Sys2Proof.Machine.execHeartbeatMissing l s
  | .tieLinkUp => Sys2Proof.Machine.execTieLinkUp s
  | .livenessMissing l => Sys2Proof.Machine.execLivenessMissing l s
  | .claimGrant l => Sys2Proof.Machine.execClaimGrant l s
  | .checkpointSend l => Sys2Proof.Machine.execCheckpointSend l s
  | .journalEntry l => Sys2Proof.Machine.execJournalEntry l s
  | .splitTakeoverRestore l => Sys2Proof.Machine.execSplitTakeoverRestore l s
  | .twinCopyDone => Sys2Proof.Machine.execTwinCopyDone s
  | .twinRestart cycles => Sys2Proof.Machine.execTwinRestart cycles s
  | .servoSample l tb theta => Sys2Proof.Machine.execServoSample l tb theta s
  | .ptpAnnounceTimeout l tb => Sys2Proof.Machine.execPtpAnnounceTimeout l tb s
  | .ptpSyncTimeout l tb => Sys2Proof.Machine.execPtpSyncTimeout l tb s
  | .clkDiscontinuityDecision l tb => Sys2Proof.Machine.execClkDiscontinuityDecision l tb s
  | .wclkSample l tb theta => Sys2Proof.Machine.execWclkSample l tb theta s
  | .wclkStop l tb => Sys2Proof.Machine.execWclkStop l tb s
  | .wclkRateWindow l tb edges => Sys2Proof.Machine.execWclkRateWindow l tb edges s
  | .vcxoUpdate l family phase => Sys2Proof.Machine.execVcxoUpdate l family phase s
  | .pllLockWindow l pll diff refOk => Sys2Proof.Machine.execPllLockWindow l pll diff refOk s
  | .pllGateEnd l pll => Sys2Proof.Machine.execPllGateEnd l pll s
  | .micFrameEnd l ch bits => Sys2Proof.Machine.execMicFrameEnd l ch bits s
  | .copingLoadStrobe => Sys2Proof.Machine.execCopingLoadStrobe s
  | .copSlewUpdate out => Sys2Proof.Machine.execCopSlewUpdate out s
  | .copSpanFadeEnd out => Sys2Proof.Machine.execCopSpanFadeEnd out s
  | .copStrobeLoss => Sys2Proof.Machine.execCopStrobeLoss s
  | .copMonitorWindow out dc rms ohms limit => Sys2Proof.Machine.execCopMonitorWindow out dc rms ohms limit s
  | .supplyGood => Sys2Proof.Machine.execSupplyGood s
  | .supplyFail => Sys2Proof.Machine.execSupplyFail s
  | .leafRailFault l cause => Sys2Proof.Machine.execLeafRailFault l cause s
  | .plinthOvertemp => Sys2Proof.Machine.execPlinthOvertemp s
  | .leafResetRelease l => Sys2Proof.Machine.execLeafResetRelease l s
  | .bootReady l ms fails => Sys2Proof.Machine.execBootReady l ms fails s
  | .sysBootFail l step cause => Sys2Proof.Machine.execSysBootFail l step cause s
  | .eccCorrection l bank row slot pos => Sys2Proof.Machine.execEccCorrection l bank row slot pos s
  | .eccScrub l => Sys2Proof.Machine.execEccScrub l s
  | .eccUncorrectable l access course bank row slot feeds again => Sys2Proof.Machine.execEccUncorrectable l access course bank row slot feeds again s
  | .courseRestart l course => Sys2Proof.Machine.execCourseRestart l course s
  | .repeatEntryExpire l entry => Sys2Proof.Machine.execRepeatEntryExpire l entry s
  | .fieldRepairWrite l => Sys2Proof.Machine.execFieldRepairWrite l s
  | .bankHandover l bank owner => Sys2Proof.Machine.execBankHandover l bank owner s
  | .aliasWrite l bank row slot set strobes mask bad => Sys2Proof.Machine.execAliasWrite l bank row slot set strobes mask bad s
  | .mergeEntryFlush l bank entry writes bad => Sys2Proof.Machine.execMergeEntryFlush l bank entry writes bad s
  | .busDecerr l master unit addr => Sys2Proof.Machine.execBusDecerr l master unit addr s
  | .dramRefresh l ch busy => Sys2Proof.Machine.execDramRefresh l ch busy s
  | .dramTempPoll l ch mr4 above beyond => Sys2Proof.Machine.execDramTempPoll l ch mr4 above beyond s
  | .dramWriteDrain l ch reqs issues => Sys2Proof.Machine.execDramWriteDrain l ch reqs issues s
  | .dramThrottle l ch bank row master unit => Sys2Proof.Machine.execDramThrottle l ch bank row master unit s
  | .dramEcc l master unit ch addr users => Sys2Proof.Machine.execDramEcc l master unit ch addr users s
  | .threadReady l thread prio only cancelled acts => Sys2Proof.Machine.execThreadReady l thread prio only cancelled acts s
  | .timesliceExpire l core => Sys2Proof.Machine.execTimesliceExpire l core s
  | .delayTick l acts => Sys2Proof.Machine.execDelayTick l acts s
  | .eventPost l queue word hw acts => Sys2Proof.Machine.execEventPost l queue word hw acts s
  | .schedQueueFull l queue => Sys2Proof.Machine.execSchedQueueFull l queue s
  | .busMasterEnable fn => Sys2Proof.Machine.execBusMasterEnable fn s
  | .pcieLinkDown => Sys2Proof.Machine.execPcieLinkDown s
  | .copingRailFault => Sys2Proof.Machine.execCopingRailFault s
  | .copingResetRelease => Sys2Proof.Machine.execCopingResetRelease s
  | .copingFoldBack hot => Sys2Proof.Machine.execCopingFoldBack hot s
  | .ptpAnnounceRx l tb msg => Sys2Proof.Machine.execPtpAnnounceRx l tb msg s
  | .ptpDelayRespRx l tb path => Sys2Proof.Machine.execPtpDelayRespRx l tb path s
  | .ptpMessageInterval l tb => Sys2Proof.Machine.execPtpMessageInterval l tb s
  | .wclkReturn l tb => Sys2Proof.Machine.execWclkReturn l tb s
  | .pauseQuantaExpire l port => Sys2Proof.Machine.execPauseQuantaExpire l port s
  | .checkpointReceived l => Sys2Proof.Machine.execCheckpointReceived l s
  | .dramActivateWindowEnd l ch => Sys2Proof.Machine.execDramActivateWindowEnd l ch s
  | .eccOperandRewrite l bank row slot hard => Sys2Proof.Machine.execEccOperandRewrite l bank row slot hard s
  | .testComplete l res => Sys2Proof.Machine.execTestComplete l res s
  | .fwSlotVerified l => Sys2Proof.Machine.execFwSlotVerified l s
  | .sfpModabsHigh l port => Sys2Proof.Machine.execSfpModabsHigh l port s

end Sys2Proof.Machine
end

