-- ==== Sys2Proof/Safety.lean ====
section
/-! DEFINITION. What counts as a sound state of the module, and what a step may not disturb, in the
terms that statements use. -/

namespace Sys2Proof.Machine

/-- The BAR2 windows of the three functions are in canonical form (R46). -/
def State.windowsOk (s : State) : Bool :=
  Memory.wf winDefault s.f0.mail.win && Memory.wf winDefault s.f1.mail.win && Memory.wf winDefault s.f2.mail.win

/-- Entries between a ring's consumer index and its producer index, both modulo 65 536 (R43). -/
def ringUsed (prod cons : Nat) : Nat := (prod + 65536 - cons) % 65536

/-- The record rings of a function hold no more than their entries, 64 completions and 1 024 events,
so that no unread record is written over (R51, R68). -/
def Fn.ringsOk (x : Fn) : Bool :=
  decide (x.cqProd < 65536) && decide (x.cqCons < 65536) && decide (ringUsed x.cqProd x.cqCons ≤ 64) &&
    (decide (x.eqProd < 65536) && decide (x.eqCons < 65536) && decide (ringUsed x.eqProd x.eqCons ≤ 1024))

/-- The record rings of the three functions hold no more than their entries. -/
def State.ringsOk (s : State) : Bool := s.f0.ringsOk && s.f1.ringsOk && s.f2.ringsOk

/-- What no command disturbs, seen from a state `s0` before it: the queue of waiting commands, the
variant, the canonical form of the windows, the bounds of the record rings, what has been sent, and
the names of the free values already used. -/
structure State.Kept (s0 s : State) : Prop where
  pending : s.pending = s0.pending
  variant : s.variant = s0.variant
  windows : s0.windowsOk = true → s.windowsOk = true
  rings : s0.ringsOk = true → s.ringsOk = true
  sent : ∃ r, s.outbox = s0.outbox ++ r
  count : s0.freeCount ≤ s.freeCount

/-! Mailbox commands that run at once. -/

/-- A command as its function takes it (R48, R53): the opcode of its row, its slot, and the next
acceptance number. -/
def taken (sp : Spec) (s : State) (c : Cmd) : Cmd :=
  { c with op := sp.op, slot := c.slot % 32, acc := (s.fn c.fn).mail.accNo + 1 }

/-- The state with a command's bytes in its slot and the slot busy (R48, R49). -/
def State.books (s : State) (sp : Spec) (c : Cmd) : State :=
  let k := taken sp s c
  (s.modMail c.fn fun m => { m with win := mwrite winDefault m.win (k.slot * 512) (cmdBytes k) }).modFn c.fn fun x =>
    { x with busy := x.busy ||| BitVec.ofNat 32 (2 ^ k.slot), mail := { x.mail with accNo := k.acc } }

/-- The state a command meets at its validation: it holds its slot and has been journalled and traced
(R422, R480). -/
def State.takes (s : State) (sp : Spec) (c : Cmd) : State :=
  let k := taken sp s c
  (((s.books sp c).journal k).traceCmd c.fn k.target 14 k.tag).validated k

/-- Nothing holds a mailbox command back: its function can be reached and is served, no takeover, fence
or earlier command is in the way, its slot is free, and the host has read `SYS_CAPS` (R3, R38, R39, R49,
R53, R54). -/
structure State.Clear (s : State) (sp : Spec) (c : Cmd) : Prop where
  reach : s.reachable c.fn = true
  live : s.roView c.fn = false
  free : bit (s.fn c.fn).busy.toNat (c.slot % 32) = false
  served : s.unserved c.fn = false
  steady : s.takingOver c.fn = false
  fence : (s.fn c.fn).mail.fence = none
  first : (s.fn c.fn).mail.accepted = []
  caps : (s.fn c.fn).capsDone = true ∨ sp.op = 0x0101
  entry : c.fn = .f1 → s.red.mode ≠ 1 → s.red.entry = none
  flags : c.flags = 0

/-- A mailbox command that nothing holds back and nothing refuses, to be carried out at once: it is
untimed, no earlier command waits for its sample or for a transfer in front of it, and the checks of R52 on its header, its fields and
the state pass. -/
structure State.Ready (s : State) (sp : Spec) (c : Cmd) : Prop extends State.Clear s sp c where
  queue : (s.fn c.fn).mail.queued = []
  turn : (s.fn c.fn).mail.holds ((s.fn c.fn).mail.accNo + 1) = false
  untimed : c.when_ = 0
  checks : checkCommand sp (s.takes sp c) (taken sp s c) = (sOk, 0)
  state : (sp.pre (s.takes sp c) (taken sp s c)).1 = sOk

/-- What the chapter of a ready command does, before its completion is posted. -/
def State.effect (s : State) (sp : Spec) (c : Cmd) : Eff :=
  sp.run (taken sp s c) false [] (sp.stage (taken sp s c) (s.takes sp c))

/-- The leaf that answers for a function, with the scene it serves it with in its own place: after a
split takeover the survivor's guest scene (R423, R424). -/
def State.seen (s : State) (p : LeafId × Bool) : Leaf := if p.2 then (s.leaf p.1).swapGuest else s.leaf p.1

/-- The leaf that a command meets at its validation: the leaf that answers for its function, with what
the trace has recorded of the command (R480). -/
def State.meets (s : State) (sp : Spec) (c : Cmd) (p : LeafId × Bool) : Leaf := (s.takes sp c).seen p

/-- Where and when a ready command acts on the leaf that answers for its function: unprepared, at its
coming sample (R88). -/
def State.ctx (s : State) (f : FnId) (p : LeafId × Bool) : Ctx :=
  { leaf := p.1, fn := f, n := (s.seen p).next, prep := false }

/-! The rows of the mailboxes. -/

/-- Mailbox rows with what their chapters say of them, part 1. -/
def mailRows0 : List (Spec × (Cmd → Instr)) :=
  [(specSysCaps, .sysCaps),
   ((specSysCancel undoCmd), .sysCancel),
   (specSysBootLoad, .sysBootLoad),
   (specSysFwUpdate, .sysFwUpdate),
   (specScnConfig, .scnConfig),
   (specScnClearAll, .scnClear),
   (specObjConfigAll, .objConfig),
   (specObjEnable, .objEnable),
   (specObjSetPos, .objSetPos),
   (specObjBedAll, .objBed),
   (specObjAdmMap, .objAdmMap),
   (specObjQuery, .objQuery),
   (specLaySpeaker, .laySpeaker),
   (specLaySegment, .laySegment),
   (specLayCommit, .layCommit),
   (specLayQuery, .layQuery),
   (specRndConfig, .rndConfig),
   (specRndObjQuery, .rndObjQuery),
   (specOutFeedConfig, .outFeedConfig),
   (specOutBankLoadAll, .outBankLoad),
   (specOutBankSwapAll, .outBankSwap),
   (specOutSwapReserve, .outSwapReserve),
   (specOutSceneDelay, .outSceneDelay),
   (specOutFeedQuery, .outFeedQuery)]

/-- Mailbox rows with what their chapters say of them, part 2. -/
def mailRows1 : List (Spec × (Cmd → Instr)) :=
  [(specOutBankQuery, .outBankQuery),
   (specMeasTarget, .measTarget),
   (specMeasStart, .measStart),
   (specMeasAbort, .measAbort),
   (specMeasQuery, .measQuery),
   (specMeasResult, .measResult),
   (specTrkConfig, .trkConfig),
   (specTrkBaseline, .trkBaseline),
   (specTrkQuery, .trkQuery),
   (specVoxConfig, .voxConfig),
   (specVoxPool, .voxPool),
   (specVoxGroup, .voxGroup),
   (specVoxPatchLoad, .voxPatchLoad),
   (specVoxWaveLoad, .voxWaveLoad),
   (specNoteEvents, .noteEvents),
   (specNoteUmp, .noteUmp),
   (specVoxChannelMap, .voxChannelMap),
   (specVoxQuery, .voxQuery),
   (specClipLoad, .clipLoad),
   (specClipCue, .clipCue),
   (specClipPlay, .clipPlay),
   (specClipPause, .clipPause),
   (specClipStop, .clipStop),
   (specClipQuery, .clipQuery)]

/-- Mailbox rows with what their chapters say of them, part 3. -/
def mailRows2 : List (Spec × (Cmd → Instr)) :=
  [(specRteDomain, .rteDomain),
   (specRteSource, .rteSource),
   (specRteEgress, .rteEgress),
   (specRteBus, .rteBus),
   (specRteBridge, .rteBridge),
   (specRteQuery, .rteQuery),
   (specMtrConfig, .mtrConfig),
   (specMtrRead, .mtrRead),
   (specUcLoad, .ucLoad),
   (specUcAttach, .ucAttach),
   (specUcParam, .ucParam),
   (specUcQuery, .ucQuery),
   (specNetPort, .netPort),
   (specNetRing, .netRing),
   (specNetFilter, .netFilter),
   (specNetRxStream, .netRxStream),
   (specNetTxStream, .netTxStream),
   (specNetQuery, .netQuery),
   (specNetStreamQuery, .netStreamQuery),
   (specClkTbSource, .clkTbSource),
   (specClkServo, .clkServo),
   (specClkTbAction, .clkTbAction),
   (specClkVcxo, .clkVcxo),
   (specClkPll, .clkPll)]

/-- Mailbox rows with what their chapters say of them, part 4. -/
def mailRows3 : List (Spec × (Cmd → Instr)) :=
  [(specClkTbQuery, .clkTbQuery),
   (specClkPllQuery, .clkPllQuery),
   (specMicClock, .micClock),
   (specMicEnable, .micEnable),
   (specMicConfig, .micConfig),
   (specMicRead, .micRead),
   (specMicQuery, .micQuery),
   (specCopOutConfig, .copOutConfig),
   (specCopCvConfig, .copCvConfig),
   (specCopMute, .copMute),
   (specCopQuery, .copQuery),
   (specRedMode, .redMode),
   (specRedRestore, .redRestore),
   (specRedSwap, .redSwap),
   (specRedConfig, .redConfig),
   (specRedQuery, .redQuery),
   (specTstBist, .tstBist),
   (specTstMarch, .tstMarch),
   (specTstDramSweep, .tstDramSweep),
   (specTstDramFreq, .tstDramFreq),
   (specDiagConfig, .diagConfig),
   (specDiagRepair, .diagRepair),
   (specDiagTraceRead, .diagTraceRead),
   (specDiagMemQuery, .diagMemQuery)]

/-- Every row of the opcode table that is a mailbox command, with what its chapter says of it (R83, R84). -/
def mailRows : List (Spec × (Cmd → Instr)) := mailRows0 ++ mailRows1 ++ mailRows2 ++ mailRows3

/-- A command answers a next state of which a property holds. -/
def Goes (i : Instr) (s : State) (P : State → Prop) : Prop := ∃ t, exec i s = .next t ∧ P t

/-- The completion ring of a function takes a record at once, and no reset or takeover stands between a
new command and its completion (R33, R39, R51). -/
structure State.Open (s : State) (f : FnId) : Prop where
  waiting : (s.fn f).mail.waiting = []
  room : 0 < (s.fn f).cqFree
  floor : (s.fn f).mail.floor ≤ (s.fn f).mail.accNo
  late : ∀ a ∈ (s.fn f).mail.late, a ≤ (s.fn f).mail.accNo
  replay : (s.fn f).mail.replay ≤ (s.fn f).mail.accNo

/-- The bulk channel of a function takes a further reference (R31, R79, R82). -/
structure State.Channel (s : State) (f : FnId) : Prop where
  bme : (s.fn f).mail.bme = true
  running : (s.fn f).mail.halted = false
  room : (s.fn f).mail.refCount < 64

/-- The one reference of a command without `when` towards the device is at the front of its function's
channel, for data of the reference's length, and nothing else waits in front of its effect (R79). -/
structure State.Arrives (s : State) (c : Cmd) (d : List Byte) : Prop where
  job : ∃ j rest r, (s.fn c.fn).mail.dma = j :: rest ∧ j.cmd = c ∧ j.refs = [r] ∧ j.toHost = false ∧ j.data = [] ∧ d.length = r.len
  now : c.when_ = 0
  queue : (s.fn c.fn).mail.queued = []
  turn : (s.fn c.fn).mail.holds c.acc = false
  steady : s.takingOver c.fn = false

/-- The first bytes of the response in a command's slot (R50, R65). -/
def State.reply (s : State) (c : Cmd) (n : Nat) : List Byte :=
  mread winDefault (s.fn c.fn).mail.win (c.slot % 32 * 512 + 32) n

/-- A ready command of a row, on a leaf for which `P` holds, answers a next state in which `Q` relates
the leaf that the command met and the leaf that answers for its function afterwards. -/
def Acts (row : Cmd → Instr) (sp : Spec) (P : Ctx → Cmd → Leaf → Prop) (Q : Ctx → Cmd → Leaf → Leaf → Prop) : Prop :=
  ∀ (s : State) (c : Cmd) (p : LeafId × Bool), s.Ready sp c → s.server c.fn = some p →
    P (s.ctx c.fn p) c (s.meets sp c p) →
    Goes (row c) s fun t => Q (s.ctx c.fn p) c (s.meets sp c p) (t.seen p)

/-- A ready command and the leaf that answers for its function. -/
structure State.Served (s : State) (sp : Spec) (c : Cmd) (p : LeafId × Bool) : Prop extends State.Ready s sp c where
  server : s.server c.fn = some p

/-- What a ready query leaves: the leaf that answers for its function as it was but for its trace, the
completion `OK` of its tag, opcode and slot, and in its slot a response with a property (R50, R64, R65). -/
def State.Answered (s : State) (sp : Spec) (c : Cmd) (p : LeafId × Bool) (R : List Byte → Prop) (t : State) : Prop :=
  ({ t.seen p with sched := (s.seen p).sched } : Leaf) = s.seen p ∧
  ∃ r : Completion, tfind (t.fn c.fn).mail.cq ((s.fn c.fn).cqProd % 64) = some r ∧ r.tag = c.tag ∧ r.opcode = sp.op ∧
    r.status = sOk ∧ r.slot = c.slot % 32 ∧ r.kind = 0 ∧ R (t.reply c r.respLen)

/-- What a step of a leaf's scenes leaves where the leaf's own scene has nothing to do: that scene, and
everything where the leaf renders no guest scene (R423). -/
def State.Rests (s : State) (l : LeafId) (t : State) : Prop :=
  (t.leaf l).scene = (s.leaf l).scene ∧ ((s.leaf l).guest = none → t = s)

/-! Frames. -/

/-- The units of a leaf that a command may change; `scene` is every scene that the leaf renders, the
guest scene of a split takeover with its own. -/
inductive LeafUnit where
  | scene | clk | ports | mics | ecc | dramc | boot
deriving DecidableEq, Repr

/-- A leaf as it was, but for its scheduler, which holds its trace, and the units named. -/
def Leaf.sameBut (ps : List LeafUnit) (x y : Leaf) : Prop :=
  y = { x with
    sched := y.sched
    scene := if ps.contains .scene then y.scene else x.scene
    guest := if ps.contains .scene then y.guest else x.guest
    clk := if ps.contains .clk then y.clk else x.clk
    port0 := if ps.contains .ports then y.port0 else x.port0
    port1 := if ps.contains .ports then y.port1 else x.port1
    mics := if ps.contains .mics then y.mics else x.mics
    ecc := if ps.contains .ecc then y.ecc else x.ecc
    dramc := if ps.contains .dramc then y.dramc else x.dramc
    boot := if ps.contains .boot then y.boot else x.boot }

/-- What a mailbox row of the groups 0x02 to 0x0C may change of the leaf that carries it out, by its
opcode; `RTE_DOMAIN` starts and restarts whole leaves and is not among them (R83, R272). -/
def Spec.parts (sp : Spec) : Option (List LeafUnit) :=
  if sp.op = 0x0801 then none
  else match sp.op / 256 with
    | 2 | 3 | 4 | 5 | 6 | 7 | 8 | 9 => some [.scene]
    | 10 => some [.scene, .ports]
    | 11 => some [.clk, .dramc]
    | 12 => some [.mics]
    | _ => none

/-- The parts of a module that a step of one leaf's own units leaves alone: the pair, the coping, the
plinth and the windows of the functions (R16, R26). -/
structure State.SameModule (s t : State) : Prop where
  variant : t.variant = s.variant
  red : t.red = s.red
  cop : t.cop = s.cop
  plinth : t.plinth = s.plinth
  win : ∀ f, (t.fn f).mail.win = (s.fn f).mail.win

/-- Steps of the rendered scene of a leaf, its streams and its ports, with what they may change. -/
def renderSteps (l : LeafId) (a b k : Nat) (q w : Int) (up : Bool) (page : List Byte) : List (Instr × List LeafUnit) :=
  [(.gainSolverBlock l, [.scene]), (.objXfadeEnd l a, [.scene]), (.scnClearReturn l, [.scene]), (.bedRemoveEnd l a, [.scene]),
   (.swapFadeEnd l a, [.scene]), (.delayFadeEnd l a, [.scene]), (.feedSlewUpdate l a w, [.scene]),
   (.selectionFadeEnd l a b, [.scene]), (.meterFrameEnd l, [.scene]), (.clipLoopEnd l a, [.scene]),
   (.clipEndPassed l a, [.scene]), (.clipFadeEnd l a, [.scene]), (.voiceMatrixEval l, [.scene]), (.voiceEnd l a, [.scene]),
   (.stealMigrate l a, [.scene]), (.ucFadeEnd l a, [.scene]), (.ucPassAbandon l a b k, [.scene, .ecc]), (.trkStarved l, [.scene]),
   (.netLegLost l a b, [.scene]), (.arpResolved l a b k, [.scene]), (.hostRingPoll l a page, [.scene]),
   (.netLinkChange l a up, [.ports]), (.sfpLos l a, [.ports]), (.sfpModabs l a page, [.ports]), (.netFecFallback l a, [.ports]),
   (.mediaTxDiscard l a, [.ports]), (.pauseQuantaExpire l a, [.ports]), (.micFrameEnd l a [], [.scene, .mics]),
   (.renderSilenceStart l, [.clk]), (.servoSample l a q, [.clk]), (.wclkSample l a q, [.clk]), (.wclkStop l a, [.clk]),
   (.wclkReturn l a, [.clk]), (.wclkRateWindow l a b, [.clk]), (.ptpAnnounceTimeout l a, [.clk]), (.ptpSyncTimeout l a, [.clk]),
   (.ptpDelayRespRx l a b, [.clk]), (.ptpMessageInterval l a, [.clk, .ports]), (.clkDiscontinuityDecision l a, [.clk]),
   (.pllLockWindow l a b up, [.clk]), (.pllGateEnd l a, [.clk, .mics, .dramc])]

/-- Steps of the memories and the scheduler of a leaf, with what they may change. -/
def memorySteps (l : LeafId) (a b k j m : Nat) (up on : Bool) (acts : List SchedAct) (ws : List NarrowWrite)
    (strobes : BitVec 8) (mask : BitVec 64) (reqs : List DramReq) : List (Instr × List LeafUnit) :=
  [(.eccCorrection l a b k j, [.ecc]), (.eccScrub l, [.ecc]), (.repeatEntryExpire l a, [.ecc]),
   (.eccOperandRewrite l a b k up, [.ecc]), (.courseRestart l a, [.ecc, .scene]), (.fieldRepairWrite l, [.ecc, .boot]),
   (.bankHandover l a b, [.ecc]), (.aliasWrite l a b k up strobes mask on, [.ecc]), (.mergeEntryFlush l a b ws up, [.ecc]),
   (.dramRefresh l a up, [.dramc]), (.dramTempPoll l a b up on, [.dramc]), (.dramWriteDrain l a reqs (if up then none else some b), [.dramc]),
   (.dramThrottle l a b k j m, [.dramc]), (.dramActivateWindowEnd l a, [.dramc]), (.fwSlotVerified l, [.boot]),
   (.threadReady l a b (some k) up acts, []), (.threadReady l a b none up acts, []), (.timesliceExpire l a, []),
   (.delayTick l acts, []), (.eventPost l a b up acts, []), (.schedQueueFull l a, [])]

end Sys2Proof.Machine
end

