-- ==== Sys2Proof/Certificates/Slice0/Obligations.lean ====
section
/-! DEFINITION. What is claimed of the model, for the provers. -/

open Sys2Proof Sys2Proof.Machine

/-- A step carries out the command at the front of the queue with the queue's rest, and idles on an empty
queue (the model's choice, log entry 2). No row of the table gives bits, so no word spells a command. -/
def Obligations.StepRunsFront : Prop :=
  (∀ (c : Instr) (rest : List Instr) (s : State),
    step { s with pending := c :: rest } = exec c { s with pending := rest }) ∧
  (∀ s : State, step { s with pending := [] } = .next { s with pending := [] }) ∧
  ∀ nbits w : Nat, decodeTableWord nbits w = none ∧ ∀ s : State, s.withFetchWord nbits w = s

/-- The module before its supply is good: what the register tables and the resets of the chapters give. -/
def Obligations.ResetState : Prop :=
  State.reset.pending = [] ∧ State.reset.outbox = [] ∧ State.reset.red.mode = 0 ∧
  (∀ f, (State.reset.fn f).busy = 0 ∧ (State.reset.fn f).dbErr = 0 ∧ (State.reset.fn f).cqProd = 0 ∧
    (State.reset.fn f).cqCons = 0 ∧ (State.reset.fn f).eqProd = 0 ∧ (State.reset.fn f).eqCons = 0 ∧
    (State.reset.fn f).eqLost = 0 ∧ (State.reset.fn f).intStatus = 0 ∧ (State.reset.fn f).intMask = 255 ∧
    (State.reset.fn f).intVector = 0 ∧ (State.reset.fn f).modDelay = 0 ∧ (State.reset.fn f).modCount = 0 ∧
    (State.reset.fn f).capsDone = false ∧ (State.reset.fn f).mail.accepted = [] ∧ (State.reset.fn f).mail.halted = false) ∧
  (∀ l, (State.reset.leaf l).pwr = 0 ∧ (State.reset.leaf l).run = 0 ∧ (State.reset.red.of l).claim = 0 ∧
    (∀ i, (State.reset.leaf l).scene.obj i = obj0) ∧ (State.reset.leaf l).scene.objs.beds = [] ∧
    (State.reset.leaf l).scene.objs.maps = []) ∧
  State.reset.cop.held = true ∧ State.reset.plinth.supply = false ∧ State.reset.plinth.copingPg = false

/-- Reset meets the invariants that a step keeps. -/
def Obligations.ResetSound : Prop := State.reset.windowsOk = true ∧ State.reset.ringsOk = true

/-- No unread record is ever written over: from every state in which the rings are within their bounds, so
is every next state (R51, R68). -/
def Obligations.StepKeepsRings : Prop :=
  ∀ s t : State, s.ringsOk = true → step s = .next t → t.ringsOk = true

/-- The byte memories behind BAR2 keep their canonical form in every step (R46). -/
def Obligations.StepKeepsWindows : Prop :=
  ∀ s t : State, s.windowsOk = true → step s = .next t → t.windowsOk = true

/-- A step takes exactly its own command off the queue, never changes the variant, takes nothing back that
has been sent, and never reuses the name of a free value. -/
def Obligations.StepTakesOneCommand : Prop :=
  ∀ s t : State, step s = .next t →
    t.pending = s.pending.tail ∧ t.variant = s.variant ∧ (∃ r, t.outbox = s.outbox ++ r) ∧ s.freeCount ≤ t.freeCount

/-- Every command answers a next state in every state; a write to BAR0 that is no aligned run of 32-bit
words changes nothing (the model's choice, log entry 63). -/
def Obligations.NothingStops : Prop :=
  (∀ (i : Instr) (s : State), ∃ t, exec i s = .next t) ∧
  ∀ (f : FnId) (off : Nat) (bytes : List Byte) (s : State), ¬(off % 4 = 0 ∧ bytes.length % 4 = 0) →
    exec (.registerWrite f false off bytes) s = .next s

/-- A ready mailbox command without a bulk transfer answers a next state: its chapter's effect on the state
it meets, and its final completion, unless the chapter defers it or leaves it in its slot. -/
def Obligations.MailboxRowsComplete : Prop :=
  ∀ r ∈ mailRows, ∀ (s : State) (c : Cmd), s.Ready r.1 c → r.1.refs (taken r.1 s c) = [] →
    let e := s.effect r.1 c
    Goes (r.2 c) s fun t =>
      (e.mode = 0 → e.out = none → t = e.s.final (taken r.1 s c) false e.status e.detail
        (if noEffect e.status then 0 else e.applied.getD (if c.fn = .f2 then 0 else
          (r.1.stage (taken r.1 s c) (s.takes r.1 c)).appliedAt c.fn)) e.resp) ∧
      (e.mode = 1 ∨ e.mode = 3 → t = e.s.interim (taken r.1 s c) sDeferred) ∧
      (e.mode = 2 ∨ 4 ≤ e.mode → t = e.s)

/-- What turns a mailbox command away, and with what status; none of these has an effect. -/
def Obligations.MailboxRowsRefuse : Prop :=
  ∀ r ∈ mailRows, ∀ (s : State) (c : Cmd),
    (s.reachable c.fn = false → exec (r.2 c) s = .next s) ∧
    (s.reachable c.fn = true → s.roView c.fn = true → exec (r.2 c) s = .next (s.dbError c.fn 2)) ∧
    (s.reachable c.fn = true → s.roView c.fn = false → bit (s.fn c.fn).busy.toNat (c.slot % 32) = true →
      Goes (r.2 c) s fun t => (t.fn c.fn).dbErr = (s.fn c.fn).dbErr ||| 3 ∧ (t.fn c.fn).lastSlot = c.slot % 32 ∧
        (t.fn c.fn).busy = (s.fn c.fn).busy ∧ (t.fn c.fn).mail.win = (s.fn c.fn).mail.win) ∧
    (s.reachable c.fn = true → s.roView c.fn = false → bit (s.fn c.fn).busy.toNat (c.slot % 32) = false →
      s.unserved c.fn = true → exec (r.2 c) s = .next ((s.books r.1 c).final (taken r.1 s c) false sNotActive 0 0)) ∧
    (s.Clear r.1 c →
      let k := taken r.1 s c
      let t := s.takes r.1 c
      let q := checkCommand r.1 t k
      (q.1 ≠ sOk → exec (r.2 c) s = .next (t.final k false q.1 q.2 0)) ∧
      (q.1 = sOk → (r.1.pre t k).1 ≠ sOk → exec (r.2 c) s = .next (t.final k false (r.1.pre t k).1 (r.1.pre t k).2 0)) ∧
      (q.1 = sOk → (r.1.pre t k).1 = sOk → r.1.refs k ≠ [] → ((s.fn c.fn).mail.bme = false ∨ (s.fn c.fn).mail.halted = true) →
        exec (r.2 c) s = .next (t.final k false sAborted 0 0))) ∧
    (s.reachable c.fn = true → s.roView c.fn = false → bit (s.fn c.fn).busy.toNat (c.slot % 32) = false →
      s.unserved c.fn = false →
      (s.takingOver c.fn = true ∨ (s.fn c.fn).mail.fence ≠ none ∨ (s.fn c.fn).mail.accepted ≠ []) →
      Goes (r.2 c) s fun t => (t.fn c.fn).mail.accepted = (s.fn c.fn).mail.accepted ++ [taken r.1 s c] ∧
        bit (t.fn c.fn).busy.toNat (c.slot % 32) = true ∧ (t.fn c.fn).cqProd = (s.fn c.fn).cqProd)

/-- What a final completion leaves in the mailbox (R50, R51, R59, R64). -/
def Obligations.CompletionPosted : Prop :=
  ∀ (s : State) (c : Cmd) (status detail at_ : Nat) (resp : List Byte),
    (s.fn c.fn).mail.floor < c.acc → (s.fn c.fn).mail.replay < c.acc →
    let x := s.fn c.fn
    let t := s.final c false status detail at_ resp
    let y := t.fn c.fn
    if x.mail.waiting = [] ∧ 0 < x.cqFree then
      tfind y.mail.cq (x.cqProd % 64) =
        some { tag := c.tag, opcode := c.op, slot := c.slot, kind := 0, respLen := resp.length,
               status := (if c.acc ∈ x.mail.late ∧ status = sOk then sLate else status), detail := detail, appliedAt := at_, leaf := s.leafByte c.fn, seq := x.mail.seqC } ∧
      y.cqProd = (x.cqProd + 1) % 65536 ∧ y.mail.waiting = [] ∧
      y.busy = x.busy &&& ~~~(BitVec.ofNat 32 (2 ^ c.slot)) ∧
      mread winDefault y.mail.win (c.slot * 512 + 32) resp.length = resp ∧
      (∀ a, (a < c.slot * 512 + 32 ∨ c.slot * 512 + 32 + resp.length ≤ a) →
        mget winDefault y.mail.win a = mget winDefault x.mail.win a) ∧
      bit y.intStatus.toNat 0 = true ∧ ∀ g, g ≠ c.fn → t.fn g = s.fn g
    else
      y.mail.waiting.length = x.mail.waiting.length + 1 ∧ y.cqProd = x.cqProd ∧ y.busy = x.busy ∧ y.mail.win = x.mail.win

/-- Timed commands wait in the queue of their function until their sample (R55 to R60). -/
def Obligations.TimedCommands : Prop :=
  (∀ r ∈ mailRows, ∀ (s : State) (c : Cmd), s.Clear r.1 c → c.when_ ≠ 0 → (s.fn c.fn).mail.queued = [] →
    let k := taken r.1 s c
    let u := r.1.stage k (s.takes r.1 c)
    let d := u.fnDom c.fn
    checkCommand r.1 (s.takes r.1 c) k = (sOk, 0) → (r.1.pre (s.takes r.1 c) k).1 = sOk → r.1.refs k = [] →
      (rateHz d.rate = 0 → exec (r.2 c) s = .next (u.final k false sBadState 0 0)) ∧
      (rateHz d.rate ≠ 0 → countOf (rateHz d.rate) c.when_ < d.nextCount →
        exec (r.2 c) s = .next (applyNow r.1 k false true false [] u)) ∧
      (rateHz d.rate ≠ 0 → d.nextCount ≤ countOf (rateHz d.rate) c.when_ →
        Goes (r.2 c) s fun t => (t.fn c.fn).mail.queued =
          [{ cmd := k, count := countOf (rateHz d.rate) c.when_, released := true,
             prepared := decide (d.nextCount < countOf (rateHz d.rate) c.when_), data := [] }] ∧
          t = (u.interim k sQueued).modMail c.fn fun m => { m with queued := m.queued ++ (t.fn c.fn).mail.queued })) ∧
  ∀ (s : State) (f : FnId),
    let turn : Pend → Prop := fun q => q.count ≤ (s.fnDom f).nextCount ∧ ¬(q.cmd.when_ = 0 ∧ (s.fn f).mail.holds q.cmd.acc = true)
    (s.takingOver f = true → exec (.timedCommandApply f) s = .next s) ∧
    ((∀ p ∈ (s.fn f).mail.queued, ¬turn p) → exec (.timedCommandApply f) s = .next s) ∧
    ∀ p, s.takingOver f = false → p ∈ (s.fn f).mail.queued → p.cmd.fn = f → turn p →
      (∀ q ∈ (s.fn f).mail.queued, turn q → q = p ∨ p.cmd.acc < q.cmd.acc) →
      ∀ sp, specOf p.cmd.op = some sp →
        let u := s.modMail f fun m => { m with queued := m.queued.filter fun q => q.cmd.acc != p.cmd.acc }
        let late := p.late || (p.count != 0 && decide (p.count < (s.fnDom f).nextCount))
        exec (.timedCommandApply f) s = .next
          (if late = true ∧ bit p.cmd.flags 0 = true then (sp.undo p.cmd u).final p.cmd p.released sLate 0 0
           else applyNow sp p.cmd (p.prepared && !late) late p.released p.data u)

/-- Consumer index writes (R43): out of range they are discarded with `DB_ERR.BAD_VALUE`, else they take
effect. An index ahead of the producer is more than the ring size behind it modulo 65 536. -/
def Obligations.RingIndexWrites : Prop :=
  ∀ (f : FnId) (v : BitVec 32) (s : State), s.reachable f = true →
    (64 < ringUsed (s.fn f).cqProd (v.toNat % 65536) →
      Goes (.cqCons f v) s fun t => (t.fn f).cqCons = (s.fn f).cqCons ∧ (t.fn f).dbErr = (s.fn f).dbErr ||| 8 ∧
        bit (t.fn f).intStatus.toNat 5 = true ∧ (t.fn f).mail.cq = (s.fn f).mail.cq) ∧
    (ringUsed (s.fn f).cqProd (v.toNat % 65536) ≤ 64 →
      exec (.cqCons f v) s = .next (s.setFn f { s.fn f with cqCons := v.toNat % 65536 })) ∧
    (1024 < ringUsed (s.fn f).eqProd (v.toNat % 65536) →
      Goes (.eqCons f v) s fun t => (t.fn f).eqCons = (s.fn f).eqCons ∧ (t.fn f).dbErr = (s.fn f).dbErr ||| 8 ∧
        bit (t.fn f).intStatus.toNat 5 = true ∧ (t.fn f).mail.eq = (s.fn f).mail.eq) ∧
    (ringUsed (s.fn f).eqProd (v.toNat % 65536) ≤ 1024 →
      Goes (.eqCons f v) s fun t => (t.fn f).eqCons = v.toNat % 65536 ∧ (t.fn f).dbErr = (s.fn f).dbErr ∧
        (t.fn f).eqProd = (s.fn f).eqProd ∧ (t.fn f).mail.eq = (s.fn f).mail.eq)

/-- A doorbell rings a slot (R42, R49); COMMAND_VALIDATED goes on with the command it accepts. -/
def Obligations.DoorbellRings : Prop :=
  ∀ (f : FnId) (v : BitVec 32) (s : State), s.reachable f = true →
    (s.roView f = true → exec (.doorbell f v) s = .next (s.dbError f 2)) ∧
    (s.roView f = false → 32 ≤ v.toNat → Goes (.doorbell f v) s fun t =>
      (t.fn f).dbErr = (s.fn f).dbErr ||| 8 ∧ (t.fn f).busy = (s.fn f).busy ∧ (t.fn f).mail.accepted = (s.fn f).mail.accepted) ∧
    (s.roView f = false → v.toNat < 32 → bit (s.fn f).busy.toNat v.toNat = true → Goes (.doorbell f v) s fun t =>
      (t.fn f).dbErr = (s.fn f).dbErr ||| 1 ∧ (t.fn f).lastSlot = v.toNat ∧ (t.fn f).busy = (s.fn f).busy ∧
        (t.fn f).mail.accepted = (s.fn f).mail.accepted) ∧
    (s.roView f = false → v.toNat < 32 → bit (s.fn f).busy.toNat v.toNat = false → s.unserved f = false →
      Goes (.doorbell f v) s fun t =>
        (t.fn f).busy = (s.fn f).busy ||| BitVec.ofNat 32 (2 ^ v.toNat) ∧ (t.fn f).dbErr = (s.fn f).dbErr ∧
        (t.fn f).mail.accepted = (s.fn f).mail.accepted ++
          [parseSlot f v.toNat ((s.fn f).mail.accNo + 1) (mread winDefault (s.fn f).mail.win (v.toNat * 512) 512)] ∧
        (t.fn f).mail.accNo = (s.fn f).mail.accNo + 1 ∧ (t.fn f).cqProd = (s.fn f).cqProd)

/-- Host accesses with an effect of their own (R40 to R46, R72, R82). -/
def Obligations.HostRegisterCommands : Prop :=
  ∀ (f : FnId) (s : State), s.reachable f = true →
    (∀ cycles l g, f ≠ .f2 → s.server f = some (l, g) → (s.leaf l).fs ≠ 0 → Goes (.tbSnapLo f cycles) s fun t =>
      (t.fn f).tbLo + 4294967296 * (t.fn f).tbHi =
        (((s.leaf l).tb (s.leaf l).clk.dom.tb).advance cycles).tns % 18446744073709551616 ∧
      (t.fn f).tick = (s.leaf l).clk.dom.sample % 4294967296 ∧ (t.fn f).busy = (s.fn f).busy ∧ (t.fn f).mail = (s.fn f).mail) ∧
    (∀ cycles l g, f ≠ .f2 → s.server f = some (l, g) → (s.leaf l).fs = 0 → Goes (.tbSnapLo f cycles) s fun t =>
      (t.fn f).tbLo = 0 ∧ (t.fn f).tbHi = 0 ∧ (t.fn f).tick = 0) ∧
    (∀ v : BitVec 32, f ≠ .f2 → s.roView f = false → v.toNat < 2 → (s.fn f).mail.posPending v.toNat = false →
      Goes (.posCommit f v) s fun t => (t.fn f).mail.posPending v.toNat = true ∧
        (t.fn f).mail.posQ.dropLast = (s.fn f).mail.posQ ∧ (t.fn f).dbErr = (s.fn f).dbErr) ∧
    (∀ v : BitVec 32, f ≠ .f2 → s.roView f = false → (2 ≤ v.toNat ∨ (s.fn f).mail.posPending v.toNat = true) →
      Goes (.posCommit f v) s fun t => (t.fn f).mail.posQ = (s.fn f).mail.posQ ∧ (t.fn f).dbErr = (s.fn f).dbErr ||| 8) ∧
    (exec (.clearHalt f 1) s = .next (s.modMail f fun m => { m with halted := false }) ∧ exec (.clearHalt f 0) s = .next s) ∧
    (∀ v : Nat, v < 4294967296 →
      exec (.registerWrite f false 0x108 (le32 v)) s =
        .next (s.modFn f fun x => { x with dbErr := x.dbErr &&& ~~~(BitVec.ofNat 4 v) }) ∧
      exec (.registerWrite f false 0x200 (le32 v)) s =
        .next (s.modFn f fun x => { x with intStatus := x.intStatus &&& ~~~(BitVec.ofNat 8 v) }) ∧
      exec (.registerWrite f false 0x208 (le32 v)) s = .next (s.modFn f fun x => { x with intVector := BitVec.ofNat 32 v }) ∧
      exec (.registerWrite f false 0x20C (le32 v)) s =
        .next (s.modFn f fun x => { x with modDelay := v % 65536, modCount := v / 65536 % 256 }) ∧
      exec (.registerWrite f false 0x304 (le32 v)) s = exec (.clearHalt f (BitVec.ofNat 32 v)) s ∧
      exec (.registerWrite f false 0x110 (le32 v)) s = .next s) ∧
    ∀ (off : Nat) (bytes : List Byte), s.roView f = false →
      (off < 0x4000 → bit (s.fn f).busy.toNat (off / 512) = false → off % 512 + bytes.length ≤ 512 →
        Goes (.registerWrite f true off bytes) s fun t => mread winDefault (t.fn f).mail.win off bytes.length = bytes ∧
          (∀ a, (a < off ∨ off + bytes.length ≤ a) → mget winDefault (t.fn f).mail.win a = mget winDefault (s.fn f).mail.win a) ∧
          (t.fn f).dbErr = (s.fn f).dbErr) ∧
      (off < 0x4000 → bit (s.fn f).busy.toNat (off / 512) = true →
        Goes (.registerWrite f true off bytes) s fun t => (t.fn f).mail.win = (s.fn f).mail.win ∧
          (t.fn f).dbErr = (s.fn f).dbErr ||| 2 ∧ (t.fn f).lastSlot = off / 512) ∧
      (f ≠ .f2 → 0x20000 ≤ off → off < 0x30000 → (s.fn f).mail.posPending ((off - 0x20000) / 0x8000) = true →
        Goes (.registerWrite f true off bytes) s fun t => (t.fn f).mail.win = (s.fn f).mail.win ∧
          (t.fn f).dbErr = (s.fn f).dbErr ||| 2) ∧
      (f ≠ .f2 → 0x20000 ≤ off → off < 0x30000 → (s.fn f).mail.posPending ((off - 0x20000) / 0x8000) = false →
        off % 0x8000 + bytes.length ≤ 0x8000 →
        Goes (.registerWrite f true off bytes) s fun t => mread winDefault (t.fn f).mail.win off bytes.length = bytes) ∧
      ((0x4000 ≤ off ∧ off < 0x20000 ∨ 0x30080 ≤ off) → exec (.registerWrite f true off bytes) s = .next s)

/-- The steps of the mailbox machinery (R44, R51, R52, R54, R68, R519). -/
def Obligations.MailboxSteps : Prop :=
  ∀ (f : FnId) (s : State),
    (∀ c rest, (s.fn f).mail.accepted = c :: rest → s.takingOver f = false → (s.fn f).mail.fence = none →
      exec (.commandValidated f) s =
        .next (validate (specOf c.op) drainDue c (s.modMail f fun m => { m with accepted := rest }))) ∧
    ((s.takingOver f = true ∨ (s.fn f).mail.fence ≠ none ∨ (s.fn f).mail.accepted = []) →
      exec (.commandValidated f) s = .next s) ∧
    (∀ w rest, (s.fn f).mail.waiting = w :: rest → 0 < (s.fn f).cqFree → Goes (.completionPost f) s fun t =>
      (t.fn f).mail.waiting = rest ∧ (t.fn f).cqProd = ((s.fn f).cqProd + 1) % 65536 ∧
      tfind (t.fn f).mail.cq ((s.fn f).cqProd % 64) = some { w.record with seq := (s.fn f).mail.seqC } ∧
      (w.release = true → bit (t.fn f).busy.toNat w.record.slot = false) ∧ bit (t.fn f).intStatus.toNat 0 = true) ∧
    ((s.fn f).cqFree = 0 → exec (.completionPost f) s = .next s) ∧
    ((s.fn f).mail.lostDue = true → 0 < (s.fn f).mail.lostSince → 0 < (s.fn f).eqFree → Goes (.eventsLost f) s fun t =>
      (t.fn f).mail.lostDue = false ∧ (t.fn f).mail.lostSince = 0 ∧
      ∃ e, tfind (t.fn f).mail.eq ((s.fn f).eqProd % 1024) = some e ∧ e.code = 0x01F0 ∧ e.severity = 2 ∧
        e.payload = le32 (s.fn f).mail.lostSince ++ le32 (s.fn f).mail.lostFirst) ∧
    ((s.fn f).mail.lostDue = false → exec (.eventsLost f) s = .next s) ∧
    ((s.fn f).mail.modRun = true → Goes (.intModerationTimer f) s fun t =>
      (t.fn f).mail.modRun = false ∧ (t.fn f).mail.unsignalled = 0 ∧ (t.fn f).mail.modCq = false ∧
      (t.fn f).mail.modEq = false ∧ (t.fn f).intStatus = (s.fn f).intStatus) ∧
    ((s.fn f).mail.modRun = false → exec (.intModerationTimer f) s = .next s) ∧
    ∀ (code subject key : Nat),
      let found := (s.fn f).mail.reps.find? fun q => q.code == code && q.subject == subject && q.key == key && s.repDue q
      (found = none → exec (.rateLimitedReport f code subject key) s = .next s) ∧
      ∀ r, found = some r →
        (r.count = 0 → Goes (.rateLimitedReport f code subject key) s fun t => ∀ q ∈ (t.fn f).mail.reps, r.same q = false) ∧
        (r.count ≠ 0 → Goes (.rateLimitedReport f code subject key) s fun t => ∀ q ∈ (t.fn f).mail.reps,
          r.same q = true → q.count = 0 ∧ q.count2 = 0 ∧ q.last = (s.leaf r.clock).clk.cycles)

/-- Reports at most once per interval (R519): a first case at once, cases within the interval counted, and
the counted cases with the first case after it. -/
def Obligations.ReportsLimited : Prop :=
  ∀ (s : State) (f : FnId) (l : LeafId) (r0 : Rep), ¬(f = .f1 ∧ s.variant.hasB = false) → r0.sev ≤ 3 →
    let r : Rep := { r0 with clock := l }
    let now := (s.leaf l).clk.cycles
    let t := s.reportOn f l r0
    ((s.fn f).mail.reps.find? r.same = none →
      (t.fn f).mail.reps = (s.fn f).mail.reps ++ [{ r with count := 0, count2 := 0, last := now }] ∧
      ((s.fn f).mail.lostDue = false → 8 ≤ (s.fn f).eqFree → (t.fn f).eqProd = ((s.fn f).eqProd + 1) % 65536 ∧
        ∃ e, tfind (t.fn f).mail.eq ((s.fn f).eqProd % 1024) = some e ∧ e.code = r.code ∧ e.payload = r.payload)) ∧
    ∀ q, (s.fn f).mail.reps.find? r.same = some q →
      (s.repDue q = false → t = s.modMail f fun m => { m with reps := mapIf r.same (fun _ => q.add r) m.reps }) ∧
      (s.repDue q = true →
        (∀ w ∈ (t.fn f).mail.reps, r.same w = true → w.count = 0 ∧ w.count2 = 0 ∧ w.last = now) ∧
        ((s.fn f).mail.lostDue = false → 8 ≤ (s.fn f).eqFree → (t.fn f).eqProd = ((s.fn f).eqProd + 1) % 65536 ∧
          ∃ e, tfind (t.fn f).mail.eq ((s.fn f).eqProd % 1024) = some e ∧ e.code = r.code ∧ e.payload = (q.add r).payload))

/-- Which events are discarded, what a discard does, and the report that follows (R68). -/
def Obligations.EventsPostedOrDiscarded : Prop :=
  ∀ (s : State) (f : FnId) (e : Event), ¬(f = .f1 ∧ s.variant.hasB = false) → e.severity ≤ 3 →
    let x := s.fn f
    let y := (s.event f e).fn f
    ((x.mail.lostDue = false ∨ x.mail.lostSince = 0 ∨ x.eqFree = 0) →
      (x.eqFree < (if e.severity = 3 then 1 else 8) →
        y.eqLost = min 4294967295 (x.eqLost + 1) ∧ bit y.intStatus.toNat 3 = true ∧ y.eqProd = x.eqProd ∧
        y.mail.eq = x.mail.eq) ∧
      ((if e.severity = 3 then 1 else 8) ≤ x.eqFree →
        y.eqProd = (x.eqProd + 1) % 65536 ∧ tfind y.mail.eq (x.eqProd % 1024) = some { e with seq := x.mail.seqE } ∧
        y.eqLost = x.eqLost ∧ bit y.intStatus.toNat 1 = true ∧ (e.severity = 3 → bit y.intStatus.toNat 2 = true))) ∧
    (x.mail.lostDue = true → 0 < x.mail.lostSince → 0 < x.eqFree →
      ∃ r, tfind y.mail.eq (x.eqProd % 1024) = some r ∧ r.code = 0x01F0 ∧
        r.payload = le32 x.mail.lostSince ++ le32 x.mail.lostFirst) ∧
    ∀ v : BitVec 32, s.reachable f = true → ringUsed x.eqProd (v.toNat % 65536) ≤ 1024 → 0 < x.mail.lostSince →
      x.eqFree < ({ x with eqCons := v.toNat % 65536 } : Fn).eqFree →
      Goes (.eqCons f v) s fun t => (t.fn f).mail.lostDue = true ∧ (t.fn f).mail.lostSince = x.mail.lostSince

/-- Resets of functions, power states, Bus Master Enable and the link (R31 to R34, R82). -/
def Obligations.FunctionResets : Prop :=
  ∀ (s : State),
    let cleared : FnId → State → Prop := fun f t =>
      (t.fn f).busy = 0 ∧ (t.fn f).dbErr = 0 ∧ (t.fn f).cqProd = 0 ∧ (t.fn f).cqCons = 0 ∧ (t.fn f).eqCons = 0 ∧
      (t.fn f).intMask = 255 ∧ (t.fn f).mail.accepted = [] ∧ (t.fn f).mail.queued = [] ∧ (t.fn f).mail.waiting = [] ∧
      (t.fn f).mail.dma = [] ∧ (t.fn f).mail.posQ = [] ∧ (t.fn f).mail.halted = false ∧
      (s.roView f = false → (t.fn f).capsDone = false) ∧
      ∀ l, (∀ w ∈ (t.leaf l).scene.route.waits, w.cmd.fn ≠ f) ∧ (∀ k ∈ (t.leaf l).scene.vox.cmds, k.cmd.fn ≠ f) ∧
        ∀ d ∈ (t.leaf l).scene.out.fades, ∀ k ∈ d.waiting, k.cmd.fn ≠ f
    (∀ f, Goes (.functionLevelReset f) s fun t => cleared f t ∧ t.red = s.red ∧ t.cop = s.cop ∧ t.plinth = s.plinth) ∧
    (Goes .linkHotReset s fun t => (∀ f, cleared f t) ∧ t.red = s.red ∧ t.cop = s.cop ∧
      (s.plinth.supply = false → t.plinth = s.plinth) ∧ (s.plinth.supply = true → t.plinth.link = true ∧
        1 ≤ t.plinth.speed ∧ t.plinth.speed ≤ 4 ∧ (t.plinth.width = 1 ∨ t.plinth.width = 2 ∨ t.plinth.width = 4))) ∧
    (∀ f, (s.fn f).mail.halted = false → Goes (.busMasterDisable f) s fun t =>
      (t.fn f).mail.bme = false ∧ (t.fn f).mail.halted = true ∧ (t.fn f).mail.dma = [] ∧ bit (t.fn f).intStatus.toNat 7 = true) ∧
    (∀ f, Goes (.busMasterEnable f) s fun t => (t.fn f).mail.bme = true ∧ (t.fn f).mail.halted = (s.fn f).mail.halted ∧
      t.la = s.la ∧ t.lb = s.lb) ∧
    (∀ f, exec (.powerStateChange f true) s = .next (s.modMail f fun m => { m with d3 := true })) ∧
    (∀ f, Goes (.powerStateChange f false) s fun t => (t.fn f).mail.d3 = false ∧ (t.fn f).busy = (s.fn f).busy ∧
      (t.fn f).cqProd = (s.fn f).cqProd ∧ t.la = s.la ∧ t.lb = s.lb) ∧
    (∀ f cause, (s.fn f).mail.halted = false → Goes (.dmaHalt f cause) s fun t =>
      (t.fn f).mail.halted = true ∧ (t.fn f).mail.dma = [] ∧ bit (t.fn f).intStatus.toNat 7 = true) ∧
    (∀ f cause, (s.fn f).mail.halted = true → exec (.dmaHalt f cause) s = .next s) ∧
    exec .pcieLinkDown s = .next { s with plinth := { s.plinth with link := false, speed := 0, width := 0 } }

/-- Commands with a bulk transfer (R78, R79): they join the channel, and go on after their last
reference. -/
def Obligations.BulkTransfers : Prop :=
  (∀ r ∈ mailRows, ∀ (s : State) (c : Cmd), s.Clear r.1 c →
    let k := taken r.1 s c
    let refs := (r.1.refs k).map (refAt k)
    checkCommand r.1 (s.takes r.1 c) k = (sOk, 0) → (r.1.pre (s.takes r.1 c) k).1 = sOk → refs ≠ [] → r.1.toHost = false →
    (s.fn c.fn).mail.bme = true → (s.fn c.fn).mail.halted = false → (s.fn c.fn).mail.refCount + refs.length ≤ 64 →
      Goes (r.2 c) s fun t =>
        t = (r.1.stage k (s.takes r.1 c)).modMail c.fn (fun m => { m with dma := m.dma ++ [{ cmd := k, refs := refs }] }) ∧
        (t.fn c.fn).mail.dma = (s.fn c.fn).mail.dma ++ [{ cmd := k, refs := refs }] ∧
        bit (t.fn c.fn).busy.toNat (c.slot % 32) = true ∧ (t.fn c.fn).cqProd = (s.fn c.fn).cqProd) ∧
  ∀ (s : State) (f : FnId) (j : DmaJob) (rest : List DmaJob) (r : XferRef) (refs : List XferRef) (data : List Byte),
    (s.fn f).mail.dma = j :: rest → j.refs = r :: refs →
    ((s.takingOver f = true ∨ j.toHost = false ∧ data.length ≠ r.len) → exec (.dmaTransferDone f data) s = .next s) ∧
    (s.takingOver f = false → j.toHost = true →
      (refs ≠ [] → exec (.dmaTransferDone f data) s =
        .next ((s.send { kind := 1, unit := f.num, a := r.addr, data := j.out.take r.len }).modMail f fun m =>
          { m with dma := { j with refs := refs, out := j.out.drop r.len } :: rest })) ∧
      (refs = [] → exec (.dmaTransferDone f data) s =
        .next (((s.send { kind := 1, unit := f.num, a := r.addr, data := j.out.take r.len }).modMail f fun m =>
          { m with dma := rest }).final j.cmd false sOk j.detail (if f = .f2 then 0 else s.appliedAt f)))) ∧
    (s.takingOver f = false → j.toHost = false → data.length = r.len →
      (refs ≠ [] → exec (.dmaTransferDone f data) s = .next (s.modMail f fun m =>
        { m with dma := { j with refs := refs, data := j.data ++ data, out := j.out.drop r.len } :: rest })) ∧
      (∀ sp, refs = [] → specOf j.cmd.op = some sp → exec (.dmaTransferDone f data) s =
        .next (schedule sp drainDue j.cmd (j.data ++ data)
          ((s.modMail f fun m => { m with dma := rest }).journalData j.cmd (j.data ++ data)))))

/-- What the commands of the scene do (R119 to R123, R128, R138, R143, R144): settings, objects, beds and
maps take the values of the body's fields; `SCN_CLEAR` fades every enabled object to silence and drops its
points, or without a fade clears the scene at once; what a command does not name keeps its value. -/
def Obligations.SceneCommands : Prop :=
  (∀ s c p, State.Served s specScnConfig c p →
    let cx := s.ctx c.fn p
    let x := s.meets specScnConfig c p
    (runScnConfig cx c [] x).status = sOk → Goes (.scnConfig c) s fun t =>
      let y := t.seen p
      let o := y.scene.objs
      o.slotLimit = some (u16 c.body 0) ∧ o.foldMode = u8 c.body 2 ∧ o.foldSpan = u8 c.body 3 ∧ o.foldFade = u16 c.body 4 ∧
        o.bedRadius = f32D c.body 8 ∧ o.admRadius = f32D c.body 12 ∧ o.admX = f32D c.body 16 ∧ o.admY = f32D c.body 20 ∧
        o.admZ = f32D c.body 24) ∧
  (∀ s c p, State.Served s specScnClearAll c p →
    let cx := s.ctx c.fn p
    let x := s.meets specScnClearAll c p
    x.scene.clearingNow cx.n = false → Goes (.scnClear c) s fun t =>
      let o := (t.seen p).scene.objs
      if u16 c.body 0 = 0 then
        o.clearing = none ∧ o.beds = [] ∧ o.maps = [] ∧
          ∀ i, ((t.seen p).scene.obj i).enabled = false ∧ ((t.seen p).scene.obj i).points = []
      else o.clearing = some (cx.n, cx.n + u16 c.body 0) ∧
        ∀ i ∈ x.scene.enabled, ((t.seen p).scene.obj i).run.fade.target = 0 ∧ ((t.seen p).scene.obj i).points = []) ∧
  (∀ s c p, State.Served s specObjConfigAll c p →
    let cx := s.ctx c.fn p
    let x := s.meets specObjConfigAll c p
    (runObjConfig cx c [] x).status = sOk → Goes (.objConfig c) s fun t =>
      let y := t.seen p
      let b := c.body
      let o := y.scene.obj (u16 b 0)
      o.set = { priority := u8 b 3, flags := u16 b 4, gainRamp := u16 b 10, xfade := u16 b 12, dynThr := s16 b 14,
                dynRatio := u16 b 16, dynAttack := u16 b 18, dynRelease := u16 b 20, gain := s16 b 22 } ∧
        o.enabled = (x.scene.obj (u16 b 0)).enabled ∧
        ∀ i, i ≠ u16 b 0 → (y.scene.obj i).set = (x.scene.obj i).set ∧ (y.scene.obj i).enabled = (x.scene.obj i).enabled) ∧
  (∀ s c p, State.Served s specObjEnable c p →
    let cx := s.ctx c.fn p
    let x := s.meets specObjEnable c p
    (runObjEnable cx c [] x).status = sOk → Goes (.objEnable c) s fun t =>
      let y := t.seen p
      ∀ i, (y.scene.obj i).enabled = if u16 c.body 0 ≤ i ∧ i < u16 c.body 0 + u16 c.body 2 then u8 c.body 4 == 1
        else (x.scene.obj i).enabled) ∧
  (∀ s c p, State.Served s specObjSetPos c p →
    let cx := s.ctx c.fn p
    let x := s.meets specObjSetPos c p
    (x.scene.clearingNow cx.n = false ∧ (x.scene.obj (u16 c.body 0)).run.bed = none ∧ (x.scene.obj (u16 c.body 0)).run.adm = none) → Goes (.objSetPos c) s fun t =>
      let y := t.seen p
      let b := c.body
      let o := x.scene.obj (u16 b 0)
      let q := y.scene.obj (u16 b 0)
      q.set.gain = (if bit (u8 b 8) 1 then s16 b 32 else o.set.gain) ∧
        q.spread = (if bit (u8 b 8) 2 then f32D b 36 else o.spread) ∧
        (bit (u8 b 8) 0 = true → u64 b 24 = 0 →
          q.anchor = { pos := ⟨f32D b 12, f32D b 16, f32D b 20⟩, t := x.nextTns, jump := bit (u8 b 8) 3 } ∧ q.points = []) ∧
        (bit (u8 b 8) 0 = true → x.nextTns < u64 b 24 →
          q.anchor.pos = o.traj x.nextTns ∧ q.anchor.t = x.nextTns ∧
          q.points.getLast? = some { pos := ⟨f32D b 12, f32D b 16, f32D b 20⟩, t := u64 b 24, jump := bit (u8 b 8) 3 }) ∧
        (bit (u8 b 8) 0 = false → q.anchor = o.anchor ∧ q.points = o.points) ∧
        cx.n = x.next ∧ ∀ i, i ≠ u16 b 0 → y.scene.obj i = x.scene.obj i) ∧
  (∀ s c p, State.Served s specObjBedAll c p →
    let cx := s.ctx c.fn p
    let x := s.meets specObjBedAll c p
    (runObjBed cx c [] x).status = sOk → Goes (.objBed c) s fun t =>
      let y := t.seen p
      let b := c.body
      if u8 b 2 = 0 then ∀ d ∈ y.scene.objs.beds, d.base = u16 b 0 → d.removing = some (cx.n + 1 + u16 b 4)
      else y.scene.objs.beds = x.scene.objs.beds ++ [{ base := u16 b 0, system := u8 b 2 }]) ∧
  (∀ s c p, State.Served s specObjAdmMap c p →
    let cx := s.ctx c.fn p
    let x := s.meets specObjAdmMap c p
    (runObjAdmMap cx c [] x).status = sOk → Goes (.objAdmMap c) s fun t =>
      let y := t.seen p
      let b := c.body
      (tfind y.scene.objs.maps (u8 b 0)).map (fun m => (m.metaS, m.audio, m.base, m.count, m.basePrio, m.mode, m.fade)) =
        (if u8 b 1 = 0 then none
         else some (u16 b 2, u16 b 4, u16 b 6, u16 b 8, u8 b 10, u8 b 11, u16 b 12)) ∧
        ∀ k, k ≠ u8 b 0 → tfind y.scene.objs.maps k = tfind x.scene.objs.maps k) ∧
  (∀ s c p, State.Served s specObjQuery c p →
    let x := s.meets specObjQuery c p
    s.Open c.fn → Goes (.objQuery c) s (s.Answered specObjQuery c p fun r =>
      let o := x.scene.obj (u16 c.body 0)
      r.length = 32 ∧ slice r 4 12 = f32le (o.traj x.now).x ++ f32le (o.traj x.now).y ++ f32le (o.traj x.now).z ∧
        u8 r 22 = o.points.length % 256 ∧ u16 r 24 = x.scene.units % 65536 ∧ u16 r 26 = (o.run.adm.getD 65535) % 65536))

/-- When a pending position buffer is applied, and what its records do (R71 to R76, R129). -/
def Obligations.PositionCommits : Prop :=
  ∀ (f : FnId) (s : State),
    let fs := rateHz (s.fnDom f).rate
    let k := (s.fnDom f).nextCount
    ((s.fn f).mail.posQ = [] → exec (.posCommitApply f) s = .next s) ∧
    ((s.fnDom f).rate = 0 → exec (.posCommitApply f) s = .next s) ∧
    ∀ p rest q, (s.fn f).mail.posQ = p :: rest → s.server f = some q → (s.fnDom f).rate ≠ 0 →
      let want := u64 (mread winDefault (s.fn f).mail.win (0x30000 + p.buf * 64) 64) 0
      let u := drainAll f s
      (want ≠ 0 → k < countOf fs want → exec (.posCommitApply f) s = .next s) ∧
      ((want = 0 ∨ countOf fs want ≤ k) → (u.fn f).mail.posQ = p :: rest → u.commitDue f = true → u.server f = some q →
        Goes (.posCommitApply f) s fun t =>
        (t.fn f).mail.posQ = rest ∧ (t.fn f).lastBuf = p.buf ∧ (t.fn f).applied = ((u.fn f).applied + 1) % 65536 ∧
        bit (t.fn f).intStatus.toNat 4 = true ∧ (t.fn f).mail.win = (u.fn f).mail.win ∧
        ∀ i, i < 512 →
          let b := (u.fn f).posRecord p.buf i
          let x := u.seen q
          let o := x.scene.obj i
          let w := (t.seen q).scene.obj i
          let bad := lowestBad (recordChecks b 0 (countTns (rateHz (u.fnDom f).rate) (u.fnDom f).nextCount) o.run.bed.isSome)
          ((u8 b 0 = 0 ∨ bad.isSome = true ∨ o.run.adm.isSome = true ∨ x.scene.clearingNow x.next = true) → w = o) ∧
          (u8 b 0 ≠ 0 → bad = none → o.run.adm = none → i < objCap x.clk.dom.rate → x.scene.clearingNow x.next = false →
            w.set.gain = (if bit (u8 b 0) 1 then s16 b 24 else o.set.gain) ∧
            w.spread = (if bit (u8 b 0) 2 ∧ o.run.bed = none then f32D b 28 else o.spread) ∧ w.enabled = o.enabled))

/-- What the device's own steps do to a scene (R122, R139, R143, R144, R153, R334). -/
def Obligations.SceneSteps : Prop :=
  ∀ (l : LeafId) (s : State),
    let x := s.leaf l
    (∀ i f, (x.scene.obj i).run.xf = some f → f.level.busy (x.next - 1) = true → Goes (.objXfadeEnd l i) s fun t =>
      ∀ j, (t.leaf l).scene.obj j = x.scene.obj j) ∧
    (∀ i f, (x.scene.obj i).run.xf = some f → f.level.busy (x.next - 1) = false → Goes (.objXfadeEnd l i) s fun t =>
      let o := x.scene.obj i
      let w := (t.leaf l).scene.obj i
      w.run.change = none ∧ w.set = o.set ∧ (∀ j, j ≠ i → (t.leaf l).scene.obj j = x.scene.obj j) ∧
      (o.run.change = none → w.run.xf = none ∧ w.rend = o.rend ∧ w.run.cur = o.run.cur) ∧
      ∀ r, o.run.change = some r → o.enabled = true → r.mode ≠ o.rend.mode → w.rend = r ∧ ∃ g, w.run.xf = some g ∧
        g.old = o.run.cur ∧ g.level.start = 0 ∧ g.level.target = 1 ∧ g.level.first = x.next ∧ g.level.len = o.set.xfade) ∧
    (∀ at_ stop, x.scene.objs.clearing = some (at_, stop) → x.next < stop → Goes (.scnClearReturn l) s (s.Rests l)) ∧
    (∀ at_ stop, x.scene.objs.clearing = some (at_, stop) → stop ≤ x.next → Goes (.scnClearReturn l) s fun t =>
      let y := (t.leaf l).scene
      y.objs.clearing = none ∧ y.objs.beds = [] ∧ y.objs.maps = [] ∧ y.rend = x.scene.rend ∧
      (∀ i, (y.obj i).enabled = false ∧ (y.obj i).set = obj0.set ∧ (y.obj i).points = [] ∧ (y.obj i).run = obj0.run) ∧
      ((x.scene.objs.objs.map Prod.fst).Nodup → ∀ i, (y.obj i).sel = (x.scene.obj i).sel)) ∧
    (∀ base d stop, (x.scene.objs.beds.find? fun d => d.base == base) = some d → d.removing = some stop →
      (x.next < stop → Goes (.bedRemoveEnd l base) s (s.Rests l)) ∧
      (stop ≤ x.next → Goes (.bedRemoveEnd l base) s fun t =>
        let y := (t.leaf l).scene
        (∀ e ∈ y.objs.beds, e.base ≠ base) ∧
        (∀ i, base ≤ i → i < base + bedCount d.system → y.obj i = { sel := (x.scene.obj i).sel }) ∧
        ∀ i, (i < base ∨ base + bedCount d.system ≤ i) → y.obj i = x.scene.obj i)) ∧
    (∀ id fr, fr.guest = true → exec (.admFrame l id fr) s =
      .next (s.asGuest l fun u => match exec (.admFrame l id { fr with guest := false }) u with
        | .next v => v
        | _ => u)) ∧
    (∀ id fr, fr.guest = false → (tfind x.scene.objs.maps id = none ∨ fr.good = false) → exec (.admFrame l id fr) s = .next s) ∧
    (∀ id fr m, fr.guest = false → tfind x.scene.objs.maps id = some m → fr.good = true →
      (tget x.scene.net.rx m.metaS ({} : RxStream)).on = true → (tget x.scene.net.rx m.metaS ({} : RxStream)).set.kind = 1 →
      x.scene.clearingNow x.next = false →
      Goes (.admFrame l id fr) s fun t => ∃ w, tfind (t.leaf l).scene.objs.maps id = some w ∧ w.base = m.base ∧ w.count = m.count ∧
        (∀ p ∈ m.assigned, (p ∈ w.assigned ↔ fr.full = false ∨ p.1 ∈ fr.objs.map AdmObj.id)) ∧
        (fr.full = true → fr.objs = [] → w.assigned = [] ∧ ∀ p ∈ m.assigned, ((t.leaf l).scene.obj p.2).enabled = false)) ∧
    (x.fs = 0 → Goes (.gainSolverBlock l) s (s.Rests l)) ∧
    (x.fs ≠ 0 → Goes (.gainSolverBlock l) s fun t =>
      (t.leaf l).scene.objs.solved = (if x.next % 16 = 0 then some x.next else x.scene.objs.solved) ∧
      (t.leaf l).scene.rend = x.scene.rend ∧ t.leaf l.other = s.leaf l.other ∧
      ∀ i, ((t.leaf l).scene.obj i).set = (x.scene.obj i).set ∧ ((t.leaf l).scene.obj i).enabled = (x.scene.obj i).enabled)

/-- What the commands of the layout and the renderer do (R146 to R154, R175). -/
def Obligations.LayoutCommands : Prop :=
  (∀ s c p, State.Served s specLaySpeaker c p →
    let x := s.meets specLaySpeaker c p
    Goes (.laySpeaker c) s fun t =>
      let y := t.seen p
      let b := c.body
      y.scene.rend.lay = x.scene.rend.lay ∧ y.scene.rend.generation = x.scene.rend.generation ∧
        y.scene.rend.edit.segments = x.scene.rend.edit.segments ∧
        (∀ k, k < u16 b 2 → tget y.scene.rend.edit.speakers (u16 b 0 + k) spk0 =
          if u8 b (32 + 32 * k) = 0 then spk0
          else { kind := u8 b (32 + 32 * k), pos := vecAt b (8 + 32 * k), orient := vecAt b (20 + 32 * k) }) ∧
        ∀ i, (i < u16 b 0 ∨ u16 b 0 + u16 b 2 ≤ i) →
          tget y.scene.rend.edit.speakers i spk0 = tget x.scene.rend.edit.speakers i spk0) ∧
  (∀ s c p, State.Served s specLaySegment c p →
    let x := s.meets specLaySegment c p
    Goes (.laySegment c) s fun t =>
      let y := t.seen p
      let b := c.body
      y.scene.rend.lay = x.scene.rend.lay ∧ y.scene.rend.edit.speakers = x.scene.rend.edit.speakers ∧
        (∀ i, i ≠ u8 b 0 → tfind y.scene.rend.edit.segments i = tfind x.scene.rend.edit.segments i) ∧
        (u8 b 1 = 0 → tfind y.scene.rend.edit.segments (u8 b 0) = none) ∧
        (u8 b 1 ≠ 0 → ∃ g, tfind y.scene.rend.edit.segments (u8 b 0) = some g ∧ g.members.length = u16 b 2 ∧
          g.dRef = f32D b 8 ∧ g.taper = u16 b 12 ∧ g.slew = u16 b 14 ∧ g.norm = u8 b 16 ∧
          ∀ k, k < u16 b 6 → u16 b 4 + k < u16 b 2 → g.members[u16 b 4 + k]? = some (some (u16 b (20 + 2 * k))))) ∧
  (∀ s c p, State.Served s specLayCommit c p →
    let x := s.meets specLayCommit c p
    (∀ q ∈ (s.seen p).scene.rend.staged, q.1 ≤ (s.fn c.fn).mail.accNo) →
    (∃ h, commitCheck x x.scene.rend.edit (u8 c.body 0) (u8 c.body 1) = .ok h) →
    (x.modScene fun q => { q with rend := { q.rend with lay := q.rend.edit } }).pairUse ≤ pairCap x.clk.dom.rate →
    Goes (.layCommit c) s fun t =>
      let y := t.seen p
      commitCheck x x.scene.rend.edit (u8 c.body 0) (u8 c.body 1) = .ok y.scene.rend.hull ∧
        y.scene.rend.lay = x.scene.rend.edit ∧ y.scene.rend.edit = x.scene.rend.edit ∧
        y.scene.rend.generation = (x.scene.rend.generation + 1) % 4294967296 ∧
        y.scene.rend.soundSpeed = x.scene.rend.soundSpeed ∧ ∀ i, (y.scene.obj i).set = (x.scene.obj i).set) ∧
  (∀ s c p, State.Served s specRndConfig c p →
    let x := s.meets specRndConfig c p
    Goes (.rndConfig c) s fun t =>
      let y := t.seen p
      let b := c.body
      y.scene.rend.soundSpeed = f32D b 0 ∧ y.scene.rend.rRef = f32D b 4 ∧ y.scene.rend.law = f32D b 8 ∧
        y.scene.rend.rNf = f32D b 12 ∧ y.scene.rend.rAir = f32D b 16 ∧ y.scene.rend.lay = x.scene.rend.lay ∧
        ∀ i, (y.scene.obj i).set = (x.scene.obj i).set ∧ (y.scene.obj i).enabled = (x.scene.obj i).enabled) ∧
  (∀ s c p, State.Served s specLayQuery c p →
    let x := s.meets specLayQuery c p
    s.Open c.fn → Goes (.layQuery c) s (s.Answered specLayQuery c p fun r =>
      let q := x.scene.rend
      let g := tfind q.lay.segments (u8 c.body 0)
      r.length = 32 ∧ u32 r 0 = q.generation % 4294967296 ∧ u16 r 4 = q.lay.full.length % 65536 ∧
        u16 r 6 = q.lay.low.length % 65536 ∧ u8 r 10 = q.hull.dim % 256 ∧ u8 r 12 = q.lay.segments.length % 256 ∧
        u32 r 16 = x.pairUse % 4294967296 ∧ u16 r 24 = ((g.map fun q => q.members.length).getD 0) % 65536)) ∧
  (∀ s c p, State.Served s specRndObjQuery c p →
    let x := s.meets specRndObjQuery c p
    s.Open c.fn → Goes (.rndObjQuery c) s (s.Answered specRndObjQuery c p fun r =>
      let o := x.scene.obj (u16 c.body 0)
      r.length = 160 ∧ u16 r 0 = u16 c.body 0 ∧
        (o.enabled = false → o.run.fade.busy x.clk.dom.sample = false → u8 r 2 = 4 ∧ u8 r 3 = 0) ∧
        u32 r 20 = x.scene.objPairs o % 4294967296))

/-- What the commands of the output chain do (R183 to R197, R210, R426). -/
def Obligations.OutputChainCommands : Prop :=
  (∀ s c p, State.Served s specOutFeedConfig c p →
    let cx := s.ctx c.fn p
    let x := s.meets specOutFeedConfig c p
    (∀ i, u16 c.body 0 ≤ i → i < u16 c.body 0 + u16 c.body 2 → s.ownsFeed c.fn i = true) →
    (runFeedConfig cx c [] x).status = sOk → Goes (.outFeedConfig c) s fun t =>
      let y := t.seen p
      y.scene.out.e = x.scene.out.e ∧ y.scene.out.banks = x.scene.out.banks ∧
      ∀ i, (y.scene.feed i).set = if u16 c.body 0 ≤ i ∧ i < u16 c.body 0 + u16 c.body 2
        then (x.scene.feed i).set.masked c.body else (x.scene.feed i).set) ∧
  (∀ s c p, State.Served s specOutBankLoadAll c p →
    let x := s.meets specOutBankLoadAll c p
    (u16 c.body 6 = 0 ∧ ((x.scene.bank (u8 c.body 0)).state = 0 ∨ (x.scene.bank (u8 c.body 0)).state = 2)) → Goes (.outBankLoad c) s fun t =>
      let y := t.seen p
      y.scene.bank (u8 c.body 0) = bank0 ∧ ∀ k, k ≠ u8 c.body 0 → y.scene.bank k = x.scene.bank k) ∧
  (∀ s c p, State.Served s specOutBankSwapAll c p →
    let cx := s.ctx c.fn p
    let x := s.meets specOutBankSwapAll c p
    (x.scene.activeRun = none ∧ (∀ f ∈ x.scene.out.fades, ∀ i ∈ f.feeds, i ∉ (x.scene.bank (u8 c.body 0)).feeds) ∧ (startSwap cx { cmd := c, released := true } false x).status = sOk) → Goes (.outBankSwap c) s fun t =>
      let y := t.seen p
      let k := u8 c.body 0
      let feeds := if u8 c.body 1 = 0 then (x.scene.bank k).feeds else x.scene.inForce k
      (∃ f : SwapFade, y.scene.out.fades = x.scene.out.fades ++ [f] ∧ f.bank = k ∧ f.op = u8 c.body 1 ∧
        f.curve = u8 c.body 2 ∧ f.first = x.next + 1 ∧ f.len = u16 c.body 4 ∧ f.feeds = feeds ∧ f.tag = c.tag) ∧
      (u8 c.body 1 = 0 → (y.scene.bank k).state = 3 ∧ (y.scene.bank k).sets = (x.scene.bank k).sets) ∧
      (u8 c.body 1 ≠ 0 → y.scene.bank k = x.scene.bank k) ∧
      x.scene.out.e ≤ y.scene.out.e ∧ y.scene.out.q = x.scene.out.q ∧
      ∀ i ∈ feeds, (y.scene.feed i).run.next.map Path.bank = some (if u8 c.body 1 = 0 then k else 255) ∧
        (y.scene.feed i).run.path.bank = (x.scene.feed i).run.path.bank) ∧
  (∀ s c p, State.Served s specOutSwapReserve c p →
    let x := s.meets specOutSwapReserve c p
    x.scene.reserveUsed ≤ u32 c.body 0 → x.scene.tapPeak [] + (u32 c.body 0 : Int) ≤ (x.tapBudget : Int) → Goes (.outSwapReserve c) s fun t =>
      let y := t.seen p
      y.scene.out = { x.scene.out with q := u32 c.body 0 }) ∧
  (∀ s c p, State.Served s specOutSceneDelay c p →
    let cx := s.ctx c.fn p
    let x := s.meets specOutSceneDelay c p
    (runSceneDelay cx c [] x).status = sOk → Goes (.outSceneDelay c) s fun t =>
      let y := t.seen p
      y.scene.out.eFloor = u32 c.body 0 ∧ u32 c.body 0 ≤ y.scene.out.e * 1024 ∧
        (∀ g ∈ x.scene.groupDelays, g ≤ y.scene.out.e * 1024) ∧ (u8 c.body 4 ≠ 1 → x.scene.out.e ≤ y.scene.out.e) ∧
        (u8 c.body 4 = 1 → y.scene.out.e = equalTotal x.scene.groupDelays (u32 c.body 0)) ∧
        y.scene.out.banks = x.scene.out.banks ∧ ∀ i, (y.scene.feed i).set = (x.scene.feed i).set) ∧
  (∀ s c p, State.Served s specOutFeedQuery c p →
    let x := s.meets specOutFeedQuery c p
    s.Open c.fn → Goes (.outFeedQuery c) s (s.Answered specOutFeedQuery c p fun r =>
      let f := x.scene.feed (u16 c.body 0)
      r.length = 32 ∧ u8 r 0 = f.run.path.bank % 256 ∧ u32 r 4 = f.run.path.g % 4294967296 ∧
        u32 r 12 = x.scene.out.e % 4294967296 ∧ u32 r 16 = f.set.align % 4294967296 ∧ u8 r 28 = b2n f.run.slewed)) ∧
  (∀ s c p, State.Served s specOutBankQuery c p →
    let x := s.meets specOutBankQuery c p
    s.Open c.fn → Goes (.outBankQuery c) s (s.Answered specOutBankQuery c p fun r =>
      let b := x.scene.bank (u8 c.body 0)
      r.length = 32 ∧ u8 r 0 = b.state % 256 ∧ u16 r 2 = b.n % 65536 ∧ u32 r 8 = b.g % 4294967296 ∧
        u32 r 12 = x.scene.bankTaps (u8 c.body 0) % 4294967296 ∧ u32 r 16 = x.scene.installed % 4294967296 ∧
        u32 r 20 = x.scene.out.q % 4294967296 ∧ u32 r 24 = x.scene.reserveUsed % 4294967296))

/-- How a coefficient bank is loaded (R190, R191, R197). -/
def Obligations.BankLoads : Prop :=
  (∀ (s : State) (c : Cmd) (p : LeafId × Bool), s.Ready specOutBankLoadAll c → s.server c.fn = some p →
    u16 c.body 6 ≠ 0 → s.Channel c.fn →
    Goes (.outBankLoad c) s fun t =>
      ((t.seen p).scene.bank (u8 c.body 0)).state = 1 ∧
      ((t.seen p).scene.bank (u8 c.body 0)).loading = u16 c.body 2 * u16 c.body 6 ∧
      (∀ k, k ≠ u8 c.body 0 → (t.seen p).scene.bank k = (s.seen p).scene.bank k) ∧
      (t.fn c.fn).mail.dma.length = (s.fn c.fn).mail.dma.length + 1 ∧
      bit (t.fn c.fn).busy.toNat (c.slot % 32) = true) ∧
  ∀ (s : State) (c : Cmd) (d : List Byte) (p : LeafId × Bool), s.Arrives c d → c.op = 0x0402 → s.server c.fn = some p →
    (s.seen p).scene.activeRun = none →
      let b := c.body
      let sets := if u8 b 1 = 1 then 1 else u16 b 6
      u16 b 6 ≠ 0 → imageFault d (feedCap (s.seen p).clk.dom.rate) (u16 b 6) sets (u16 b 2) = none →
      Goes (.dmaTransferDone c.fn d) s fun t => (t.seen p).scene.bank (u8 b 0) =
        { state := 2, shared := u8 b 1 == 1, n := u16 b 2, shift := u8 b 4, g := u32 b 8, rows := 1,
          feeds := (List.range (u16 b 6)).map fun i => u16 d (2 * i), sets := imageSets d (u16 b 6) sets (u16 b 2) }

/-- The ends of swap and delay fades, and the slew limiter (R184, R189, R193, R195). -/
def Obligations.FeedSteps : Prop :=
  ∀ (l : LeafId) (s : State),
    let x := s.leaf l
    (∀ k, (∀ f ∈ x.scene.out.fades, f.bank = k → x.next < f.stop) → Goes (.swapFadeEnd l k) s (s.Rests l)) ∧
    (∀ k f, (x.scene.out.fades.find? fun f => f.bank == k && decide (f.stop ≤ x.next)) = some f → f.waiting = none →
      Goes (.swapFadeEnd l k) s fun t =>
        let y := (t.leaf l).scene
        (∀ g ∈ y.out.fades, g ∈ x.scene.out.fades ∧ ¬(g.bank = f.bank ∧ g.first = f.first)) ∧
        (∀ i ∈ f.feeds, (y.feed i).run.next = none ∧ (y.feed i).set = (x.scene.feed i).set ∧
          (y.feed i).run.path = (x.scene.feed i).run.next.getD (x.scene.feed i).run.path) ∧
        (∀ i, i ∉ f.feeds → y.feed i = x.scene.feed i) ∧
        (f.op = 0 → (y.bank k).state = 4 ∧ (y.bank k).sets = (x.scene.bank k).sets) ∧
        (f.op = 1 → k ≠ 255 → (x.scene.bank k).state = 4 → (y.inForce k) = [] → y.bank k = bank0) ∧ y.out.e = x.scene.out.e) ∧
    (∀ i q, (x.scene.feed i).run.delayF = some q → Goes (.delayFadeEnd l i) s fun t =>
      let f := x.scene.feed i
      let w := (t.leaf l).scene.feed i
      (∀ j, j ≠ i → (t.leaf l).scene.feed j = x.scene.feed j) ∧ w.set = f.set ∧
      (q.level.busy (x.next - 1) = true → w = f) ∧
      (q.level.busy (x.next - 1) = false → q.waiting = false → w.run.delayF = none ∧ w.run.path = f.run.path) ∧
      (q.level.busy (x.next - 1) = false → q.waiting = true → f.run.path.d ≠ f.run.path.pad + f.set.align →
        w.run.path.d = f.run.path.pad + f.set.align ∧ w.run.path.dOld = f.run.path.d ∧
        ∃ g, w.run.delayF = some g ∧ g.level.first = x.next ∧ g.level.len = f.set.delayFade ∧ g.waiting = false)) ∧
    ∀ i w, Goes (.feedSlewUpdate l i w) s fun t =>
      let f := x.scene.feed i
      let g := (t.leaf l).scene.feed i
      (∀ j, j ≠ i → (t.leaf l).scene.feed j = x.scene.feed j) ∧ g.set = f.set ∧
      ((feedCap x.clk.dom.rate ≤ i ∨ f.run.slewedAt = some x.next) → g = f) ∧
      (i < feedCap x.clk.dom.rate → f.run.slewedAt ≠ some x.next → g.run.slewedAt = some x.next ∧
        (f.set.slewStep = 0 → g.run.z = w) ∧
        (f.set.slewStep ≠ 0 → x.next % (f.cw x.next).slewInt ≠ 0 → g.run.z = f.run.z) ∧
        (f.set.slewStep ≠ 0 → x.next % (f.cw x.next).slewInt = 0 →
          (w - f.run.z ≤ 2 * f.set.slewStep → -(2 * f.set.slewStep : Int) ≤ w - f.run.z → g.run.z = w) ∧
          ((2 * f.set.slewStep : Int) < w - f.run.z → g.run.z = f.run.z + 2 * f.set.slewStep) ∧
          (w - f.run.z < -(2 * f.set.slewStep : Int) → g.run.z = f.run.z - 2 * f.set.slewStep)))

/-- What the commands of measurement and tracking do (R199 to R220). -/
def Obligations.MeasurementCommands : Prop :=
  (∀ s c p, State.Served s specMeasTarget c p →
    let x := s.meets specMeasTarget c p
    Goes (.measTarget c) s fun t =>
      let y := t.seen p
      (∀ k, k ≠ u8 c.body 0 → tfind y.scene.meas.curves k = tfind x.scene.meas.curves k) ∧
      ∃ pts, tfind y.scene.meas.curves (u8 c.body 0) = some pts ∧ pts.length = u8 c.body 1 ∧
        ∀ k, k < u8 c.body 1 → pts[k]? = some (f32D c.body (4 + 8 * k), s16 c.body (8 + 8 * k))) ∧
  (∀ s c p, State.Served s specMeasStart c p →
    let cx := s.ctx c.fn p
    let x := s.meets specMeasStart c p
    s.twin = false → (∀ i ∈ span (u16 c.body 4) (u16 c.body 6), s.ownsFeed c.fn i = true) →
    (runMeasStart false s.variant.hasVoice ((s.takes specMeasStart c).firstLive c.body) cx c [] x).status = sOk → Goes (.measStart c) s fun t =>
      let y := t.seen p
      ∃ r, y.scene.meas.run = some r ∧ r.cmd.body = c.body ∧ r.cmd.tag = c.tag ∧ r.phase = 1 ∧
        r.n0 = x.next ∧ r.feeds = x.scene.runFeeds c.body ∧ r.captured = 0 ∧
        r.fade.target = 0 ∧ r.fade.first = x.next + 1 ∧ r.fade.len = u16 c.body 28 ∧
        (if u8 c.body 3 = 0 then y.scene.out = x.scene.out else (y.scene.bank (u8 c.body 49)).state = 1 ∧
          (y.scene.bank (u8 c.body 49)).feeds = r.feeds ∧ (y.scene.bank (u8 c.body 49)).n = u16 c.body 52)) ∧
  (∀ s c p, State.Served s specMeasAbort c p →
    let x := s.meets specMeasAbort c p
    (∃ r, x.scene.activeRun = some r ∧ r.aborted = false) → Goes (.measAbort c) s fun t =>
      let y := t.seen p
      ∃ r q, x.scene.activeRun = some r ∧ y.scene.meas.run = some q ∧ q.stop = some x.next ∧ q.slots = [] ∧ q.caps = [] ∧
        q.phase = r.phase ∧ (r.returned = false → q.fade.target = 1 ∧ q.fade.first = x.next + 1 ∧ q.fade.len = u16 r.cmd.body 28) ∧
        ∀ f ∈ y.scene.out.fades, ∀ w, f.waiting = some w → w.ofRun = false) ∧
  (∀ s c p (d : List Byte), State.Served s specMeasResult c p → s.Channel c.fn →
    measResult (s.meets specMeasResult c p) c.body = some d → d.length = u32 c.body 24 →
    Goes (.measResult c) s fun t => ∃ j, (t.fn c.fn).mail.dma = (s.fn c.fn).mail.dma ++ [j] ∧ j.out = d ∧ j.toHost = true ∧
      j.refs = [{ addr := u64 c.body 16, len := u32 c.body 24 }] ∧ bit (t.fn c.fn).busy.toNat (c.slot % 32) = true) ∧
  (∀ s c p, State.Served s specTrkConfig c p →
    let x := s.meets specTrkConfig c p
    (∀ i, u16 c.body 12 ≤ i → i < u16 c.body 12 + u16 c.body 14 → s.ownsFeed c.fn i = true) → (∀ i, i < 128 → maskBit c.body 16 i = true → x.micFree i = false) → Goes (.trkConfig c) s fun t =>
      let y := t.seen p
      let t := y.scene.meas.track
      t.mode = u8 c.body 0 ∧ t.next = some (trackSetOf c.body) ∧ t.set = x.scene.meas.track.set ∧
        t.feeds = x.scene.meas.track.feeds ∧ t.clearing = (x.scene.meas.track.clearing || bit (u8 c.body 1) 1) ∧
        (∀ i, (y.scene.feed i).set = (x.scene.feed i).set) ∧
        (if x.scene.meas.track.mode = 2 ∧ u8 c.body 0 ≠ 2 then t.due = [] ∧ ∀ i ∈ x.scene.out.feeds.map Prod.fst,
            (y.scene.feed i).track = roundEven ((x.scene.feed i).run.glide.at_ (x.next - 1))
          else t.due = x.scene.meas.track.due ∧ ∀ i, y.scene.feed i = x.scene.feed i)) ∧
  (∀ s c p, State.Served s specTrkBaseline c p →
    let cx := s.ctx c.fn p
    let x := s.meets specTrkBaseline c p
    (runTrkBaseline cx c [] x).status = sOk → Goes (.trkBaseline c) s fun t =>
      let y := t.seen p
      let t := y.scene.meas.track
      t.hasBase = true ∧ t.cBase = (if f32D c.body 4 = 0 then x.scene.rend.soundSpeed else f32D c.body 4) ∧
        t.mode = x.scene.meas.track.mode ∧ ∀ i f, tfind t.feeds i = some f → f.base ≠ [] ∧ f.t0 = (x.scene.feed i).track ∧
          i ∈ span (x.scene.meas.track.next.getD x.scene.meas.track.set).first (x.scene.meas.track.next.getD x.scene.meas.track.set).count) ∧
  (∀ s c p, State.Served s specMeasQuery c p →
    let x := s.meets specMeasQuery c p
    s.Open c.fn → Goes (.measQuery c) s (s.Answered specMeasQuery c p fun r =>
      r.length = 32 ∧
        (x.scene.meas.run = none → u8 r 0 = 0 ∧ u8 r 1 = 255) ∧
        ∀ q, x.scene.meas.run = some q → u8 r 0 = q.phase % 256 ∧ u8 r 1 = q.bankByte % 256 ∧ u16 r 2 = q.feeds.length % 65536 ∧ u16 r 4 = q.captured % 65536 ∧
          u16 r 6 = q.analysed % 65536 ∧ u32 r 24 = q.cmd.tag % 4294967296)) ∧
  (∀ s c p, State.Served s specTrkQuery c p →
    let x := s.meets specTrkQuery c p
    s.Open c.fn → Goes (.trkQuery c) s (s.Answered specTrkQuery c p fun r =>
      r.length = 32 ∧ u8 r 0 = x.scene.meas.track.mode % 256 ∧
        u16 r 2 = x.scene.meas.track.feedsValid % 65536 ∧ u32 r 28 = x.scene.meas.track.updates % 4294967296 ∧
        (x.scene.meas.track.mode = 0 → u8 r 1 = 0)))

/-- The steps of a measurement run and of tracking (R199 to R221). -/
def Obligations.MeasurementSteps : Prop :=
  ∀ (l : LeafId) (s : State),
    let x := s.leaf l
    (x.scene.activeRun = none → x.guest = none → s.twin = false →
      exec (.measSlotEnd l) s = .next s ∧ exec (.measAnalysisDone l) s = .next s ∧
        exec (.measDesignDone l) s = .next s ∧ exec (.measInstallSwap l) s = .next s ∧ exec (.measReturnEnd l) s = .next s) ∧
    (∀ r, x.scene.activeRun = some r →
      (r.aborted = false → r.captured < r.feeds.length → r.slotAt (r.captured + 1) ≤ x.next →
        Goes (.measSlotEnd l) s fun t => ∃ q, (t.leaf l).scene.meas.run = some q ∧ q.captured = r.captured + 1 ∧ q.caps = [] ∧
          (if s.leadsRun l = true then q.slots.length = r.slots.length + 1 else q.slots = []) ∧
          (r.captured + 1 = r.feeds.length → q.phase = 2 ∧ q.fade.target = 1 ∧ q.fade.first = r.slotAt r.feeds.length) ∧
          (r.captured + 1 ≠ r.feeds.length → q.phase = r.phase ∧ q.fade = r.fade)) ∧
      ((r.aborted = true ∨ r.feeds.length ≤ r.captured ∨ x.next < r.slotAt (r.captured + 1)) → Goes (.measSlotEnd l) s (s.Rests l)) ∧
      (∀ sl rest, r.slots = sl :: rest → sl.due ≤ x.next → Goes (.measAnalysisDone l) s fun t =>
        ∃ q, (t.leaf l).scene.meas.run = some q ∧ q.slots = rest ∧ q.analysed = r.analysed + 1 ∧
          q.results.length = r.results.length + 1 ∧ q.results.getLast?.map MeasFeed.feed = some sl.feed ∧
          q.pairs.length = r.pairs.length + r.mics.length) ∧
      (r.phase = 3 → r.designDue ≤ x.next → r.aborted = false → s.twin = false → Goes (.measDesignDone l) s fun t =>
        ∃ q, (t.leaf l).scene.meas.run = some q ∧ (q.phase = 4 ∨ q.phase = 5) ∧ q.designed = r.designable.length ∧
          (q.hasImage = true ↔ r.designable ≠ []) ∧ (q.staged = true ↔ r.designable ≠ []) ∧
          (∀ f ∈ q.results, ∀ g ∈ r.results, f.feed = g.feed → g.status = 0 → r.results.Pairwise (fun a b => a.feed ≠ b.feed) →
            f.cut ≤ u16 r.cmd.body 58 ∧ (x.fs ≠ 0 → u16 r.cmd.body 26 ≠ 0 → f.boost ≤ u16 r.cmd.body 56)) ∧
          (r.designable ≠ [] → ((t.leaf l).scene.bank (u8 r.cmd.body 49)).state = 2 ∧
            ((t.leaf l).scene.bank (u8 r.cmd.body 49)).n = u16 r.cmd.body 52 ∧
            ((t.leaf l).scene.bank (u8 r.cmd.body 49)).shift = q.shift ∧
            ((t.leaf l).scene.bank (u8 r.cmd.body 49)).g = r.delay ∧
            ((t.leaf l).scene.bank (u8 r.cmd.body 49)).feeds = r.designable.map MeasFeed.feed)) ∧
      (r.phase = 4 → u8 r.cmd.body 3 = 2 → r.swap = 0 → r.aborted = false → Goes (.measInstallSwap l) s fun t =>
        ∃ q, (t.leaf l).scene.meas.run = some q ∧ (q.swap = 1 ∨ q.swap = 2 ∨ q.swap = 3)) ∧
      ((r.aborted = true ∨ r.feeds.length ≤ r.captured) → r.fade.target ≠ 0 → r.fade.first + r.fade.len ≤ x.next →
        s.twin = false → Goes (.measReturnEnd l) s fun t => ∃ q, (t.leaf l).scene.meas.run = some q ∧ q.returned = true ∧
          (r.aborted = true → q.phase = 6) ∧
          (r.aborted = false → u8 r.cmd.body 3 = 0 → r.feeds.length ≤ r.analysed → q.phase = 5) ∧
          (r.aborted = false → r.analysed < r.feeds.length → q.phase = r.phase))) ∧
    (∀ errs : List Rat,
     let t0 := x.scene.meas.track
     let set := t0.next.getD t0.set
     let now := x.fs ≠ 0 ∧ x.next % (t0.set.period * x.fs) = 0 ∧ x.scene.activeRun = none ∧ s.leadsRun l = true
     ((¬ now ∨ (t0.mode = 0 ∧ t0.clearing = false)) → Goes (.trackingUpdate l errs) s (s.Rests l)) ∧
     (now → t0.mode ≠ 0 → s.twin = false →
       Goes (.trackingUpdate l errs) s fun t =>
         let y := (t.leaf l).scene
         y.meas.track.updates = (t0.updates + 1) % 4294967296 ∧ y.meas.track.set = set ∧ y.meas.track.next = none ∧
         y.meas.track.mode = t0.mode ∧
         (t0.clearing = false → t0.mode ≠ 2 → y.rend.soundSpeed = x.scene.rend.soundSpeed ∧ ∀ i, y.feed i = x.scene.feed i) ∧
         (t0.clearing = false → ∀ i, ((y.feed i).track - (x.scene.feed i).track).natAbs ≤ set.period * x.fs * 1024 / 1000000)) ∧
     (now → t0.mode = 0 → t0.clearing = true → s.twin = false →
       Goes (.trackingUpdate l errs) s fun t =>
         let y := (t.leaf l).scene
         y.meas.track.updates = t0.updates ∧ y.meas.track.feeds = t0.feeds ∧ y.rend.soundSpeed = x.scene.rend.soundSpeed) ∧
     (now → (t0.mode ≠ 0 ∨ t0.clearing = true) → s.twin = true → x.guest = none →
       Goes (.trackingUpdate l errs) s fun t =>
         let y := (t.leaf l).scene
         y.out = x.scene.out ∧ y.rend = x.scene.rend ∧
         (∃ st, y.meas.track.due = t0.due ++ [st] ∧ st.at_ = x.next + (x.fs + 499) / 500) ∧
         (s.red.tieUp = true → (t.leaf l.other).scene.meas.track = y.meas.track)) ∧
     ((t0.starved = false ∧ t0.mode ≠ 0 ∧ x.fs ≠ 0 ∧ x.scene.activeRun = none ∧ t0.lastValid + 60 * x.fs ≤ x.next) →
       Goes (.trkStarved l) s fun t => (t.leaf l).scene.meas.track.starved = true) ∧
     ((t0.starved = true ∨ t0.mode = 0 ∨ x.fs = 0 ∨ x.scene.activeRun.isSome = true ∨ x.next < t0.lastValid + 60 * x.fs) →
       Goes (.trkStarved l) s (s.Rests l)))

/-- What the commands of the voice engine do (R234 to R256). -/
def Obligations.VoiceCommands : Prop :=
  (∀ s c p, State.Served s specVoxConfig c p →
    let x := s.meets specVoxConfig c p
    Goes (.voxConfig c) s fun t =>
      let y := t.seen p
      y.scene.vox.tuning = f32D c.body 0 ∧ y.scene.vox.voices = x.scene.vox.voices ∧ y.scene.vox.pools = x.scene.vox.pools) ∧
  (∀ s c p, State.Served s specVoxPool c p →
    let x := s.meets specVoxPool c p
    x.scene.poolBase 16 - (x.scene.pool (u8 c.body 0)).size + u16 c.body 4 ≤ 1024 → Goes (.voxPool c) s fun t =>
      let y := t.seen p
      let q := y.scene.pool (u8 c.body 0)
      q.size = u16 c.body 4 ∧ q.policy = u8 c.body 1 ∧ q.mode = u8 c.body 2 ∧ q.fade = u16 c.body 6 ∧
      (∀ k, k ≠ u8 c.body 0 → y.scene.pool k = x.scene.pool k) ∧
      (u16 c.body 4 = (x.scene.pool (u8 c.body 0)).size → y.scene.vox.voices = x.scene.vox.voices)) ∧
  (∀ s c p, State.Served s specVoxGroup c p →
    let cx := s.ctx c.fn p
    let x := s.meets specVoxGroup c p
    (runVoxGroup cx c [] x).status = sOk → Goes (.voxGroup c) s fun t =>
      let y := t.seen p
      let g := y.scene.vgroup (u16 c.body 0)
      (u8 c.body 2 = 0 → g.bound = false) ∧
      (u8 c.body 2 ≠ 0 → g.bound = true ∧ g.kind = u8 c.body 3 ∧ g.target = u16 c.body 4 ∧ g.pool = u8 c.body 6 ∧
        g.limit = u16 c.body 8 ∧ g.patch = u16 c.body 10 ∧ g.gain = s16 c.body 12) ∧
      ∀ k, k ≠ u16 c.body 0 → y.scene.vgroup k = x.scene.vgroup k) ∧
  (∀ s c p, State.Served s specVoxChannelMap c p →
    let x := s.meets specVoxChannelMap c p
    Goes (.voxChannelMap c) s fun t =>
      let y := t.seen p
      ∀ k, tfind y.scene.vox.chmap k = if k = u8 c.body 0 * 16 + u8 c.body 1
        then (if u16 c.body 2 = 65535 then none else some (u16 c.body 2)) else tfind x.scene.vox.chmap k) ∧
  (∀ s c p, State.Served s specVoxWaveLoad c p →
    let x := s.meets specVoxWaveLoad c p
    (u8 c.body 2 = 0 ∧ x.scene.waveRead (u16 c.body 0) = false) → Goes (.voxWaveLoad c) s fun t =>
      let y := t.seen p
      y.scene.wave (u16 c.body 0) = wave0 ∧ ∀ k, k ≠ u16 c.body 0 → y.scene.wave k = x.scene.wave k) ∧
  (∀ s c p, State.Served s specNoteEvents c p →
    let x := s.meets specNoteEvents c p
    x.scene.vox.pending.length + u16 c.body 0 ≤ 4096 → Goes (.noteEvents c) s fun t =>
      let y := t.seen p
      ∃ new, y.scene.vox.pending = x.scene.vox.pending ++ new ∧
        new.map (fun e => { e with count := 0, t := 0, prepared := false, acc := 0 }) =
          ((List.range (u16 c.body 0)).map fun k => (noteRecord c.body (8 + 24 * k)).2) ∧
        ∀ k, k < u16 c.body 0 → ∃ e, new[k]? = some e ∧
          let t := u64 c.body (8 + 24 * k)
          let n := countOf x.fs t
          e.count = (if t = 0 ∨ n < x.clk.dom.nextCount then 0 else n) ∧
          e.prepared = decide (t ≠ 0 ∧ x.clk.dom.nextCount < n)) ∧
  (∀ s c p, State.Served s specNoteUmp c p →
    let x := s.meets specNoteUmp c p
    x.scene.vox.pending.length + u16 c.body 0 ≤ 4096 → Goes (.noteUmp c) s fun t =>
      let y := t.seen p
      ∃ new, y.scene.vox.pending = x.scene.vox.pending ++ new ∧
        new.map (fun e => { e with count := 0, t := 0, prepared := false, acc := 0 }) =
          ((List.range (u16 c.body 0)).filterMap fun k =>
            (umpEvent x.scene (u32 c.body (16 + 16 * k)) (u32 c.body (20 + 16 * k))).join)) ∧
  (∀ s c p, State.Served s specVoxQuery c p →
    let x := s.meets specVoxQuery c p
    s.Open c.fn → Goes (.voxQuery c) s (s.Answered specVoxQuery c p fun r =>
      let q := x.scene.pool (u8 c.body 0)
      r.length = 32 ∧ u16 r 0 = ((List.range 1024).filter x.scene.voiceTaken).length % 65536 ∧
        u16 r 2 = (x.scene.vox.shadows.length + b2n x.scene.shadowHeld) % 65536 ∧ u16 r 4 = q.size % 65536 ∧
        u16 r 6 = ((span (x.scene.poolBase (u8 c.body 0)) q.size).filter x.scene.voiceTaken).length % 65536 ∧ u32 r 8 = q.steals % 4294967296 ∧
        u32 r 12 = q.cuts % 4294967296 ∧ u32 r 16 = q.dropped % 4294967296 ∧ u32 r 20 = x.scene.vox.late % 4294967296 ∧
        u32 r 24 = x.scene.vox.discarded % 4294967296 ∧ u16 r 28 = x.scene.vox.pending.length % 65536))

/-- The steps of the voice engine (R229 to R249). -/
def Obligations.VoiceSteps : Prop :=
  ∀ (l : LeafId) (s : State),
    let x := s.leaf l
    let n := x.clk.dom.nextCount
    (Goes (.noteEventApply l) s fun t =>
      (t.leaf l).scene.vox.pending = x.scene.vox.pending.filter fun e => decide (n < e.count)) ∧
    (∀ e, (x.scene.vox.pending.filter fun e => decide (e.count ≤ n)) = [e] →
      let g := x.scene.vgroup e.group
      (e.type = 1 → e.noteId = 0 → g.bound = true → g.limit = 0 → (x.scene.pool g.pool).size ≠ 0 →
        (tfind x.scene.vox.patches g.patch).isSome = true → ∀ i, x.scene.freeVoice g.pool = some i →
        Goes (.noteEventApply l) s fun t => ∃ v, tfind (t.leaf l).scene.vox.voices i = some v ∧ v.group = e.group ∧
          v.key = e.key ∧ v.pool = g.pool ∧ v.seq = x.scene.vox.noteSeq ∧ v.released = false ∧
          v.start = (if e.prepared then x.next else x.next + 1) ∧
          (∀ j, j ≠ i → tfind (t.leaf l).scene.vox.voices j = tfind x.scene.vox.voices j) ∧
          (t.leaf l).scene.vox.noteSeq = (x.scene.vox.noteSeq + 1) % 4294967296) ∧
      (e.type = 2 → g.sustain = false → Goes (.noteEventApply l) s fun t =>
        (t.leaf l).scene.vox.voices = x.scene.vox.voices.map fun q =>
          (q.1, if q.2.fade = none ∧ e.hits q.2 = true then q.2.release { n := x.next, prep := e.prepared } else q.2)) ∧
      (e.type = 6 → Goes (.noteEventApply l) s fun t => ∃ w, (t.leaf l).scene.vgroup e.group = { g with press := e.value, was := w } ∧
        (e.prepared = true → w = g.was) ∧
        (e.prepared = false → g.was = none → w = some { at_ := x.next, press := g.press, bend := g.bend })) ∧
      (e.type = 11 → Goes (.noteEventApply l) s fun t => (t.leaf l).scene.vgroup e.group = { g with patch := e.value } ∧
        (t.leaf l).scene.vox.voices = x.scene.vox.voices)) ∧
    (∀ i v, tfind x.scene.vox.voices i = some v → Goes (.voiceEnd l i) s fun t =>
      (tfind (t.leaf l).scene.vox.voices i = if v.ended x.clk.dom.sample then none else some v) ∧
      (∀ j, j ≠ i → tfind (t.leaf l).scene.vox.voices j = tfind x.scene.vox.voices j) ∧
      (t.leaf l).scene.vox.shadows = x.scene.vox.shadows) ∧
    (∀ i q k, tfind x.scene.vox.shadows i = some q → q.into = some k →
      (x.next < q.at_ → Goes (.stealMigrate l i) s (s.Rests l)) ∧
      (q.at_ ≤ x.next → Goes (.stealMigrate l i) s fun t => tfind (t.leaf l).scene.vox.voices k = some q.v ∧
        tfind (t.leaf l).scene.vox.shadows i = none ∧
        (∀ j, j ≠ k → tfind (t.leaf l).scene.vox.voices j = tfind x.scene.vox.voices j) ∧
        ∀ j, j ≠ i → tfind (t.leaf l).scene.vox.shadows j = tfind x.scene.vox.shadows j)) ∧
    (x.next % 16 ≠ 0 → Goes (.voiceMatrixEval l) s (s.Rests l)) ∧
    (x.next % 16 = 0 → Goes (.voiceMatrixEval l) s fun t => ∀ i v, tfind x.scene.vox.voices i = some v →
      ∃ w, tfind (t.leaf l).scene.vox.voices i = some w ∧ w.group = v.group ∧ w.key = v.key ∧ w.envs = v.envs ∧
        w.lfos = v.lfos ∧ w.fade = v.fade ∧ (x.next < v.start → w = v) ∧
        (v.start ≤ x.next → w.evald = true ∧ w.coefs.length = 4))

/-- What the commands of the clip players do (R279 to R285). -/
def Obligations.ClipCommands : Prop :=
  let others : Nat → Leaf → Leaf → Prop := fun i x y =>
    (∀ j, j ≠ i → y.scene.player j = x.scene.player j) ∧ y.scene.clips.clips = x.scene.clips.clips
  (∀ s c p, State.Served s specClipCue c p →
    let x := s.meets specClipCue c p
    ((x.scene.player (u16 c.body 0)).active = false ∧ (x.scene.player (u16 c.body 0)).state ≠ 6 ∧ (u16 c.body 2 = 65535 ∨ (x.scene.clip (u16 c.body 2)).loaded = true ∧ u32 c.body 4 < (x.scene.clip (u16 c.body 2)).frames ∧ u32 c.body 12 ≤ (x.scene.clip (u16 c.body 2)).frames)) → Goes (.clipCue c) s fun t =>
      let y := t.seen p
      let b := c.body
      others (u16 b 0) x y ∧ (u16 b 2 = 65535 → (y.scene.player (u16 b 0)).state = 0) ∧
        (u16 b 2 ≠ 65535 →
          let q := y.scene.player (u16 b 0)
          q.state = 1 ∧ q.clip = u16 b 2 ∧ q.cue = u32 b 4 ∧ q.pos = u32 b 4 ∧ q.loopS = u32 b 8 ∧ q.loopE = u32 b 12 ∧
          q.loops = u16 b 16 ∧ q.plays = 0)) ∧
  (∀ s c p, State.Served s specClipPlay c p →
    let x := s.meets specClipPlay c p
    let w := x.scene.player (u16 c.body 0)
    (w.state = 1 ∨ w.state = 3 ∨ w.state = 4) → (x.scene.clip w.clip).rate = x.clk.dom.rate → Goes (.clipPlay c) s fun t =>
      let y := t.seen p
      let q := y.scene.player (u16 c.body 0)
      others (u16 c.body 0) x y ∧ q.state = 2 ∧ q.pos = w.pos ∧ q.clip = w.clip ∧ q.level.target = 1 ∧
          q.level.first = x.next + 1 ∧ q.level.len = clipFade (x.scene.clip w.clip) (u16 c.body 2) ∧ q.played = 0 ∧
          (w.state ≠ 3 → q.first = x.next + 1 ∧ q.level.start = 0)) ∧
  (∀ s c p, State.Served s specClipPause c p →
    let x := s.meets specClipPause c p
    (x.scene.player (u16 c.body 0)).state = 2 → Goes (.clipPause c) s fun t =>
      let y := t.seen p
      let p := x.scene.player (u16 c.body 0)
      let q := y.scene.player (u16 c.body 0)
      others (u16 c.body 0) x y ∧ q.state = 3 ∧ q.pos = p.pos ∧ q.level.target = 0 ∧ q.level.first = x.next + 1 ∧
        q.level.len = clipFade (x.scene.clip p.clip) (u16 c.body 2)) ∧
  (∀ s c p, State.Served s specClipStop c p →
    let x := s.meets specClipStop c p
    let w := x.scene.player (u16 c.body 0)
    w.state ≠ 0 → w.state ≠ 5 → w.state ≠ 6 → Goes (.clipStop c) s fun t =>
      let y := t.seen p
      let q := y.scene.player (u16 c.body 0)
      others (u16 c.body 0) x y ∧ q.clip = w.clip ∧
        ((w.state = 2 ∨ w.state = 3) → q.state = 5 ∧ q.pos = w.pos ∧ q.level.target = 0 ∧ q.level.first = x.next + 1) ∧
        (w.state ≠ 2 → w.state ≠ 3 → q.state = 1 ∧ q.pos = w.cue)) ∧
  (∀ s c p, State.Served s specClipLoad c p →
    let x := s.meets specClipLoad c p
    (u8 c.body 2 = 0 ∧ x.scene.clipCued (u16 c.body 0) = false) → Goes (.clipLoad c) s fun t =>
      let y := t.seen p
      y.scene.clip (u16 c.body 0) = clip0 ∧ (∀ k, k ≠ u16 c.body 0 → y.scene.clip k = x.scene.clip k) ∧
        y.scene.clips.players = x.scene.clips.players) ∧
  (∀ s c p, State.Served s specClipQuery c p →
    let x := s.meets specClipQuery c p
    s.Open c.fn → Goes (.clipQuery c) s (s.Answered specClipQuery c p fun r =>
      let p := x.scene.player (u16 c.body 0)
      r.length = 32 ∧ u8 r 0 = p.state % 256 ∧ u8 r 1 = b2n (x.scene.clip p.clip).exact ∧ u16 r 2 = p.clip % 65536 ∧
        (p.active = true → u32 r 4 = p.shown % 4294967296) ∧ u32 r 8 = p.cue % 4294967296 ∧ u32 r 12 = p.loopS % 4294967296 ∧
        u32 r 16 = p.loopE % 4294967296 ∧ u32 r 24 = x.clipFree / 1024 % 4294967296))

/-- The ends of fades, loops and clips on a player (R281 to R286). -/
def Obligations.ClipSteps : Prop :=
  ∀ (l : LeafId) (i : Nat) (s : State),
    let x := s.leaf l
    let p := x.scene.player i
    (Goes (.clipLoopEnd l i) s fun t => let q := (t.leaf l).scene.player i
      (∀ j, j ≠ i → (t.leaf l).scene.player j = x.scene.player j) ∧ (p.arrived = false → q = p) ∧ q.arrived = false ∧
      (p.arrived = true → q.pos = if p.loops = 0 ∨ p.plays < p.loops then p.loopS else p.pos)) ∧
    (Goes (.clipFadeEnd l i) s fun t => let q := (t.leaf l).scene.player i
      (∀ j, j ≠ i → (t.leaf l).scene.player j = x.scene.player j) ∧ (x.next < p.level.first + p.level.len → q = p) ∧
      (p.level.first + p.level.len ≤ x.next → (p.state = 3 → q.state = 4) ∧ (p.state = 5 → q.state = 1 ∧ q.pos = p.cue) ∧
        (p.state ≠ 3 → p.state ≠ 5 → q = p))) ∧
    (p.ended (x.scene.clip p.clip) = false → Goes (.clipEndPassed l i) s (s.Rests l)) ∧
    (p.ended (x.scene.clip p.clip) = true → Goes (.clipEndPassed l i) s fun t => let q := (t.leaf l).scene.player i
      q.state = 1 ∧ q.pos = p.cue ∧ q.plays = 0 ∧ q.clip = p.clip ∧
      ∀ j, j ≠ i → (t.leaf l).scene.player j = x.scene.player j)

/-- How patches, waves and clips are loaded (R238, R239, R278, R285). -/
def Obligations.StoreLoads : Prop :=
  (∀ (s : State) (c : Cmd) (p : LeafId × Bool), s.server c.fn = some p → s.Channel c.fn →
    let joined : State → Prop := fun t => (t.fn c.fn).mail.dma.length = (s.fn c.fn).mail.dma.length + 1 ∧
      bit (t.fn c.fn).busy.toNat (c.slot % 32) = true
    (s.Ready specVoxPatchLoad c → Goes (.voxPatchLoad c) s fun t => joined t ∧
      (t.seen p).scene.vox.patches = (s.seen p).scene.vox.patches) ∧
    (s.Ready specVoxWaveLoad c → u8 c.body 2 ≠ 0 → Goes (.voxWaveLoad c) s fun t => joined t ∧
      (t.seen p).scene.wave (u16 c.body 0) = { (s.seen p).scene.wave (u16 c.body 0) with loading := (waveOf c.body).size }) ∧
    (s.Ready specClipLoad c → u8 c.body 2 ≠ 0 → Goes (.clipLoad c) s fun t => joined t ∧
      let k := (t.seen p).scene.clip (u16 c.body 0)
      k.sent = u32 c.body 12 + partFrames c.body ∧ k.parts.getLast? = some ((s.fn c.fn).mail.accNo + 1) ∧
      (u32 c.body 12 = 0 → k.channels = u8 c.body 2 ∧ k.format = u8 c.body 3 ∧ k.frames = u32 c.body 4 ∧
        k.rate = u8 c.body 8 ∧ k.data = []))) ∧
  ∀ (s : State) (c : Cmd) (d : List Byte) (p : LeafId × Bool), s.Arrives c d → s.server c.fn = some p →
    (c.op = 0x0604 → (∀ k, k < u16 c.body 2 → lowestBad (patchChecks d (512 * k)) = none) →
      Goes (.dmaTransferDone c.fn d) s fun t =>
        (∀ k, k < u16 c.body 2 → tfind (t.seen p).scene.vox.patches (u16 c.body 0 + k) =
          if u8 d (512 * k) = 0 then none else some (slice d (512 * k) 512)) ∧
        ∀ i, (i < u16 c.body 0 ∨ u16 c.body 0 + u16 c.body 2 ≤ i) →
          tfind (t.seen p).scene.vox.patches i = tfind (s.seen p).scene.vox.patches i) ∧
    (c.op = 0x0605 → u8 c.body 2 ≠ 0 → (s.seen p).scene.waveRead (u16 c.body 0) = false →
      Goes (.dmaTransferDone c.fn d) s fun t =>
        (t.seen p).scene.wave (u16 c.body 0) = { waveOf c.body with data := d }) ∧
    (c.op = 0x0701 → u8 c.body 2 ≠ 0 → ((s.seen p).scene.clip (u16 c.body 0)).parts.contains c.acc = true →
      Goes (.dmaTransferDone c.fn d) s fun t =>
        let k := (s.seen p).scene.clip (u16 c.body 0)
        (t.seen p).scene.clip (u16 c.body 0) = { k with data := k.data ++ d, parts := k.parts.filter fun q => q != c.acc })

/-- What the commands of routing and metering do (R265 to R274, R287, R288). -/
def Obligations.RoutingCommands : Prop :=
  let chosen : Nat → Nat → Nat → Nat → Nat → Leaf → Leaf → Prop := fun kind first n src len x y =>
    (∀ i, i < n →
      let v := x.scene.sel kind (first + i)
      let w := y.scene.sel kind (first + i)
      (v.busy x.next = false → w.src = srcAt src i ∧ w.first = x.next + 1 ∧ w.len = len ∧ w.waiting = none) ∧
      (v.busy x.next = true → v.eff ≠ some x.next → w.src = v.src ∧ w.first = v.first ∧
        w.waiting.map SelChange.src = some (srcAt src i))) ∧
    ∀ i, (i < first ∨ first + n ≤ i) → y.scene.sel kind i = x.scene.sel kind i
  (∀ s c p, State.Served s specRteSource c p →
    let x := s.meets specRteSource c p
    (s.effect specRteSource c).status = sOk → Goes (.rteSource c) s fun t =>
      let y := t.seen p
      chosen 0 (u16 c.body 0) (u16 c.body 2) (u32 c.body 4) (u16 c.body 8) x y) ∧
  (∀ s c p, State.Served s specRteEgress c p →
    let x := s.meets specRteEgress c p
    (s.effect specRteEgress c).status = sOk → Goes (.rteEgress c) s fun t =>
      let y := t.seen p
      chosen (if u8 c.body 0 = 0 then 1 else 2) (u16 c.body 2) (u16 c.body 4) (u32 c.body 8) (u16 c.body 6) x y) ∧
  (∀ s c p, State.Served s specRteBus c p →
    let x := s.meets specRteBus c p
    (s.effect specRteBus c).status = sOk → Goes (.rteBus c) s fun t =>
      let y := t.seen p
      let b := c.body
      let k := u8 b 0
      (bit (u8 b 3) 0 = true → chosen 3 (k * 64 + u8 b 1) (u8 b 2) (u32 b 4) (u16 b 10) x y ∧
        ∀ i, i < u8 b 2 → (tget (y.scene.bus k).inputs (u8 b 1 + i) busIn0).gain = s16 b 8) ∧
      (bit (u8 b 3) 0 = false → ∀ i, y.scene.sel 3 i = x.scene.sel 3 i) ∧
      (y.scene.bus k).gain = (if bit (u8 b 3) 1 then s16 b 12 else (x.scene.bus k).gain) ∧
      ∀ j, j ≠ k → y.scene.bus j = x.scene.bus j) ∧
  (∀ s c p, State.Served s specRteBridge c p →
    let x := s.meets specRteBridge c p
    (s.effect specRteBridge c).status = sOk → Goes (.rteBridge c) s fun t =>
      let y := t.seen p
      let b := c.body
      (u8 b 4 ≠ 0 → chosen 4 (u16 b 0) (u16 b 2) (u32 b 8) (u16 b 6) x y) ∧
      (∀ i, u16 b 0 ≤ i → i < u16 b 0 + u16 b 2 →
        (y.scene.bridge i).op = u8 b 4 ∧ (u8 b 4 ≠ 0 → (y.scene.bridge i).domain = u8 b 5) ∧
        (u8 b 4 = 0 → (y.scene.bridge i).level.target = 0 ∧ (y.scene.bridge i).level.len = u16 b 6)) ∧
      ∀ i, (i < u16 b 0 ∨ u16 b 0 + u16 b 2 ≤ i) → y.scene.bridge i = x.scene.bridge i) ∧
  (∀ s c p, State.Served s specRteDomain c p →
    let x := s.meets specRteDomain c p
    (s.effect specRteDomain c).status = sOk → Goes (.rteDomain c) s fun t =>
      let y := t.seen p
      let rate := u8 c.body 1
      let tb := u8 c.body 2
      (u8 c.body 0 = 0 → x.clk.dom.rate = 0 → y.clk.dom.rate = rate ∧ y.clk.dom.tb = tb ∧ y.clk.restart = none ∧
        y.clk.dom.sample = x.clk.dom.sample ∧ y.clk.fadeIn = some x.next ∧ y.clk.family = rateFamily rate) ∧
      (u8 c.body 0 = 0 → x.clk.dom.rate ≠ 0 → (x.clk.dom.rate ≠ rate ∨ x.clk.dom.tb ≠ tb) → y.clk.dom = x.clk.dom ∧
        ∃ r, y.clk.restart = some r ∧ r.rate = rate ∧ r.tb = tb ∧ (x.clk.restart = none → r.first = x.next + 1 ∧ r.silent = false)) ∧
      (u8 c.body 0 ≠ 0 → (y.domain (u8 c.body 0)).rate = rate ∧ (y.domain (u8 c.body 0)).tb = tb ∧ y.clk.dom = x.clk.dom)) ∧
  (∀ s c p, State.Served s specMtrConfig c p →
    let x := s.meets specMtrConfig c p
    Goes (.mtrConfig c) s fun t =>
      let y := t.seen p
      let b := c.body
      y.scene.route.meters.next = some { rms := u16 b 0, hold := u16 b 2, decay := u16 b 4, flags := u8 b 6 } ∧
          y.scene.route.meters.set = x.scene.route.meters.set ∧ y.scene.route.meters.seq = x.scene.route.meters.seq) ∧
  (∀ s c p, State.Served s specMtrRead c p → s.Channel c.fn →
    Goes (.mtrRead c) s fun t => ∃ j, (t.fn c.fn).mail.dma = (s.fn c.fn).mail.dma ++ [j] ∧ j.toHost = true ∧
      j.out.length = meterSize (s.seen p).clk.dom.rate ∧ u32 j.out 0 = (s.seen p).scene.route.meters.seq % 4294967296 ∧
      j.detail = (s.seen p).scene.route.meters.seq ∧
      (bit (u8 c.body 0) 0 = true → ∀ q ∈ (t.seen p).scene.route.meters.feeds, q.2.hold = 0) ∧
      (bit (u8 c.body 0) 0 = false → (t.seen p).scene.route = (s.seen p).scene.route)) ∧
  (∀ s c p, State.Served s specRteQuery c p →
    let x := s.meets specRteQuery c p
    s.Open c.fn → Goes (.rteQuery c) s (s.Answered specRteQuery c p fun r =>
      r.length = 32 ∧
        (u8 c.body 0 ≠ 5 → u32 r 0 = (x.scene.sel (u8 c.body 0) (u16 c.body 2)).src % 4294967296) ∧
        (u8 c.body 0 = 5 → u8 r 22 = (x.domain (u16 c.body 2)).rate % 256 ∧ u8 r 23 = (x.domain (u16 c.body 2)).tb % 256)))

/-- The steps of selections, meters, bridges and restarts (R266 to R277). -/
def Obligations.RoutingSteps : Prop :=
  ∀ (l : LeafId) (s : State),
    let x := s.leaf l
    (∀ kind i, ((x.scene.sel kind i).waiting = none ∨ (x.scene.sel kind i).busy x.next = true) →
      Goes (.selectionFadeEnd l kind i) s (s.Rests l)) ∧
    (∀ kind i w, (x.scene.sel kind i).waiting = some w → (x.scene.sel kind i).busy x.next = false →
      Goes (.selectionFadeEnd l kind i) s fun t => (t.leaf l).scene.sel kind i =
        { src := w.src, old := (x.scene.sel kind i).src, first := x.next, len := w.len, eff := some x.next }) ∧
    ((x.fs = 0 ∨ x.next % (x.fs / 50) ≠ 0 ∨ x.scene.route.meters.endAt = x.nextTns) →
      Goes (.meterFrameEnd l) s (s.Rests l)) ∧
    ((x.fs ≠ 0 ∧ x.next % (x.fs / 50) = 0 ∧ x.scene.route.meters.endAt ≠ x.nextTns) → Goes (.meterFrameEnd l) s fun t =>
      let m := x.scene.route.meters
      let w := (t.leaf l).scene.route.meters
      w.seq = (m.seq + 1) % 4294967296 ∧ w.endAt = x.nextTns ∧ w.rate = x.clk.dom.rate ∧ w.set = m.next.getD m.set ∧
        w.next = none ∧ exec (.meterFrameEnd l) t = .next t) ∧
    (∀ ch ratio fill, ((x.scene.bridge ch).op = 0 ∨ 256 ≤ ch) → Goes (.bridgeRatioWindow l ch ratio fill) s (s.Rests l)) ∧
    (∀ ch ratio fill, (x.scene.bridge ch).op ≠ 0 → ch < 256 → Goes (.bridgeRatioWindow l ch ratio fill) s fun t =>
      let b := x.scene.bridge ch
      let w := (t.leaf l).scene.bridge ch
      let near : Prop := fill.natAbs ≤ 4 * x.fs * 1024 / 1000
      w.measured = ratio ∧ w.fill = fill ∧ w.op = b.op ∧ (∀ j, j ≠ ch → (t.leaf l).scene.bridge j = x.scene.bridge j) ∧
      (b.ratio = 0 → b.measured = 0 → near → w.ratio = ratio ∧ w.slips = b.slips) ∧
      (b.adopt = none → (¬near ∨ b.measured ≠ 0 ∧ b.measured / 1000 < absQ (ratio - b.measured)) →
        w.adopt = some ratio ∧ w.ratio = b.ratio ∧ w.level.target = 0 ∧ w.level.first = x.next ∧ w.level.len = 64 ∧
        w.slips = (b.slips + 1) % 4294967296)) ∧
    (∀ r, x.clk.restart = some r →
      ((r.silent = true ∨ x.next < r.first + 64) → exec (.renderSilenceStart l) s = .next s) ∧
      (r.silent = false → r.first + 64 ≤ x.next →
        Goes (.renderSilenceStart l) s fun t => (t.leaf l).clk.restart = some { r with silent := true } ∧
          (t.leaf l).clk.dom = x.clk.dom ∧ (t.leaf l).scene = x.scene) ∧
      (∀ k, (r.silent = false ∨ r.joint = true) → exec (.renderRestart l k) s = .next s) ∧
      (∀ k, r.silent = true → r.joint = false → Goes (.renderRestart l k) s fun t =>
        let y := t.leaf l
        y.clk.dom.rate = r.rate ∧ y.clk.dom.tb = r.tb ∧ y.clk.restart = none ∧ y.clk.dom.sample = x.clk.dom.sample ∧
          y.clk.fadeIn = some x.next ∧ y.clk.cycles = x.clk.cycles + k)) ∧
    (x.clk.restart = none → exec (.renderSilenceStart l) s = .next s ∧ ∀ k, exec (.renderRestart l k) s = .next s)

/-- What the commands and steps of user microcode do (R291, R307 to R313). -/
def Obligations.MicrocodeCommands : Prop :=
  (∀ s c p, State.Served s specUcLoad c p →
    let x := s.meets specUcLoad c p
    (allZero c.body 16 16 = true ∧ x.scene.progUsed (u8 c.body 0) = false) → Goes (.ucLoad c) s fun t =>
      let y := t.seen p
      y.scene.prog (u8 c.body 0) = prog0 ∧ (∀ k, k ≠ u8 c.body 0 → y.scene.prog k = x.scene.prog k) ∧ y.scene.uc.atts = x.scene.uc.atts) ∧
  (∀ s c p, State.Served s specUcAttach c p →
    let x := s.meets specUcAttach c p
    ((s.effect specUcAttach c).status = sOk ∧ (u8 c.body 1 = 0 ∨ allZero c.body 16 16 = true)) → Goes (.ucAttach c) s fun t =>
      let y := t.seen p
      let b := c.body
      let a := y.scene.att (u8 b 0)
      (∀ k, k ≠ u8 b 0 → y.scene.att k = x.scene.att k) ∧
        (u8 b 1 = 0 → a.state = 3 ∧ a.level.target = 0 ∧ a.level.first = x.next + 1 ∧ a.level.len = u16 b 8) ∧
        (u8 b 1 ≠ 0 → a.state = 1 ∧ a.program = u8 b 2 ∧ a.point = u8 b 3 ∧ a.first = u16 b 4 ∧ a.count = u16 b 6 ∧
          a.from_ = x.next + 1 ∧ a.level.target = 1 ∧ a.level.first = x.next + 1 ∧ a.level.len = u16 b 8 ∧ a.page0 = [])) ∧
  (∀ s c p, State.Served s specUcParam c p → s.Channel c.fn →
    Goes (.ucParam c) s fun t => (t.fn c.fn).mail.dma.length = (s.fn c.fn).mail.dma.length + 1 ∧
      (((s.seen p).scene.att (u8 c.body 0)).state ≠ 0 →
        ((t.seen p).scene.att (u8 c.body 0)).staged = [(s.fn c.fn).mail.accNo + 1]) ∧
      (∀ k, k ≠ u8 c.body 0 → (t.seen p).scene.att k = (s.seen p).scene.att k)) ∧
  (∀ (s : State) (c : Cmd) (d : List Byte) (p : LeafId × Bool), s.Arrives c d → s.server c.fn = some p →
    let x := s.seen p
    let i := u8 c.body 0
    (c.op = 0x0901 → allZero c.body 16 16 = false → x.scene.progUsed i = false → ucFault d = none →
      x.ucWords - (x.scene.prog i).code.length + (ucImage d).code.length ≤ 8192 →
      Goes (.dmaTransferDone c.fn d) s fun t => (t.seen p).scene.prog i = ucImage d) ∧
    (c.op = 0x0902 → u8 c.body 1 ≠ 0 →
      (runUcAttach s.variant { leaf := p.1, fn := c.fn, n := x.next, prep := false } c d x).status = sOk →
      Goes (.dmaTransferDone c.fn d) s fun t => ((t.seen p).scene.att i).state = 1 ∧ ((t.seen p).scene.att i).page0 = d ∧
        ((t.seen p).scene.att i).program = u8 c.body 2) ∧
    (c.op = 0x0903 → (x.scene.att i).state ≠ 0 → Goes (.dmaTransferDone c.fn d) s fun t =>
      let a := x.scene.att i
      let w := (t.seen p).scene.att i
      w.flip = some (x.next + 1) ∧ (if w.active = 0 then w.page1 = d ∧ w.page0 = a.page0 else w.page0 = d ∧ w.page1 = a.page1) ∧
        w.state = a.state ∧ (a.flip = none → w.active = a.active) ∧ c.acc ∉ w.staged)) ∧
  (∀ s c p, State.Served s specUcQuery c p →
    let x := s.meets specUcQuery c p
    s.Open c.fn → Goes (.ucQuery c) s (s.Answered specUcQuery c p fun r =>
      let a := x.scene.att (u8 c.body 0)
      r.length = 32 ∧ u8 r 0 = a.state % 256 ∧ u8 r 1 = a.program % 256 ∧ u8 r 2 = a.point % 256 ∧ u16 r 4 = a.first % 65536 ∧
        u16 r 6 = a.count % 65536 ∧ u32 r 8 = x.scene.ucCharge a % 4294967296 ∧ u32 r 24 = a.sats % 4294967296 ∧
        u32 r 28 = a.faults % 4294967296)) ∧
  ∀ (l : LeafId) (i : Nat) (s : State),
    let x := s.leaf l
    let a := x.scene.att i
    (Goes (.ucFadeEnd l i) s fun t => let w := (t.leaf l).scene.att i
      (∀ k, k ≠ i → (t.leaf l).scene.att k = x.scene.att k) ∧ (x.next < a.level.first + a.level.len → w = a) ∧
      (a.level.first + a.level.len ≤ x.next → a.level.first < x.next → (a.state = 1 → w = { a with state := 2 }) ∧
        (a.state = 3 → w = att0) ∧ (a.state ≠ 1 → a.state ≠ 3 → w = a))) ∧
    ∀ course pass,
      ((16 ≤ i ∨ a.state = 0 ∨ (course, pass) ∉ a.passes x.clk.dom.rate ∨ course + 8 * pass ∈ a.drop) →
        Goes (.ucPassAbandon l i course pass) s (s.Rests l)) ∧
      (i < 16 → a.state ≠ 0 → (course, pass) ∈ a.passes x.clk.dom.rate → course + 8 * pass ∉ a.drop →
        Goes (.ucPassAbandon l i course pass) s fun t => (t.leaf l).scene.att i = { a with drop := a.drop ++ [course + 8 * pass] } ∧
          (t.leaf l).ecc.flag = true)

/-- What the commands of the network do (R315 to R341). -/
def Obligations.NetworkCommands : Prop :=
  (∀ s c p, State.Served s specNetPort c p →
    let b := c.body
    let l := if s.twin then (if u8 b 0 / 2 = 0 then LeafId.a else .b) else p.1
    let k := u8 b 0 % 2
    ((s.servers c.fn).any fun q => q.1 == l) = true → Goes (.netPort c) s fun t =>
      let q := (s.leaf l).port k
      let r := (t.leaf l).port k
      r.mode = u8 b 1 ∧ r.pause = u8 b 2 ∧ r.useMac = bit (u8 b 3) 0 ∧ r.vlan = u16 b 4 ∧ r.pcpMedia = u8 b 6 ∧
      r.pcpOther = u8 b 7 ∧ r.plen = u8 b 14 ∧ r.ip = u32 b 16 ∧ r.gateway = u32 b 20 ∧
      (q.mode = u8 b 1 → r.link = q.link ∧ r.lineMode = q.lineMode) ∧
      (q.mode ≠ u8 b 1 → r.link = false ∧ r.lineMode = if u8 b 1 = 4 then 2 else u8 b 1) ∧
      (t.leaf l).port (1 - k) = (s.leaf l).port (1 - k) ∧ ∀ j, (t.leaf l.other).port j = (s.leaf l.other).port j) ∧
  (∀ s c p, State.Served s specNetRing c p →
    let x := s.meets specNetRing c p
    Goes (.netRing c) s fun t =>
      let y := t.seen p
      let b := c.body
      let k := u8 b 2 * 16 + u8 b 0
      (∀ i, i ≠ k → y.scene.ring i = x.scene.ring i) ∧ (bit (u8 b 3) 0 = false → y.scene.ring k = ring0) ∧
          (bit (u8 b 3) 0 = true → let r := y.scene.ring k
            r.on = true ∧ r.deliverBad = bit (u8 b 3) 1 ∧ r.event = bit (u8 b 3) 2 ∧ r.size = u16 b 4 ∧ r.interval = u16 b 6 ∧
            r.base = u64 b 8 ∧ r.idx = 0 ∧ r.ready = [] ∧ r.frames = 0)) ∧
  (∀ s c p, State.Served s specNetFilter c p →
    let x := s.meets specNetFilter c p
    Goes (.netFilter c) s fun t =>
      let y := t.seen p
      let b := c.body
      (∀ i, i ≠ u8 b 0 → tget y.scene.net.filters i ({} : NetFilter) = tget x.scene.net.filters i ({} : NetFilter)) ∧
          let f := tget y.scene.net.filters (u8 b 0) ({} : NetFilter)
          f.ring = u8 b 1 ∧ f.ports = u8 b 2 ∧ f.tests = u8 b 3 ∧ f.mac = beAt b 4 6 ∧ f.etherType = u16 b 10 ∧ f.proto = u8 b 12 ∧
            f.udpPort = u16 b 14) ∧
  (∀ s c p, State.Served s specNetRxStream c p →
    let cx := s.ctx c.fn p
    let x := s.meets specNetRxStream c p
    s.ownsRx c.fn (u8 c.body 0) = true → (runRxStream true cx c [] x).status = sOk → Goes (.netRxStream c) s fun t =>
      let y := t.seen p
      let q := x.scene.rx (u8 c.body 0)
      let r := y.scene.rx (u8 c.body 0)
      (∀ i, i ≠ u8 c.body 0 → y.scene.rx i = x.scene.rx i) ∧ r.on = (u8 c.body 1 == 1) ∧
      (u8 c.body 1 = 1 → r.set = rxSetOf c.body) ∧
      (u8 c.body 1 = 1 → q.on = false → r.buf = [] ∧ r.started = false ∧ r.now = [] ∧ r.packets = q.packets) ∧
      (u8 c.body 1 ≠ 1 → q.on = true → r.off.isSome = true ∧ r.leg0.live = false ∧ r.leg1.live = false)) ∧
  (∀ s c p, State.Served s specNetTxStream c p →
    let cx := s.ctx c.fn p
    let x := s.meets specNetTxStream c p
    s.ownsTx c.fn (u8 c.body 0) = true → (runTxStream true cx c [] x).status = sOk → Goes (.netTxStream c) s fun t =>
      let y := t.seen p
      let q := x.scene.tx (u8 c.body 0)
      let r := y.scene.tx (u8 c.body 0)
      (∀ i, i ≠ u8 c.body 0 → y.scene.tx i = x.scene.tx i) ∧ r.on = (u8 c.body 1 == 1) ∧ r.sending = q.sending ∧
      r.next.getD r.set = txSetOf c.body ∧ (q.sending = true → r.set = q.set) ∧ r.fill = q.fill ∧ r.ready = q.ready) ∧
  (∀ s c p, State.Served s specNetQuery c p → s.Open c.fn →
    let l := if s.twin then (if u8 c.body 0 / 2 = 0 then LeafId.a else .b) else p.1
    let q := (s.leaf l).port (u8 c.body 0 % 2)
    Goes (.netQuery c) s fun t => let r := t.reply c 32
      u8 r 0 = q.linkCode % 256 ∧ u8 r 1 = b2n (q.stopped != 0) ∧ u32 r 8 = q.rxFrames % 4294967296 ∧
      u32 r 12 = q.rxBad % 4294967296 ∧ u32 r 16 = q.rxNobuf % 4294967296 ∧ u32 r 20 = q.rxFiltered % 4294967296 ∧
      u32 r 24 = q.txDropped % 4294967296 ∧ u32 r 28 = q.fecBad % 4294967296) ∧
  (∀ s c p, State.Served s specNetStreamQuery c p →
    let x := s.meets specNetStreamQuery c p
    s.Open c.fn → Goes (.netStreamQuery c) s (s.Answered specNetStreamQuery c p fun r =>
      r.length = 32 ∧
        (u8 c.body 0 = 0 → let q := x.scene.rx (u8 c.body 1)
          u32 r 4 = q.packets % 4294967296 ∧ u32 r 8 = q.leg0.missing % 4294967296 ∧ u32 r 16 = q.concealed % 4294967296 ∧
          u32 r 20 = q.late % 4294967296 ∧ (q.on = false → u8 r 0 = 0)) ∧
        (u8 c.body 0 ≠ 0 → let q := x.scene.tx (u8 c.body 1)
          u8 r 2 = q.claim % 256 ∧ u32 r 4 = q.packets % 4294967296 ∧ (q.on = false → u8 r 0 = 0))))

/-- What happens to a port (R315 to R320, R507). -/
def Obligations.PortSteps : Prop :=
  ∀ (l : LeafId) (k : Nat) (s : State),
    let q := (s.leaf l).port k
    let only : State → Prop := fun t => (t.leaf l).port (1 - k) = (s.leaf l).port (1 - k) ∧ (t.leaf l).scene = (s.leaf l).scene ∧
      t.leaf l.other = s.leaf l.other
    (2 ≤ k → (∀ up, exec (.netLinkChange l k up) s = .next s) ∧ exec (.netFecFallback l k) s = .next s ∧
      exec (.sfpLos l k) s = .next s ∧ exec (.sfpModabsHigh l k) s = .next s ∧ (∀ page, exec (.sfpModabs l k page) s = .next s) ∧
      exec (.pauseQuantaExpire l k) s = .next s ∧ exec (.mediaTxDiscard l k) s = .next s) ∧
    (k < 2 →
      (q.link = false → exec (.netLinkChange l k false) s = .next s) ∧
      (q.link = true → Goes (.netLinkChange l k false) s fun t => only t ∧ (t.leaf l).port k =
        { q with link := false, media := [], held := [], waitLock := (s.leaf l).now,
                 txDropped := (q.txDropped + q.media.length) % 4294967296 }) ∧
      ((q.link = true ∨ q.lineMode = 0 ∨ q.los = true ∨ s.alive l = false) → exec (.netLinkChange l k true) s = .next s) ∧
      (q.link = false → q.lineMode ≠ 0 → q.los = false → s.alive l = true →
        Goes (.netLinkChange l k true) s fun t => only t ∧ (t.leaf l).port k = { q with link := true }) ∧
      ((q.mode ≠ 4 ∨ q.link = true ∨ (s.leaf l).now < q.waitLock + 2000000000) → exec (.netFecFallback l k) s = .next s) ∧
      (q.mode = 4 → q.link = false → q.waitLock + 2000000000 ≤ (s.leaf l).now → Goes (.netFecFallback l k) s fun t => only t ∧
        (t.leaf l).port k = { q with lineMode := if q.lineMode = 2 then 3 else 2, waitLock := (s.leaf l).now }) ∧
      (Goes (.sfpLos l k) s fun t => only t ∧ ((t.leaf l).port k).los = true ∧ ((t.leaf l).port k).link = false ∧
        ((t.leaf l).port k).mode = q.mode) ∧
      (∀ page, Goes (.sfpModabs l k page) s fun t => only t ∧ (t.leaf l).port k =
        { q with modAbs := false, los := false, sfpPage := if s.alive l = true then page else q.sfpPage }) ∧
      (Goes (.sfpModabsHigh l k) s fun t => only t ∧ (t.leaf l).port k = { q with modAbs := true }) ∧
      (q.stopped = 0 → exec (.pauseQuantaExpire l k) s = .next s) ∧
      (q.stopped ≠ 0 → Goes (.pauseQuantaExpire l k) s fun t => only t ∧
        (t.leaf l).port k = { q with stopped := 0, media := [], held := [] } ∧
        ∀ m ∈ q.media, ∃ o ∈ t.outbox.drop s.outbox.length, o.kind = 3 ∧ o.unit = l.num * 2 + k ∧ o.a = m.stream ∧
          o.data = withFcs m.frame) ∧
      (q.media = [] → exec (.mediaTxDiscard l k) s = .next s) ∧
      ∀ m r, q.media = m :: r →
        ((bit q.stopped 6 = false ∨ (s.leaf l).now < m.at_ + 1000000) → exec (.mediaTxDiscard l k) s = .next s) ∧
        (bit q.stopped 6 = true → m.at_ + 1000000 ≤ (s.leaf l).now → Goes (.mediaTxDiscard l k) s fun t => only t ∧
          (t.leaf l).port k = { q with media := r, txDropped := (q.txDropped + 1) % 4294967296 }))

/-- Steps of media streams (R329, R337, R415). -/
def Obligations.StreamSteps : Prop :=
  ∀ (l : LeafId) (i : Nat) (s : State),
    let x := s.leaf l
    (∀ leg, let q := x.scene.rx i
      let g := q.leg leg
      let fs := (x.streamClock q.set.domain).1
      let wait := if fs = 0 then 10000000 else max 10000000 (10 * q.set.samples * 1000000000 / fs)
      ((64 ≤ i ∨ 2 ≤ leg ∨ q.on = false ∨ q.set.hasLeg leg = false ∨ g.lost = true ∨ x.now < g.at_ + wait) →
        Goes (.netLegLost l i leg) s (s.Rests l)) ∧
      (i < 64 → leg < 2 → q.on = true → q.set.hasLeg leg = true → g.lost = false → g.at_ + wait ≤ x.now →
        Goes (.netLegLost l i leg) s fun t => ((t.leaf l).scene.rx i).leg leg = { g with live := false, lost := true } ∧
          ((t.leaf l).scene.rx i).leg (1 - leg) = q.leg (1 - leg) ∧ ((t.leaf l).scene.rx i).buf = q.buf ∧
          ∀ j, j ≠ i → (t.leaf l).scene.rx j = x.scene.rx j)) ∧
    (∀ leg mac, let q := x.scene.tx i
      Goes (.arpResolved l i leg mac) s fun t => let w := (t.leaf l).scene.tx i
        (∀ j, j ≠ i → (t.leaf l).scene.tx j = x.scene.tx j) ∧
        ((q.asks.find? fun a => a.1 == leg) = none → w = q) ∧
        ∀ a, (q.asks.find? fun a => a.1 == leg) = some a → w.on = q.on ∧ w.set = q.set ∧ a ∉ w.asks ∧
          (∀ b ∈ q.asks, b ≠ a → b ∈ w.asks) ∧
          ∀ set : TxSet, set.dest a.1 = a.2 → isGroup a.2 = false → w.destMac set a.1 = some (mac % 281474976710656)) ∧
    ∀ p rest, (x.scene.tx i).ready = p :: rest →
      (s.gateHolds l p.last = true → exec (.egressPacketComplete l i) s = .next s) ∧
      ((s.red.of l).claim = 0 → Goes (.egressPacketComplete l i) s fun t =>
        (t.leaf l).scene.tx i = { x.scene.tx i with ready := rest } ∧ t.outbox = s.outbox) ∧
      (s.twin = false → (s.red.of l).claim ≠ 0 → Goes (.egressPacketComplete l i) s fun t =>
        let q := x.scene.tx i
        let w := (t.leaf l).scene.tx i
        let sends : Nat → Prop := fun g => bit p.set.flags g = true ∧ (q.destMac p.set g).isSome = true ∧ (x.port g).link = true
        w.ready = rest ∧
        ((sends 0 ∨ sends 1) → w.packets = (q.packets + 1) % 4294967296 ∧
          w.claim = if bit p.set.flags 2 then (s.red.of l).claim else 255) ∧
        (¬ (sends 0 ∨ sends 1) → w.packets = q.packets ∧ w.claim = q.claim) ∧
        (∀ m, bit p.set.flags 0 = true → q.destMac p.set 0 = some m → x.port0.link = true →
          bit x.port0.stopped 6 = false → ∃ o ∈ t.outbox.drop s.outbox.length, o.kind = 3 ∧ o.unit = l.num * 2 ∧ o.a = i ∧
            o.data = withFcs (x.port0.tag 6 (mediaFrame x.port0 l 0 m 0 p.set (p.rtp (s.red.of l).claim l false) p.count))))

/-- Host rings and received frames (R320 to R330). -/
def Obligations.RingsAndFrames : Prop :=
  ∀ (l : LeafId) (s : State),
    let x := s.leaf l
    (∀ k desc, let r := x.scene.ring k
      let ds := (List.range (min 8 (desc.length / 32))).map fun i => slice desc (32 * i) 32
      let mine := ds.takeWhile fun d => bit (u16 d 10) 0
      ((r.on = false ∨ s.ringsRun l = false ∨ x.now < r.polled ∨ r.size < r.ready.length + ds.length) →
        exec (.hostRingPoll l k desc) s = .next s) ∧
      (r.on = true → s.ringsRun l = true → r.polled ≤ x.now → r.ready.length + ds.length ≤ r.size →
        Goes (.hostRingPoll l k desc) s fun t => let w := (t.leaf l).scene.ring k
          w.ready = r.ready ++ mine ∧ w.idx = r.idx ∧ w.frames = r.frames ∧
          (mine.length < ds.length → w.polled = x.now + 10000) ∧ ∀ j, j ≠ k → (t.leaf l).scene.ring j = x.scene.ring j)) ∧
    (∀ k, let r := x.scene.ring k
      ((r.on = false ∨ r.event = false ∨ r.returned = 0) → exec (.netRingPending l k) s = .next s) ∧
      (∀ u, r.reported = some u → x.now < u + r.interval * 1000 → exec (.netRingPending l k) s = .next s) ∧
      (r.on = true → r.event = true → 0 < r.returned → (∀ u, r.reported = some u → u + r.interval * 1000 ≤ x.now) →
        Goes (.netRingPending l k) s fun t => (t.leaf l).scene.ring k = { r with returned := 0, reported := some x.now })) ∧
    (∀ k frame, let r := x.scene.ring k
      ((r.on = false ∨ 4 ≤ k % 16 ∨ 2 ≤ k / 16 ∨ s.ringsRun l = false ∨ txGroup false 0 r.ready = none) →
        exec (.netTxFrame l k frame) s = .next s) ∧
      ∀ n, r.on = true → k % 16 < 4 → k / 16 < 2 → s.ringsRun l = true → s.twin = false → s.alive l = true →
        txGroup false 0 r.ready = some (n, true) →
        let lens := (r.ready.take n).map fun d => u16 d 8
        let q := x.port (k / 16)
        (∀ v ∈ lens, 1 ≤ v ∧ v ≤ 9212) → 60 ≤ lens.sum → lens.sum ≤ 9212 → q.link = true → bit q.stopped (k % 16) = false →
        Goes (.netTxFrame l k frame) s fun t => ((t.leaf l).scene.ring k).ready = r.ready.drop n ∧
          ∃ o rest, t.outbox = s.outbox ++ o :: rest ∧ o.kind = 2 ∧ o.unit = l.num * 2 + k / 16 ∧ o.a = 0 ∧ o.b = k % 16 ∧
            o.data = withFcs (q.tag (k % 16) (padTo lens.sum frame))) ∧
    ∀ port frame fcsOk coded stamp,
      ((2 ≤ port ∨ (x.port port).link = false) → exec (.netRxFrame l port frame fcsOk coded stamp) s = .next s) ∧
      (port < 2 → (x.port port).link = true → fcsOk = false → (∀ k, (x.scene.ring k).deliverBad = false) →
        Goes (.netRxFrame l port frame fcsOk coded stamp) s fun t => (t.leaf l).scene = x.scene ∧
          ((t.leaf l).port port).rxFrames = ((x.port port).rxFrames + 1) % 4294967296 ∧
          ((t.leaf l).port port).rxBad = ((x.port port).rxBad + 1) % 4294967296) ∧
      (port < 2 → (x.port port).link = true → 64 ≤ frame.length → frame.length ≤ 9216 →
        let f := parseFrame (frame.take (frame.length - 4))
        let rx : Instr := .netRxFrame l port frame true false stamp
        (x.classify l port f = .filtered → Goes rx s fun t => (t.leaf l).scene = x.scene ∧
          ((t.leaf l).port port).rxFiltered = ((x.port port).rxFiltered + 1) % 4294967296) ∧
        (x.classify l port f = .pause → (x.port port).pause = 1 → beAt f.body 0 2 = 1 → beAt f.body 2 2 ≠ 0 → Goes rx s fun t =>
          (t.leaf l).scene = x.scene ∧ ((t.leaf l).port port).stopped = 255) ∧
        (∀ i, x.classify l port f = .media false i →
          let q := x.scene.rx i
          let p := parseRtp f.data q.set.ext
          let d := x.streamClock q.set.domain
          ((d.1 = 0 ∨ q.set.conforms p = false) → Goes rx s fun t =>
            ((t.leaf l).scene.rx i).badFormat = (q.badFormat + 1) % 4294967296 ∧ ((t.leaf l).scene.rx i).buf = q.buf) ∧
          (d.1 ≠ 0 → q.set.conforms p = true → q.set.kind ≠ 1 → (∀ r ∈ q.buf, r.seq ≠ p.seq) →
            countDiff (q.wanted d.2) ((p.ts + 4294967296 - q.set.tsOffset) % 4294967296) ≤ 0 → Goes rx s fun t =>
              (∃ r, ((t.leaf l).scene.rx i).buf = q.buf ++ [r] ∧ r.seq = p.seq ∧ r.claim = p.claim ∧ r.payload = p.payload ∧
                r.count = (p.ts + 4294967296 - q.set.tsOffset) % 4294967296 ∧ r.at_ = stamp ∧ r.late = false) ∧
              (((t.leaf l).scene.rx i).leg port).live = true ∧ (((t.leaf l).scene.rx i).leg port).at_ = stamp)) ∧
        (∀ i k, x.classify l port f = .host i k → s.twin = false → (x.scene.ring (port * 16 + k)).on = true →
          let r := x.scene.ring (port * 16 + k)
          let need := (frame.length + 2047) / 2048
          (s.ringsRun l = true → need ≤ r.ready.length → Goes rx s fun t =>
            let w := (t.leaf l).scene.ring (port * 16 + k)
            w.frames = (r.frames + 1) % 4294967296 ∧ w.ready = r.ready.drop need ∧
            ((t.leaf l).port port).rxNobuf = (x.port port).rxNobuf) ∧
          ((s.ringsRun l = false ∨ r.ready = []) → Goes rx s fun t => (t.leaf l).scene = x.scene ∧
            ((t.leaf l).port port).rxNobuf = ((x.port port).rxNobuf + 1) % 4294967296)))

/-- What the commands of the clocks do (R343 to R372; the waiting step is log entry 14's choice). -/
def Obligations.ClockCommands : Prop :=
  (∀ s c p, State.Served s specClkTbSource c p →
    let x := s.meets specClkTbSource c p
    (s.effect specClkTbSource c).status = sOk → Goes (.clkTbSource c) s fun t =>
      let y := t.seen p
      let b := c.body
      let i := u8 b 0
      let t := x.tb i
      let w := y.tb i
      (∀ k, k ≠ i → y.tb k = x.tb k) ∧
      w.source = u8 b 1 ∧ w.port = u8 b 2 ∧ w.domain = u8 b 3 ∧ w.profile = u8 b 4 ∧ w.role = u8 b 5 ∧ w.mech = u8 b 6 ∧
      w.flags = u8 b 7 ∧ w.prio1 = u8 b 8 ∧ w.prio2 = u8 b 9 ∧ w.clockClass = u8 b 10 ∧ w.wcRate = u8 b 15 ∧ w.epoch = u8 b 16 ∧
      w.asym = s32 b 20 ∧ w.t = t.t ∧
      ((t.source ≠ u8 b 1 ∨ t.port ≠ u8 b 2 ∨ t.domain ≠ u8 b 3 ∨ t.profile ≠ u8 b 4 ∨ t.role ≠ u8 b 5 ∨ t.wcRate ≠ u8 b 15) →
        w.acquiring = true ∧ w.fresh = true ∧ w.state = (if u8 b 1 = 0 then 3 else 2) ∧ w.y = (if u8 b 1 = 0 then 0 else t.yI) ∧
          w.pending = false ∧ w.slewing = false ∧ w.portState = (if u8 b 1 = 1 then 4 else 0))) ∧
  (∀ s c p, State.Served s specClkServo c p →
    let x := s.meets specClkServo c p
    Goes (.clkServo c) s fun t =>
      let y := t.seen p
      let b := c.body
      let i := u8 b 0
      (∀ k, k ≠ i → y.tb k = x.tb k) ∧
      y.tb i = { x.tb i with policy := u8 b 1, bw := f32D b 4, jump := u32 b 8, window := u32 b 12, slew := u32 b 16 }) ∧
  (∀ s c p, State.Served s specClkTbAction c p →
    let x := s.meets specClkTbAction c p
    (s.effect specClkTbAction c).status = sOk → Goes (.clkTbAction c) s fun t =>
      let y := t.seen p
      let i := u8 c.body 0
      let t := x.tb i
      let w := y.tb i
      let th := if s.twin ∧ s.red.tieUp = true then ((s.leaf s.red.active).tb i).theta else t.theta
      t.pending = true ∧ (∀ k, k ≠ i → y.tb k = x.tb k) ∧
      (u8 c.body 1 = 0 → x.fs ≠ 0 → w = { t with plan := some (1, th, x.clk.dom.nextCount) }) ∧
      (u8 c.body 1 = 1 → w.pending = false ∧ w.state = 2 ∧ w.rem = th ∧ (w.slewing = true ↔ th ≠ 0) ∧ w.t = t.t ∧ w.y = t.y) ∧
      (u8 c.body 1 = 2 → w.pending = false ∧ w.state = t.state ∧ w.t = t.t ∧ w.y = t.y ∧ w.plan = none)) ∧
  (∀ s c p, State.Served s specClkVcxo c p →
    let x := s.meets specClkVcxo c p
    (s.effect specClkVcxo c).status = sOk → Goes (.clkVcxo c) s fun t =>
      let y := t.seen p
      let b := c.body
      let f := u8 b 0
      y.clk.vcxo f = { x.clk.vcxo f with
        fitted := u8 b 1 == 1, steer := u8 b 2, polarity := u8 b 3, pull := f32D b 4, bw := f32D b 8, update := u16 b 12,
        hold := u32 b 16 } ∧ y.clk.vcxo (1 - f) = x.clk.vcxo (1 - f)) ∧
  (∀ s c p, State.Served s specClkPll c p →
    let x := s.meets specClkPll c p
    (s.effect specClkPll c).status = sOk → Goes (.clkPll c) s fun t =>
      let y := t.seen p
      let k := u8 c.body 0
      (u8 c.body 1 = 0 → y.clk.pll k = { x.clk.pll k with spread := u8 c.body 2 }) ∧
      (u8 c.body 1 = 1 → (k ≠ 1 ∨ (x.boot.tests.any fun q => q.op == 0x0F03) = false) →
        y.clk.pll k = { x.clk.pll k with gated := true, locked := false, good := 0 }) ∧
      (u8 c.body 1 = 1 → k = 1 → (x.boot.tests.any fun q => q.op == 0x0F03) = true → y.dramc.relock = true ∧ y.clk.pll k = x.clk.pll k) ∧
      ∀ j, j < 6 → j ≠ k → y.clk.pll j = x.clk.pll j) ∧
  (∀ s c p, State.Served s specClkTbQuery c p →
    let x := s.meets specClkTbQuery c p
    s.Open c.fn → Goes (.clkTbQuery c) s (s.Answered specClkTbQuery c p fun r =>
      let t := x.tb (u8 c.body 0)
      r.length = 32 ∧ u8 r 0 = t.state % 256 ∧ u8 r 2 = t.source % 256 ∧ u8 r 3 = t.portState % 256 ∧
      bit (u8 r 1) 0 = t.pending ∧ bit (u8 r 1) 1 = t.slewing ∧ bit (u8 r 1) 2 = t.acquiring ∧ bit (u8 r 1) 4 = t.rateChange ∧
      s32 r 4 = clampI (-(2 ^ 31)) (2 ^ 31 - 1) t.theta.floor ∧ u16 r 28 = t.refused % 65536)) ∧
  ∀ s c p, State.Served s specClkPllQuery c p → s.Open c.fn →
    Goes (.clkPllQuery c) s fun t =>
      let x := s.seen p
      let r := t.reply c 32
      u8 r 0 = x.clk.core.flagByte % 256 ∧ u8 r 2 = x.clk.dram.flagByte % 256 ∧ u8 r 4 = x.clk.audio.flagByte % 256 ∧
      u8 r 6 = x.clk.family % 256 ∧ u32 r 20 = x.clk.lolCount % 4294967296 ∧
      ∀ k, k < 6 →
        let q := (t.seen p).clk.pll k
        q.locked = (x.clk.pll k).locked ∧ q.gated = (x.clk.pll k).gated ∧
        (bit (u8 c.body 0) 0 = true → q.lol = false ∧ q.refLoss = false) ∧ (bit (u8 c.body 0) 0 = false → q = x.clk.pll k)

/-- The steps of the time bases' servos and of the word clock (R344 to R361). -/
def Obligations.ServoSteps : Prop :=
  let refused : TimeBase → TimeBase → Nat → Prop := fun t w cycles => w.t = t.t ∧ w.yI = t.yI ∧
    w.run = t.run + 1 ∧ w.refused = min 65535 (t.refused + 1) ∧
    (t.run ≠ 7 → w.state = t.state ∧ w.y = t.y ∧ w.pending = t.pending) ∧
    (t.run = 7 → t.pending = false → w.pending = true ∧ w.due = true ∧
      (t.state ≠ 1 → t.state ≠ 3 → w.state = 1 ∧ w.y = t.yI ∧ w.holdStart = cycles))
  let accepted : TimeBase → TimeBase → Rat → Prop := fun t w theta =>
    let g := 2 * piQ * t.bandwidth
    let inside : Prop := absQ theta ≤ (t.window : Rat)
    w.t = t.t ∧ w.run = 0 ∧ w.pending = false ∧
    w.yI = freqOf (freqVal t.yI - g * g * (theta / 1000000000) * t.interval) ∧
    w.y = freqOf (freqVal w.yI - 2 * g * (theta / 1000000000)) ∧
    (t.state = 2 → inside → (t.inRun < 7 → w.state = 2 ∧ w.inRun = t.inRun + 1) ∧ (7 ≤ t.inRun → w.state = 0 ∧ w.hadLock = true)) ∧
    (t.state = 0 → ¬inside → (t.outRun < 7 → w.state = 0 ∧ w.outRun = t.outRun + 1) ∧ (7 ≤ t.outRun → w.state = 2)) ∧
    (t.state = 1 → w.state = 2)
  ∀ (l : LeafId) (tb : Nat) (s : State),
    let x := s.leaf l
    let t := x.tb tb
    (∀ theta, (4 ≤ tb ∨ t.source ≠ 1 ∨ t.portState ≠ 9 ∨ t.hasPath = false) → exec (.servoSample l tb theta) s = .next s) ∧
    (∀ theta, (4 ≤ tb ∨ t.source ≠ 2 ∨ t.stopped = true) → exec (.wclkSample l tb theta) s = .next s) ∧
    (∀ (theta : Int) (i : Instr) (m : Rat), tb < 4 → s.twin = false → t.slewing = false → t.rem = 0 → t.rateChange = false → t.acquiring = false → t.fresh = false →
      (i = .servoSample l tb theta ∧ t.source = 1 ∧ t.portState = 9 ∧ t.hasPath = true ∧ m = (theta : Rat) - (t.asym : Rat) / 2 ∨
        i = .wclkSample l tb theta ∧ t.source = 2 ∧ t.stopped = false ∧ m = (theta : Rat)) →
      Goes i s fun u => ((u.leaf l).tb tb).theta = m ∧ (∀ k, k ≠ tb → (u.leaf l).tb k = x.tb k) ∧ u.leaf l.other = s.leaf l.other ∧
        (t.threshold < absQ m → refused t ((u.leaf l).tb tb) x.clk.cycles) ∧
        (absQ m ≤ t.threshold → t.pending = false → accepted t ((u.leaf l).tb tb) m)) ∧
    (∀ i w, (i = .wclkStop l tb ∧ t.source = 2 ∧ t.stopped = false ∧ w = { t with stopped := true } ∨
          i = .ptpSyncTimeout l tb ∧ t.source = 1 ∧ t.portState = 9 ∧ w = t) → tb < 4 →
      Goes i s fun u => ((u.leaf l).tb tb) = w.hold x.clk.cycles ∧
        (t.state = 0 ∨ t.state = 2 → ((u.leaf l).tb tb).state = 1 ∧ ((u.leaf l).tb tb).y = t.yI) ∧
        (∀ k, k ≠ tb → (u.leaf l).tb k = x.tb k) ∧ (u.leaf l).scene = x.scene) ∧
    ((4 ≤ tb ∨ t.source ≠ 1 ∨ t.portState ≠ 9) → exec (.ptpSyncTimeout l tb) s = .next s) ∧
    ((4 ≤ tb ∨ t.source ≠ 2 ∨ t.stopped = true) → exec (.wclkStop l tb) s = .next s) ∧
    ((4 ≤ tb ∨ t.source ≠ 2 ∨ t.stopped = false) → exec (.wclkReturn l tb) s = .next s) ∧
    (tb < 4 → t.source = 2 → t.stopped = true → Goes (.wclkReturn l tb) s fun u => (u.leaf l).tb tb = { t with stopped := false }) ∧
    (∀ edges, (4 ≤ tb ∨ t.source ≠ 2 ∨ t.stopped = true) → exec (.wclkRateWindow l tb edges) s = .next s) ∧
    (∀ edges, tb < 4 → t.source = 2 → t.stopped = false →
      let off : Prop := rateHz t.wcRate < 200 * ((edges * 10 : Nat) - (rateHz t.wcRate : Nat) : Int).natAbs
      Goes (.wclkRateWindow l tb edges) s fun u => let w := (u.leaf l).tb tb
        (¬off → w = { t with wcSeen := nearestRate (edges * 10) }) ∧
        (off → w.wcSeen = nearestRate (edges * 10) ∧ w.y = t.yI ∧ w.state = 2 ∧ w.slewing = false ∧
          (t.policy ≠ 2 → w.rateChange = true ∧ w.wcRate = t.wcRate))) ∧
    ((4 ≤ tb ∨ t.due = false ∨ t.pending = false) → exec (.clkDiscontinuityDecision l tb) s = .next s) ∧
    (tb < 4 → t.due = true → t.pending = true → s.twin = false → Goes (.clkDiscontinuityDecision l tb) s fun u =>
      let w := (u.leaf l).tb tb
      (t.policy ≠ 2 → w = { t with due := false }) ∧
      (t.policy = 2 → x.tbIdle tb = false → w.pending = false ∧ w.due = false ∧ w.state = 2 ∧ w.rem = t.theta ∧ w.t = t.t) ∧
      (t.policy = 2 → x.tbIdle tb = true → w.pending = false ∧ w.due = false ∧ w.state = 2 ∧ w.t = (t.shift (-t.theta)).t ∧ w.y = t.yI))

/-- The steps of PTP instances, VCXO servos and PLLs (R347, R348, R350, R353, R364 to R370, R373). -/
def Obligations.PtpAndPllSteps : Prop :=
  ∀ (l : LeafId) (s : State),
    let x := s.leaf l
    (∀ tb, let t := x.tb tb
      ((4 ≤ tb ∨ t.source ≠ 1 ∨ t.portState = 6) → exec (.ptpAnnounceTimeout l tb) s = .next s) ∧
      (tb < 4 → t.source = 1 → t.portState ≠ 6 → Goes (.ptpAnnounceTimeout l tb) s fun u =>
        let w := (u.leaf l).tb tb
        w.portState = (if t.role = 1 then 6 else 4) ∧ w.t = t.t ∧ (∀ k, k ≠ tb → (u.leaf l).tb k = x.tb k) ∧
        (t.role = 1 → t.hadLock = false → w.state = 3 ∧ w.y = 0) ∧
        (t.role = 1 → t.hadLock = true → t.state = 0 ∨ t.state = 2 → w.state = 1 ∧ w.y = t.yI) ∧
        (t.role ≠ 1 → t.portState = 9 → t.state = 0 ∨ t.state = 2 → w.state = 1 ∧ w.y = t.yI)) ∧
      (∀ m, (4 ≤ tb ∨ t.source ≠ 1) → exec (.ptpAnnounceRx l tb m) s = .next s) ∧
      (∀ m, tb < 4 → t.source = 1 → Goes (.ptpAnnounceRx l tb m) s fun u =>
        let w := (u.leaf l).tb tb
        w.t = t.t ∧ (∀ k, k ≠ tb → (u.leaf l).tb k = x.tb k) ∧ (u.leaf l).scene = x.scene ∧
        (t.role = 0 → w.gm = m.gm ∧ w.portState = 9) ∧
        (t.role ≠ 0 → t.prio1 < m.prio1 → w.portState = 6 ∧ w.gm = t.gm) ∧
        (t.role ≠ 0 → m.prio1 < t.prio1 → 128 ≤ t.clockClass → w.gm = m.gm ∧ w.portState = 9)) ∧
      (∀ path, (4 ≤ tb ∨ t.source ≠ 1) → exec (.ptpDelayRespRx l tb path) s = .next s) ∧
      (∀ path, tb < 4 → t.source = 1 → Goes (.ptpDelayRespRx l tb path) s fun u =>
        (u.leaf l).tb tb = { t with path := path, hasPath := true } ∧ ∀ k, k ≠ tb → (u.leaf l).tb k = x.tb k) ∧
      ((4 ≤ tb ∨ t.source ≠ 1 ∨ (t.portState ≠ 6 ∧ t.portState ≠ 9)) → exec (.ptpMessageInterval l tb) s = .next s) ∧
      (tb < 4 → t.source = 1 → t.portState = 6 ∨ t.portState = 9 → Goes (.ptpMessageInterval l tb) s fun u =>
        (u.leaf l).tb tb = { t with seq := (t.seq + 1) % 65536 } ∧ ∀ k, k ≠ tb → (u.leaf l).tb k = x.tb k)) ∧
    (∀ f e, let v := x.clk.vcxo f
      ((2 ≤ f ∨ v.fitted = false ∨ x.clk.dom.rate = 0 ∨ rateFamily x.clk.dom.rate ≠ f) → exec (.vcxoUpdate l f e) s = .next s) ∧
      (f < 2 → v.fitted = true → x.clk.dom.rate ≠ 0 → rateFamily x.clk.dom.rate = f → Goes (.vcxoUpdate l f e) s fun u =>
        let w := (u.leaf l).clk.vcxo f
        w.err = (e : Rat) ∧ w.code ≤ 1048575 ∧ (w.state = 2 ↔ w.code = 0 ∨ w.code = 1048575) ∧
        (v.code = 0 ∨ v.code = 1048575 → w.integ = v.integ) ∧
        (100 < e.natAbs → w.good = 0 ∧ w.state ≠ 0) ∧ w.hold = v.hold ∧ w.steer = v.steer ∧
        (u.leaf l).clk.vcxo (1 - f) = x.clk.vcxo (1 - f))) ∧
    ∀ k, let p := x.clk.pll k
      (∀ diff refOk, 6 ≤ k → exec (.pllLockWindow l k diff refOk) s = .next s) ∧
      (∀ diff refOk, k < 6 → Goes (.pllLockWindow l k diff refOk) s fun u =>
        let w := (u.leaf l).clk.pll k
        (∀ j, j < 6 → j ≠ k → (u.leaf l).clk.pll j = x.clk.pll j) ∧ w.gated = p.gated ∧
        (refOk = true → diff ≤ 2 → w.good = min 4 (p.good + 1) ∧ (w.locked = true ↔ p.locked = true ∨ 3 ≤ p.good) ∧ w.lol = p.lol) ∧
        ((refOk = false ∨ 2 < diff) → w.good = 0 ∧ w.locked = false ∧
          (p.locked = true → p.gated = false → (refOk = true → w.lol = true) ∧ (refOk = false → w.refLoss = true) ∧
            (u.leaf l).clk.lolCount = (x.clk.lolCount + 1) % 4294967296))) ∧
      ((6 ≤ k ∨ p.gated = false ∨ p.locked = false) → exec (.pllGateEnd l k) s = .next s) ∧
      (k < 6 → p.gated = true → p.locked = true → Goes (.pllGateEnd l k) s fun u =>
        (u.leaf l).clk.pll k = { p with gated := false } ∧ (u.leaf l).scene = x.scene)

/-- What the commands and frames of the microphones do (R375 to R389). -/
def Obligations.MicrophoneCommands : Prop :=
  (∀ s c p, State.Served s specMicClock c p →
    let g := s.ctx c.fn p
    let x := s.meets specMicClock c p
    (s.effect specMicClock c).status = sOk → Goes (.micClock c) s fun t =>
      let y := t.seen p
      let b := c.body
      let k := u8 b 0
      let q := x.micClock k
      let w := y.micClock k
      w.ratio = u16 b 2 ∧ w.n = u16 b 4 ∧ w.f = u16 b 6 ∧ w.mask = q.mask ∧ (u8 b 1 = 1 → w.on = true) ∧
      (u8 b 1 = 0 → q.mask = 0 → q.newMask = none → w.on = false) ∧
      (u8 b 1 = 0 → q.mask ≠ 0 → w.on = q.on ∧ w.newMask = some (g.n, 0) ∧ w.stopping = true) ∧
      ∀ j, j ≠ k → y.micClock j = x.micClock j) ∧
  (∀ s c p, State.Served s specMicEnable c p →
    let g := s.ctx c.fn p
    let x := s.meets specMicEnable c p
    Goes (.micEnable c) s fun t =>
      let y := t.seen p
      y.micClock (u8 c.body 0) = { x.micClock (u8 c.body 0) with newMask := some (g.n, u16 c.body 2) } ∧
      (∀ j, j ≠ u8 c.body 0 → y.micClock j = x.micClock j) ∧ y.mics.chans = x.mics.chans) ∧
  (∀ s c p, State.Served s specMicConfig c p →
    let g := s.ctx c.fn p
    let x := s.meets specMicConfig c p
    (s.effect specMicConfig c).status = sOk → Goes (.micConfig c) s fun t =>
      let y := t.seen p
      let b := c.body
      (∀ i, (i < u8 b 0 ∨ u8 b 0 + u8 b 1 ≤ i) → y.mic i = x.mic i) ∧
      ∀ i, u8 b 0 ≤ i → i < u8 b 0 + u8 b 1 →
        let q := x.mic i
        let w := y.mic i
        w.d = q.d ∧ w.dcMode = q.dcMode ∧ w.settle = q.settle ∧
        (bit (u8 b 2) 0 = true → ∃ m f, w.dNext = some (g.n, u8 b 4, m, f) ∧ (bit (u8 b 2) 1 = true → m = u8 b 3 ∧ f = u16 b 6)) ∧
        (bit (u8 b 2) 0 = false → bit (u8 b 2) 1 = false → w.dNext = q.dNext) ∧
        (bit (u8 b 2) 2 = true → w.k = u8 b 5 ∧ w.ring = [] ∧ x.micMasked i = false) ∧
        (bit (u8 b 2) 2 = false → w.k = q.k ∧ w.ring = q.ring)) ∧
  (∀ s c p, State.Served s specMicRead c p → s.Channel c.fn →
    u16 c.body 2 ≤ ((s.seen p).mic (u8 c.body 0)).ring.length →
    Goes (.micRead c) s fun t => ∃ j, (t.fn c.fn).mail.dma = (s.fn c.fn).mail.dma ++ [j] ∧ j.toHost = true ∧
      j.out = ((((s.seen p).mic (u8 c.body 0)).ring.take (u16 c.body 2)).reverse.flatMap MicBlock.bytes) ∧
      (t.seen p).mics = (s.seen p).mics) ∧
  (∀ s c p, State.Served s specMicQuery c p →
    let x := s.meets specMicQuery c p
    s.Open c.fn → Goes (.micQuery c) s (s.Answered specMicQuery c p fun r =>
      let i := u8 c.body 0
      let q := x.mic i
      r.length = 32 ∧ (u8 r 0 = 0 ↔ x.micMasked i = false) ∧ (u8 r 0 = 2 ↔ x.micOn i = true) ∧
      (u8 r 1 = 1 ↔ (x.micClock (i / 16)).locked x.clk.dom.rate = true) ∧ u16 r 2 = q.settle % 65536 ∧ u8 r 15 = q.d % 256 ∧
      u32 r 24 = q.gaps % 4294967296)) ∧
  ∀ (l : LeafId) (ch : Nat) (bits : List Bool) (s : State),
    let x := s.leaf l
    let k := x.micClock (ch / 16)
    (128 ≤ ch → exec (.micFrameEnd l ch bits) s = .next s) ∧
    (ch < 128 → Goes (.micFrameEnd l ch bits) s fun t => let y := t.leaf l
      (∀ j, j / 16 ≠ ch / 16 → y.mic j = x.mic j ∧ y.micClock (j / 16) = x.micClock (j / 16)) ∧ y.clk = x.clk ∧
      (k.newMask = none →
        let c := (x.mic ch).next x.clk.dom.sample
        let w := y.mic ch
        (x.micMasked ch = false → w.recent.head? = some (x.clk.dom.sample, 0) ∧ w.gaps = c.gaps ∧ y.micClock (ch / 16) = k) ∧
        (x.micMasked ch = true → x.clk.audio.gated = true → w.recent.head? = some (x.clk.dom.sample, 0) ∧
          w.gaps = (c.gaps + 1) % 4294967296 ∧ w.settle = settleFrames k.ratio c.d ∧ y.micClock (ch / 16) = k) ∧
        (x.micMasked ch = true → x.clk.audio.gated = false →
          (∃ v, w.recent.head? = some (x.clk.dom.sample, v) ∧ (0 < c.settle → v = 0)) ∧ w.settle = c.settle - 1 ∧ w.gaps = c.gaps ∧
          (y.micClock (ch / 16)).slips = (if k.locked x.clk.dom.rate = true ∧ bits.length ≠ k.ratio ∧ k.slipAt ≠ some x.clk.dom.sample
            then (k.slips + 1) % 4294967296 else k.slips))))

/-- What the commands and loads of the coping do (R21, R393 to R404). -/
def Obligations.CopingCommands : Prop :=
  (∀ (s : State) (c : Cmd),
    (s.Ready specCopOutConfig c → Goes (.copOutConfig c) s fun t =>
      t.cop = { s.cop with staged := s.cop.staged ++ [taken specCopOutConfig s c] }) ∧
    (s.Ready specCopCvConfig c → Goes (.copCvConfig c) s fun t =>
      t.cop = { s.cop with staged := s.cop.staged ++ [taken specCopCvConfig s c] }) ∧
    (s.Ready specCopMute c → Goes (.copMute c) s fun t =>
      t.cop = { s.cop with staged := s.cop.staged ++ [taken specCopMute s c] }) ∧
    (s.Ready specCopQuery c → s.Open c.fn → Goes (.copQuery c) s fun t =>
      let o := s.cop.out (u8 c.body 0)
      let r := t.reply c 32
      t.cop = s.cop ∧ u8 r 1 = leafCode s.cop.source % 256 ∧ (s.cop.clamped = true → u8 r 0 = 0) ∧
      (u8 c.body 0 < 32 → u8 r 2 = o.span % 256 ∧ u16 r 4 = o.faults % 65536 ∧ u32 r 24 = o.raised % 4294967296 ∧
        u32 r 28 = o.cycle % 4294967296 ∧ (s.cop.clamped = false → s.cop.lost = true → u8 r 0 = 4)))) ∧
  ∀ s : State,
    let c := s.cop
    let t0 := c.tick
    let stale : LeafId → Prop := fun l => (s.leaf l).fs = 0 ∨ (s.leaf l).clk.audio.gated = true ∨ s.alive l = false ∨
      c.loaded = some (some l, (s.leaf l).copPrev.sample)
    ((s.variant.hasCoping = false ∨ c.held = true ∨ (s.copSource = none ∧ (c.lost = true ∨ c.clamped = true)) ∨ ∃ l, s.copSource = some l ∧ stale l) → exec .copingLoadStrobe s = .next s) ∧
    (s.variant.hasCoping = true → c.held = false → (s.copSource = none → c.lost = false ∧ c.clamped = false) → (∀ l, s.copSource = some l → ¬stale l) →
      Goes .copingLoadStrobe s fun t =>
        t.cop.tick = t0 + 1 ∧ t.cop.staged = [] ∧ t.cop.clamped = false ∧ t.cop.lost = false ∧ t.cop.source = s.copSource ∧
        (∀ l, t.leaf l = s.leaf l) ∧
        (c.staged = [] → ∀ k, k < 32 →
          let o := c.out k
          (o.mute.at_ t0 = 0 → (t.cop.out k).value = 0) ∧
          (∀ l, s.copSource = some l → c.clamped = false → c.lost = false → o.phase = 0 → o.mute.at_ t0 = 1 → o.fade.at_ t0 = 1 →
            o.resume.at_ t0 = 1 → o.fallFrom = 0 → o.sigma = 0 → o.slewedAt = none →
            (t.cop.out k).value = tget (s.leaf l).copPrev.vals k 0))) ∧
    (∀ k, (32 ≤ k ∨ c.held = true ∨ c.clamped = true ∨ c.lost = true ∨ s.copSource = none) → exec (.copSlewUpdate k) s = .next s) ∧
    (∀ k l, k < 32 → c.held = false → c.clamped = false → c.lost = false → s.copSource = some l →
      let f := (s.leaf l).copPrev
      let o := c.out k
      let done : Prop := c.loaded = some (some l, f.sample) ∨ o.slewedAt = some f.sample ∨ f.sample % o.interval ≠ 0
      (done → exec (.copSlewUpdate k) s = .next s) ∧
      (¬done → Goes (.copSlewUpdate k) s fun t => let w := t.cop.out k
        w.slewedAt = some f.sample ∧ (o.sigma = 0 → w.z = tget f.vals k 0) ∧
        (o.sigma ≠ 0 → (w.z - o.z).natAbs ≤ o.sigma ∧ ((tget f.vals k 0 - o.z).natAbs ≤ o.sigma → w.z = tget f.vals k 0)) ∧
        (∀ j, j ≠ k → t.cop.out j = c.out j) ∧ exec (.copSlewUpdate k) t = .next t)) ∧
    (∀ k, (32 ≤ k ∨ c.held = true) → exec (.copSpanFadeEnd k) s = .next s) ∧
    (∀ k, k < 32 → c.held = false → Goes (.copSpanFadeEnd k) s fun t =>
      let o := c.out k
      let w := t.cop.out k
      (∀ j, j ≠ k → t.cop.out j = c.out j) ∧ w.mute = o.mute ∧ w.value = o.value ∧ w.z = o.z ∧
      ((o.phase = 0 ∨ t0 < o.fade.first + 64) → w = o) ∧
      (o.phase = 1 → o.fade.first + 64 ≤ t0 → w.span = o.spanTo ∧ w.phase = 2 ∧ w.fade.target = 1 ∧ w.fade.first = t0 ∧ w.fade.len = 64) ∧
      (o.phase = 2 → o.fade.first + 64 ≤ t0 → o.spanNext = none → w.phase = 0 ∧ w.span = o.span)) ∧
    ((c.source = none ∨ s.variant.hasCoping = false ∨ c.held = true ∨ c.clamped = true ∨ c.lost = true) →
      exec .copStrobeLoss s = .next s) ∧
    (∀ l, c.source = some l → s.variant.hasCoping = true → c.held = false → c.clamped = false → c.lost = false →
      Goes .copStrobeLoss s fun t => t.cop.lost = true ∧ t.cop.lostBy = l.num ∧ t.cop.tick = t0 ∧
        ∀ k, k < 32 → (t.cop.out k).value = 0 ∧ (t.cop.out k).z = 0)

/-- Supervision and resets of the coping (R399 to R403, R489, R511). -/
def Obligations.CopingSupervision : Prop :=
  ∀ s : State,
    (∀ k dc rms ohms limit, (36 ≤ k ∨ s.variant.hasCoping = false ∨ s.cop.held = true) →
      exec (.copMonitorWindow k dc rms ohms limit) s = .next s) ∧
    (∀ k dc rms ohms limit, k < 36 → s.variant.hasCoping = true → s.cop.held = false →
      Goes (.copMonitorWindow k dc rms ohms limit) s fun t =>
        let audio : Bool := decide (k < 32)
        let v := s.cop.cv (k - 32)
        let o := if audio then s.cop.out k else v.mon
        let w := if audio then t.cop.out k else (t.cop.cv (k - 32)).mon
        let m : CopMeas := { dc := dc, rms := rms, ohms := ohms, limit := limit }
        w.cycle = (o.cycle + 1) % 4294967296 ∧ w.dcM = dc ∧ w.rmsM = rms ∧ w.value = o.value ∧
        (∀ j, (audio = true → j ≠ k) → t.cop.out j = s.cop.out j) ∧ t.cop.source = s.cop.source ∧ t.cop.tick = s.cop.tick ∧
        ∀ i, i < 4 →
          let cond := (faultConds audio v.span v.code w.dcL w.rmsL m).getD i false
          bit w.faults i = (if bit o.faults i then cond || decide (o.ok.getD i 0 < 9)
            else o.monitor && cond && decide (2 ≤ o.bad.getD i 0))) ∧
    (s.variant.hasCoping = false → exec .copingRailFault s = .next s ∧ exec .copingResetRelease s = .next s ∧
      ∀ hot, exec (.copingFoldBack hot) s = .next s) ∧
    (s.variant.hasCoping = true →
      (Goes .copingRailFault s fun t => t.cop = copReset ∧ t.cop.held = true ∧ t.cop.clamped = true ∧ t.plinth.copingPg = false ∧
        ∀ l, t.leaf l = s.leaf l) ∧
      ((s.plinth.supply = false ∨ s.cop.held = false) → exec .copingResetRelease s = .next s) ∧
      (s.plinth.supply = true → s.cop.held = true → Goes .copingResetRelease s fun t =>
        t.cop = { copReset with held := false } ∧ t.cop.clamped = true ∧ t.cop.source = some .a ∧ t.plinth.copingPg = true) ∧
      ∀ hot, Goes (.copingFoldBack hot) s fun t => t.cop = { s.cop with foldBack := hot })

/-- What the commands of redundancy do (R406 to R411, R426, R428, R431). -/
def Obligations.RedundancyCommands : Prop :=
  ∀ (s : State) (c : Cmd),
    let b := c.body
    (s.Ready specRedMode c → (s.effect specRedMode c).status = sOk → Goes (.redMode c) s fun t =>
      let src := leafOf (u8 b 1)
      (u8 b 0 = 0 →
        let m := s.leaveLeaf
        let on : LeafId → Nat := fun k => if (s.red.of k).claim = 0 then 0 else s.homeClaim k
        let waits : Prop := s.alive m = true ∧ (s.leaf m).fs ≠ 0
        (∀ k, (t.red.of k).claim = (s.red.of k).claim ∧ (t.leaf k).clk = (s.leaf k).clk ∧
          (t.leaf k).scene.objs = (s.leaf k).scene.objs ∧ (t.leaf k).scene.vox = (s.leaf k).scene.vox ∧
          (s.red.mode ≠ 1 → (t.leaf k).scene = (s.leaf k).scene) ∧
          ((s.red.of k).claim ≠ on k → ∃ g, (t.red.of k).grant = some g ∧
            (g.claim = on k ∨ g.claim = 0 ∧ g.after = some (on k) ∧ on k = (s.red.of k.other).claim))) ∧
        (waits → t.red.mode = s.red.mode ∧ t.red.leaveAt = some (taken specRedMode s c) ∧
          ∀ k, (t.leaf k).scene = (s.leaf k).scene ∧ (t.leaf k).guest = (s.leaf k).guest) ∧
        (¬waits → t.red.mode = 0 ∧ t.red.leaveAt = none ∧ t.red.active = .a ∧ t.red.agreed = 0 ∧ ∀ k, (t.leaf k).guest = none)) ∧
      (u8 b 0 = 1 → t.red.mode = s.red.mode ∧ (t.red.of src.other).claim = 0 ∧ (t.red.of src).claim = (s.red.of src).claim ∧
        ∃ e, t.red.entry = some e ∧ e.op = 0 ∧ e.source = src ∧ e.copied = false ∧ e.copyStores = bit (u8 b 7) 0 ∧ e.at_ = u64 b 16) ∧
      (u8 b 0 = 2 → t.red.mode = s.red.mode ∧ t.red.split = some (taken specRedMode s c) ∧ t.red.sceneA = src ∧
        t.red.splitFeed = u16 b 2 ∧ t.red.splitTx = u8 b 4 ∧ t.red.splitRx = u8 b 5 ∧ t.red.copingScene = u8 b 6 ∧
        ∀ l, (t.red.of l).ckpt = none ∧ (t.red.of l).claim = (s.red.of l).claim)) ∧
    (s.Ready specRedRestore c → (s.effect specRedRestore c).status = sOk → Goes (.redRestore c) s fun t =>
      let l := leafOf (u8 b 0)
      (t.red.of l.other).claim = (s.red.of l.other).claim ∧ t.red.mode = s.red.mode ∧
      (s.red.mode = 1 → (t.red.of l).claim = 0 ∧
        ∃ e, t.red.entry = some e ∧ e.op = 1 ∧ e.source = l.other ∧ e.copyStores = bit (u8 b 1) 1 ∧ e.at_ = u64 b 8) ∧
      (s.red.mode ≠ 1 → bit (u8 b 1) 0 = true → (t.red.of l).claim = 0 ∧ ∃ e, t.red.entry = some e ∧ e.op = 2 ∧ e.source = l.other) ∧
      (s.red.mode ≠ 1 → bit (u8 b 1) 0 = false → (t.red.of l).claim = 0 ∧
        (t.red.of l).grant.map Grant.claim = some s.red.standbyClaim)) ∧
    (s.Ready specRedSwap c → (s.effect specRedSwap c).status = sOk → Goes (.redSwap c) s fun t =>
      let l := s.red.active
      (u8 b 0 = 0 → (s.leaf l).fs ≠ 0 → t.red.swapAt = some (taken specRedSwap s c) ∧ t.red.active = l ∧
        ∀ k, (t.red.of k).claim = (s.red.of k).claim) ∧
      (u8 b 0 = 0 → (s.leaf l).fs = 0 → t.red.swapAt = none ∧ t.red.active = l.other ∧
        (t.red.of l).claim = s.red.standbyClaim ∧ (t.red.of l.other).claim = s.red.activeClaim) ∧
      (u8 b 0 ≠ 0 → (t.leaf (leafOf (u8 b 1))).run = 0 ∧ (t.red.of (leafOf (u8 b 1))).claim = 0)) ∧
    (s.Ready specRedConfig c → Goes (.redConfig c) s fun t =>
      t.red.activeClaim = u8 b 0 ∧ t.red.standbyClaim = u8 b 1 ∧ t.red.demote = u8 b 2 ∧ t.red.mode = s.red.mode ∧
      ∀ l, (t.red.of l).claim = (s.red.of l).claim ∧
        ((s.red.of l).grant = none → (s.red.of l).claim = 0 → (t.red.of l).grant = none) ∧
        ((s.red.of l).grant = none → (s.red.of l).claim ≠ 0 → (s.red.of l).claim = s.red.activeClaim →
          (t.red.of l).grant.map Grant.claim = (if u8 b 0 = (s.red.of l).claim then none else some (u8 b 0))) ∧
        ((s.red.of l).grant = none → (s.red.of l).claim ≠ 0 → (s.red.of l).claim ≠ s.red.activeClaim →
          (s.red.of l).claim = s.red.standbyClaim →
          (t.red.of l).grant.map Grant.claim = (if u8 b 1 = (s.red.of l).claim then none else some (u8 b 1)))) ∧
    (s.Ready specRedQuery c → s.Open c.fn → Goes (.redQuery c) s fun t =>
      let r := t.reply c 32
      u8 r 0 = s.red.mode % 256 ∧ u8 r 1 = s.redState % 256 ∧ u8 r 2 = s.redActive % 256 ∧ u8 r 3 = s.red.demote % 256 ∧
      u8 r 4 = s.red.a.claim % 256 ∧ u8 r 5 = s.red.b.claim % 256 ∧ u32 r 8 = s.red.agreed % 4294967296 ∧
      u32 r 12 = s.red.divergences % 4294967296 ∧ u32 r 24 = s.red.unchecked % 4294967296 ∧ (∀ l, (t.leaf l).scene = (s.leaf l).scene) ∧
      ∀ l, (t.red.of l).claim = (s.red.of l).claim)

/-- Claims, failures, the tie link and verdicts (R18 to R20, R411 to R418). -/
def Obligations.PairSteps : Prop :=
  ∀ (l : LeafId) (s : State),
    let o := l.other
    let r := s.red.of l
    let ro := s.red.of o
    (r.grant = none → exec (.claimGrant l) s = .next s) ∧
    (∀ g, r.grant = some g →
      (g.claim ≠ 0 → g.claim = ro.claim → exec (.claimGrant l) s = .next s) ∧
      ((g.claim = 0 ∨ g.claim ≠ ro.claim) → Goes (.claimGrant l) s fun t =>
        (t.red.of l).claim = g.claim ∧ (t.red.of l).grant.map Grant.claim = g.after ∧ (t.red.of o).claim = ro.claim ∧ (t.red.of o).grant = ro.grant ∧
        t.red.active = (if g.cause = 7 ∧ s.red.mode = 1 then l else s.red.active) ∧
        t.red.takeover = (if g.cause = 7 ∧ s.red.mode = 1 then none else s.red.takeover))) ∧
    (s.alive l = false → exec (.livenessMissing l) s = .next s) ∧
    (s.alive l = true → Goes (.livenessMissing l) s fun t =>
      (t.red.of l).claim = 0 ∧ (t.leaf l).run = 3 ∧ (t.leaf o).run = (s.leaf o).run ∧ t.red.tieUp = false ∧
      (t.red.of o).claim = ro.claim ∧
      (s.red.mode = 1 → s.red.active = l → s.alive o = true → ro.claim ≠ 0 → ro.grant = none →
        (∃ k, t.red.takeover = some k ∧ k.lost = l) ∧ (t.red.of o).grant = some { claim := s.red.activeClaim, cause := 7 })) ∧
    (let down : Prop := s.variant.hasB = false ∨ s.red.tieUp = false ∨ s.alive .a = false ∨ s.alive .b = false ∨
        (s.leaf .a).stopped = true ∨ (s.leaf .b).stopped = true
      let falls : State → Prop := fun t => t.red.tieUp = false ∧ t.red.tieFault = true ∧ t.red.entry = none ∧ t.red.split = none ∧
        (∀ k, (t.red.of k).transit = none) ∧ t.red.mode = s.red.mode ∧ (∀ k, (t.red.of k).claim = (s.red.of k).claim) ∧
        (s.red.mode = 1 → (s.red.of s.red.active.other).claim ≠ 0 →
          (s.red.of s.red.active.other).grant.map Grant.cause ≠ some 7 →
          (t.red.of s.red.active.other).grant.map Grant.claim = some 0) ∧
        ((s.red.of s.red.active.other).grant.map Grant.cause = some 7 →
          (t.red.of s.red.active.other).grant = (s.red.of s.red.active.other).grant)
      (down → exec (.tieFlitCrcFail l) s = .next s ∧ exec (.heartbeatMissing l) s = .next s) ∧
      (¬down → Goes (.tieFlitCrcFail l) s falls ∧ Goes (.heartbeatMissing l) s falls)) ∧
    ((s.variant.hasB = false ∨ s.red.tieUp = true ∨ s.alive .a = false ∨ s.alive .b = false) → exec .tieLinkUp s = .next s) ∧
    (s.variant.hasB = true → s.red.tieUp = false → s.alive .a = true → s.alive .b = true →
      Goes .tieLinkUp s fun t => t.red = { s.red with tieUp := true, tieFault := false } ∧ ∀ k, t.leaf k = s.leaf k) ∧
    (s.red.tieUp = false → exec (.heartbeatRx l) s = .next s) ∧
    (s.red.tieUp = true → Goes (.heartbeatRx l) s fun t => t.red.of l = { r with peer := ro.sent } ∧ t.red.of o = ro) ∧
    ((r.own = none ∨ r.peer = none) → exec (.twinVerdict l) s = .next s) ∧
    (∀ own peer, r.own = some own → r.peer = some peer →
      let stale : Prop := s.twin = false ∨ s.alive l = false ∨ s.red.tieUp = false ∨ own.sample ≠ peer.sample ∨ own.sample ≤ r.judged
      (stale → exec (.twinVerdict l) s = .next s) ∧
      (¬stale → Goes (.twinVerdict l) s fun t =>
        (t.red.of l).judged = own.sample ∧ (∀ k, (t.red.of k).claim = (s.red.of k).claim) ∧
        (s.verdict own peer l = none → (t.red.of l).withhold = false ∧ t.red.divergences = s.red.divergences ∧
          t.red.agreed = (if ro.judged < own.sample then min 4294967295 (s.red.agreed + 1) else s.red.agreed)) ∧
        (∀ v kind cause, s.verdict own peer l = some (v, kind, cause) →
          (ro.judged < own.sample → t.red.agreed = 0 ∧
            t.red.divergences = (if kind = 0 then min 4294967295 (s.red.divergences + 1) else s.red.divergences)) ∧
          (ro.judged < own.sample → s.guarded = true → s.red.demote = 2 → (t.red.of v).grant.map Grant.claim = some 0) ∧
          (s.guarded = true → s.red.demote ≠ 0 → ((t.red.of l).withhold = true ↔ v = l))))) ∧
    (r.own = none → exec (.gateDeadline l) s = .next s) ∧
    ∀ own, r.own = some own →
      let idle : Prop := s.guarded = false ∨ own.sample ≤ r.judged ∨ ∃ q, r.peer = some q ∧ q.sample = own.sample
      (idle → exec (.gateDeadline l) s = .next s) ∧
      (¬idle → Goes (.gateDeadline l) s fun t =>
        t.red.unchecked = min 4294967295 (s.red.unchecked + 1) ∧ t.red.agreed = 0 ∧ (t.red.of l).judged = own.sample ∧
        ((t.red.of l).withhold = true ↔ own.flag = true ∧ s.red.demote ≠ 0) ∧ t.red.of o = ro)

/-- Checkpoints, the journal, twin restarts and split takeovers (R406 to R409, R421 to R424, R427, R428). -/
def Obligations.CheckpointSteps : Prop :=
  (∀ (l : LeafId) (s : State),
    let o := l.other
    let r := s.red.of l
    let sends : Prop := (s.red.mode = 2 ∨ s.red.split.isSome = true) ∧ s.red.tieUp = true ∧ s.alive l = true ∧ s.alive o = true ∧ r.lost = false
    (¬sends → exec (.checkpointSend l) s = .next s) ∧
    (sends → Goes (.checkpointSend l) s fun t =>
      (t.red.of o).transit = some ((s.leaf l).scene.checkpoint, (s.leaf l).guest.map Scene.checkpoint) ∧
      (t.red.of o).ckptClk = (s.leaf l).clk ∧ (t.red.of o).ckpt = (s.red.of o).ckpt ∧ t.red.of l = r ∧ ∀ k, t.leaf k = s.leaf k) ∧
    (Goes (.journalEntry l) s fun t =>
      let k := (r.journal.takeWhile Journal.acked).length
      t.red.of o = s.red.of o ∧ (t.red.of l).journal.length = r.journal.length ∧
      ∀ i j, r.journal[i]? = some j → (t.red.of l).journal[i]? = some (if i = k then { j with acked := true } else j)) ∧
    ((r.transit = none ∨ s.red.tieUp = false) → exec (.checkpointReceived l) s = .next s) ∧
    (∀ k, r.transit = some k → s.red.tieUp = true → s.red.entry = none → Goes (.checkpointReceived l) s fun t =>
      (t.red.of l).ckpt = some k.1 ∧ (t.red.of l).ckptGuest = k.2 ∧ (t.red.of l).transit = none ∧ (t.red.of l).ckptAt = (s.leaf l).now ∧
      (t.red.of l).journal = r.journal.filter Journal.since ∧ (∀ i, (t.leaf i).scene = (s.leaf i).scene) ∧
      ((s.red.split = none ∨ (s.red.of o).ckpt = none) → t.red.mode = s.red.mode ∧ t.red.split = s.red.split) ∧
      (s.red.split ≠ none → (s.red.of o).ckpt ≠ none → t.red.mode = 2 ∧ t.red.split = none ∧
        let co := if s.red.copingScene = 0 then s.red.sceneA else s.red.sceneA.other
        (∀ k, (t.red.of k).claim = (s.red.of k).claim) ∧
        ((s.red.of co).claim ≠ s.red.activeClaim → ∃ g, (t.red.of co).grant = some g ∧
          (g.claim = s.red.activeClaim ∨ g.after = some s.red.activeClaim)))) ∧
    ((s.red.takeover = none ∨ s.red.mode ≠ 2 ∨ s.alive l = false ∨ ∃ k, s.red.takeover = some k ∧ k.lost = l) →
      exec (.splitTakeoverRestore l) s = .next s) ∧
    (∀ k, s.red.takeover = some k → s.red.mode = 2 → s.alive l = true → k.lost = o → k.both = false → r.journal = [] →
      Goes (.splitTakeoverRestore l) s fun t => t.red.takeover = none ∧ (t.leaf l).guest.isSome = true ∧
        (t.leaf l).scene = (s.leaf l).scene ∧ (t.red.of l).ckpt = none ∧ ∀ i, (t.red.of i).claim = (s.red.of i).claim)) ∧
  ∀ s : State,
    ((s.red.entry = none ∨ ∃ e, s.red.entry = some e ∧ (e.copied = true ∨ e.op = 2)) → exec .twinCopyDone s = .next s) ∧
    (∀ e, s.red.entry = some e → e.copied = false → e.op ≠ 2 → Goes .twinCopyDone s fun t =>
      let x := s.leaf e.source
      (∃ e', t.red.entry = some e' ∧ e'.copied = true ∧ e'.op = e.op ∧ e'.source = e.source ∧ e'.at_ = e.at_ ∧
        (e'.late = true ↔ e.at_ ≠ 0 ∧ e.at_ ≤ x.now)) ∧
      (x.fs = 0 → t.leaf e.source = x) ∧ t.leaf e.source.other = s.leaf e.source.other ∧
      (x.fs ≠ 0 → ∃ r, (t.leaf e.source).clk.restart = some r ∧ r.joint = true ∧ r.silent = false ∧ r.rate = x.clk.dom.rate ∧
        r.tb = x.clk.dom.tb ∧
        (e.at_ ≠ 0 → x.now < e.at_ → r.first = x.next + (countOf x.fs e.at_ - x.clk.dom.nextCount)))) ∧
    ((s.red.entry = none ∨ ∃ e, s.red.entry = some e ∧ (e.copied = false ∨ e.op = 2)) → ∀ k, exec (.twinRestart k) s = .next s) ∧
    (∀ e k, s.red.entry = some e → e.copied = true → e.op ≠ 2 →
      let x := s.leaf e.source
      let silent : Prop := match x.clk.restart with
        | some r => r.joint = true ∧ r.silent = true
        | none => x.clk.dom.rate = 0
      (¬silent → exec (.twinRestart k) s = .next s) ∧
      (silent → (s.red.of e.source.other).claim = 0 → 0 < s.red.standbyClaim → s.red.standbyClaim < s.red.activeClaim →
        Goes (.twinRestart k) s fun t =>
          let y := t.leaf e.source
          let z := t.leaf e.source.other
          t.red.mode = 1 ∧ t.red.active = e.source ∧ t.red.entry = none ∧ t.red.agreed = 0 ∧
          (t.red.of e.source).claim = s.red.activeClaim ∧ (t.red.of e.source.other).claim = s.red.standbyClaim ∧
          z.scene = { y.scene with net := z.scene.net } ∧ z.clk.dom = y.clk.dom ∧ z.clk.tbs = y.clk.tbs ∧ y.clk.restart = none ∧ z.clk.restart = none ∧
          y.clk.dom.sample = x.clk.dom.sample))

/-- What the system, test and diagnostic commands do (R3, R38, R63, R487, R488, R491, R494, R495, R498). -/
def Obligations.SystemCommands : Prop :=
  ∀ (s : State) (c : Cmd),
    let b := c.body
    let l := s.testLeaf c
    (s.Ready specSysCaps c → Goes (.sysCaps c) s fun t => (t.fn c.fn).capsDone = true ∧
      (∀ k, (t.leaf k).scene = (s.leaf k).scene ∧ (t.leaf k).clk = (s.leaf k).clk) ∧
      (s.Open c.fn → let r := t.reply c 64
        u8 r 0 = s.variant.code % 256 ∧ (c.fn = .f2 → c.target = 0 → u8 r 1 = 255) ∧
        (∀ p, c.fn ≠ .f2 → s.server c.fn = some p → u8 r 1 = p.1.num ∧ u8 r 3 = (s.leaf p.1).clk.dom.rate % 256 ∧
          u16 r 4 = objCap (s.leaf p.1).clk.dom.rate % 65536))) ∧
    (let hit : Pend → Bool := fun p => p.released && p.cmd.tag == u32 b 0 && decide ((s.fnDom c.fn).nextCount < p.count);
      s.Clear (specSysCancel undoCmd) c → c.when_ = 0 → (s.fn c.fn).mail.holds ((s.fn c.fn).mail.accNo + 1) = false →
      checkCommand (specSysCancel undoCmd) (s.takes (specSysCancel undoCmd) c) (taken (specSysCancel undoCmd) s c) = (sOk, 0) →
      (∀ p ∈ (s.fn c.fn).mail.queued, (s.fnDom c.fn).nextCount < p.count) → (∃ p ∈ (s.fn c.fn).mail.queued, hit p = true) →
      Goes (.sysCancel c) s fun t => (t.fn c.fn).mail.queued = (s.fn c.fn).mail.queued.filter fun p => !hit p) ∧
    (s.Channel c.fn → (s.fn c.fn).mail.refCount ≤ 62 →
      (s.Ready specSysBootLoad c → Goes (.sysBootLoad c) s fun t =>
        (t.leaf (targetLeaf c)).boot.load = some { cmd := taken specSysBootLoad s c } ∧
        (t.fn c.fn).mail.dma.length = (s.fn c.fn).mail.dma.length + 1) ∧
      (s.Ready specSysFwUpdate c → Goes (.sysFwUpdate c) s fun t =>
        (t.leaf (targetLeaf c)).boot.update = some { cmd := taken specSysFwUpdate s c, update := true } ∧
        (t.fn c.fn).mail.dma.length = (s.fn c.fn).mail.dma.length + 1)) ∧
    (∀ d, s.Arrives c d →
      let k := targetLeaf c
      let x := (s.leaf k).boot
      (c.op = 0x0103 → (s.leaf k).run = 1 → x.waitHost = true → Goes (.dmaTransferDone c.fn d) s fun t =>
        let w := (t.leaf k).boot
        w.load = none ∧ (t.leaf k).run = 1 ∧
        (if imageOk x.secMin d then w.waitHost = false ∧ w.runVer = Config.imageVersion d
          else w.waitHost = true ∧ w.runVer = x.runVer)) ∧
      (c.op = 0x0104 → x.update ≠ none → Goes (.dmaTransferDone c.fn d) s fun t =>
        let w := (t.leaf k).boot
        w.update = some { cmd := c, data := d, update := true } ∧ w.slot = x.slot ∧
        (x.spareSlot = 0 → w.valid0 = false ∧ w.valid1 = x.valid1) ∧ (x.spareSlot ≠ 0 → w.valid1 = false ∧ w.valid0 = x.valid0))) ∧
    (∀ row sp, (row, sp) ∈ [(Instr.tstBist c, specTstBist), (.tstMarch c, specTstMarch), (.tstDramSweep c, specTstDramSweep),
        (.tstDramFreq c, specTstDramFreq)] → s.Ready sp c → (s.effect sp c).status = sOk →
      Goes row s fun t =>
        (t.leaf l).boot.tests.map Test.cmd = (s.leaf l).boot.tests.map Test.cmd ++ [taken sp s c] ∧
        (∃ q, (t.leaf l).boot.tests.getLast? = some q ∧ q.op = sp.op ∧ q.fn = c.fn ∧ q.field = false ∧
          (sp.op = 0x0F02 → u8 b 0 = 0 → u8 b 1 = 0 →
            q.owners = (marchBanks c).map (fun k => (k, ((s.leaf l).ecc.bank k).owner)) ∧
            ∀ k ∈ marchBanks c, ((t.leaf l).ecc.bank k).owner = 2)) ∧
        (t.leaf l.other).boot = (s.leaf l.other).boot ∧ (∀ k, (t.leaf k).scene = (s.leaf k).scene) ∧
        (s.standbyUp l = true → (t.red.of l).claim = 0) ∧
        (sp.op = 0x0F04 → (s.leaf l).testing = false → (t.leaf l).clk.dram.gated = true) ∧
        (sp.op ≠ 0x0F04 → (t.leaf l).clk = (s.leaf l).clk)) ∧
    (s.Ready specDiagConfig c → Goes (.diagConfig c) s fun t =>
      ∀ k, k ∈ (if c.fn = .f2 then [targetLeaf c] else (s.servers c.fn).map Prod.fst) →
        (t.leaf k).ecc = { (s.leaf k).ecc with mode := u8 b 0 } ∧ (t.leaf k).sched.mask = (BitVec.ofNat 32 (u32 b 4) ||| 0x2000) ∧
        (t.leaf k).scene = (s.leaf k).scene) ∧
    (s.Ready specDiagRepair c → (s.effect specDiagRepair c).status = sOk → Goes (.diagRepair c) s fun t =>
      (t.leaf l).ecc.table = mapIf (fun h => h.same (u8 b 0) (u16 b 2) (u8 b 1)) (fun h => { h with repair := 2 }) (s.leaf l).ecc.table ∧
      (t.leaf l).boot.tests = (s.leaf l).boot.tests ++ [{ op := 0x0F06, cmd := taken specDiagRepair s c, fn := c.fn, field := true }] ∧
      (t.leaf l).ecc.words = (s.leaf l).ecc.words) ∧
    (s.Ready specDiagTraceRead c → s.Channel c.fn → Goes (.diagTraceRead c) s fun t =>
      let rs := (((s.takes specDiagTraceRead c).leaf l).sched.from_ (u32 b 0)).take (u32 b 4)
      ∃ j, (t.fn c.fn).mail.dma = (s.fn c.fn).mail.dma ++ [j] ∧ j.toHost = true ∧ j.out = rs.flatMap Trace.bytes ∧ j.detail = rs.length) ∧
    (s.Ready specDiagMemQuery c → s.Open c.fn → Goes (.diagMemQuery c) s fun t =>
      let e := (s.leaf l).ecc
      let r := t.reply c 32
      (t.leaf l).ecc = e ∧ u8 r 0 = e.table.length % 256 ∧ u8 r 1 = (e.table.filter EccHit.weak).length % 256 ∧
      u16 r 2 = e.field.length % 65536 ∧ u32 r 8 = e.corrAshlar % 4294967296 ∧ u32 r 16 = e.corrDram % 4294967296 ∧
      u32 r 20 = e.uncorr % 4294967296 ∧ u32 r 24 = e.overflow % 4294967296 ∧ u32 r 28 = e.decerr % 4294967296)

/-- Power, resets and the boot (R16, R28, R41, R45, R482 to R486, R489, R490, R513). -/
def Obligations.PowerSteps : Prop :=
  ∀ s : State,
    let wiped : State → Prop := fun t => t.red = {} ∧ t.cop = copReset ∧ t.plinth = s.plinth ∧
      (∀ l, (t.leaf l).run = 0 ∧ (t.leaf l).pwr = (s.leaf l).pwr ∧ (t.leaf l).clk = {} ∧ (t.leaf l).guest = none ∧
        (t.leaf l).boot.valid0 = (s.leaf l).boot.valid0 ∧ (t.leaf l).ecc.field = (s.leaf l).ecc.field) ∧
      ∀ f, (t.fn f).capsDone = false ∧ (t.fn f).mail.bme = (s.fn f).mail.bme
    (s.plinth.supply = true → exec .supplyGood s = .next s) ∧
    (s.plinth.supply = false → Goes .supplyGood s fun t => t.plinth.supply = true ∧ t.plinth.link = true ∧ t.plinth.enabled = true ∧
      t.plinth.copingPg = s.variant.hasCoping ∧ t.la = { s.la with pwr := 2 } ∧
      t.lb = (if s.variant.hasB then { s.lb with pwr := 2 } else s.lb)) ∧
    (Goes .supplyFail s fun t => t.variant = s.variant ∧ t.red = State.reset.red ∧ t.cop = State.reset.cop ∧
      t.plinth.supply = false ∧ t.pending = s.pending ∧ t.outbox = s.outbox ∧ (∀ f, t.fn f = State.reset.fn f) ∧
      ∀ l, (t.leaf l).pwr = 0 ∧ (t.leaf l).run = 0 ∧ (t.leaf l).clk = {} ∧ (t.leaf l).boot.valid0 = (s.leaf l).boot.valid0 ∧
        (t.leaf l).boot.ver0 = (s.leaf l).boot.ver0 ∧ (t.leaf l).ecc.fuse = (s.leaf l).ecc.fuse ∧
        (t.leaf l).ecc.field = (s.leaf l).ecc.field) ∧
    (s.plinth.supply = false → exec .plinthOvertemp s = .next s) ∧ (s.plinth.supply = true → Goes .plinthOvertemp s wiped) ∧
    (∀ v, s.reachable .f2 = false → exec (.modResetModule v) s = .next s ∧ exec (.modResetLeaf v) s = .next s ∧
      exec (.modResetCoping v) s = .next s) ∧
    (∀ v, s.reachable .f2 = true →
      let bad : BitVec 32 → Prop := fun w => bits w.toNat 31 16 ≠ 0xA5C3 ∨ bits w.toNat 15 4 ≠ 0
      let refused : State → Prop := fun t => t.red = s.red ∧ t.cop = s.cop ∧ (∀ l, t.leaf l = s.leaf l) ∧ bit t.f2.dbErr.toNat 3 = true
      (bad (v ||| 1) → Goes (.modResetModule v) s refused) ∧ (¬bad (v ||| 1) → Goes (.modResetModule v) s wiped) ∧
      (bad v → Goes (.modResetLeaf v) s refused) ∧
      (¬bad v → bit v.toNat 0 = false → Goes (.modResetLeaf v) s fun t =>
        (bit v.toNat 1 = true → (t.leaf .a).run = 0 ∧ (t.leaf .a).clk = {}) ∧
        (bit v.toNat 2 = true → s.variant.hasB = true → (t.leaf .b).run = 0) ∧
        (bit v.toNat 1 = false → (bit v.toNat 2 = false ∨ s.variant.hasB = false) → (∀ l, t.leaf l = s.leaf l) ∧ t.red = s.red)) ∧
      (bad (v ||| 8) → Goes (.modResetCoping v) s refused) ∧
      (¬bad (v ||| 8) → bit v.toNat 0 = false → s.variant.hasCoping = true → Goes (.modResetCoping v) s fun t => t.cop = copReset)) ∧
    ∀ l : LeafId,
      let x := s.leaf l
      (∀ cause, ((l = .b ∧ s.variant.hasB = false) ∨ x.pwr = 0 ∨ 2 < cause) → exec (.leafRailFault l cause) s = .next s) ∧
      (∀ cause, ¬((l = .b ∧ s.variant.hasB = false) ∨ x.pwr = 0 ∨ 2 < cause) → Goes (.leafRailFault l cause) s fun t =>
        (t.leaf l).pwr = 3 ∧ (t.leaf l).run = 0 ∧ (t.leaf l).clk = {} ∧ t.red.tieUp = false ∧
        (s.alive l = true → (t.red.of l).claim = 0) ∧ (t.leaf l.other).run = (s.leaf l.other).run) ∧
      ((x.pwr ≠ 2 ∨ x.run ≠ 0) → exec (.leafResetRelease l) s = .next s) ∧
      (x.pwr = 2 → x.run = 0 → Goes (.leafResetRelease l) s fun t => (t.leaf l).run = 1 ∧ (t.leaf l).clk = x.clk ∧
        (t.leaf l).boot.src = x.boot.strapSrc ∧ (t.leaf l).boot.waitHost = x.boot.strapSrc ∧
        (t.leaf l).boot.test = min 2 x.boot.strapTest ∧ t.leaf l.other = s.leaf l.other) ∧
      (∀ ms fails, (x.run ≠ 1 ∨ x.boot.waitHost = true) → exec (.bootReady l ms fails) s = .next s) ∧
      (∀ ms fails, x.run = 1 → x.boot.waitHost = false → x.boot.src = false → x.boot.choose = none →
        Goes (.bootReady l ms fails) s fun t => (t.leaf l).run = 3) ∧
      (∀ ms slot, x.run = 1 → x.boot.waitHost = false → (if x.boot.src then some 255 else x.boot.choose) = some slot →
        Goes (.bootReady l ms []) s fun t => let y := t.leaf l
          y.run = 2 ∧ y.wasReady = true ∧ y.boot.slot = slot ∧ y.boot.ms = ms ∧ y.scene = x.scene ∧
          y.clk.core.locked = true ∧ y.clk.core.gated = false ∧ y.clk.dram.locked = true ∧ y.clk.audio = x.clk.audio ∧
          y.clk.serdes0.locked = true ∧ y.clk.serdes1.locked = true ∧ y.clk.tie.locked = true ∧ y.dramc.test = false ∧
          y.dramc.lanes = (List.range 16).map fun i => LaneDelay.mk (factoryDelay false i 0) (factoryDelay false i 1) (factoryDelay false i 2)) ∧
      (∀ step cause, (x.run ≠ 1 ∨ 9 < step ∨ 6 < cause) → exec (.sysBootFail l step cause) s = .next s) ∧
      (∀ step cause, x.run = 1 → step ≤ 9 → cause ≤ 6 → Goes (.sysBootFail l step cause) s fun t =>
        (t.leaf l).run = 3 ∧ (t.leaf l).boot.tests = [] ∧ (t.leaf l).boot.load = none ∧ t.red = s.red)

/-- The ends of tests and updates (R441, R469, R487, R492, R493, R495). -/
def Obligations.TestSteps : Prop :=
  ∀ (l : LeafId) (s : State),
    let x := s.leaf l
    let first := x.boot.tests.find? fun t => !t.field
    (∀ res, first = none → exec (.testComplete l res) s = .next s) ∧
    (∀ res k, first = some k → Goes (.testComplete l res) s fun t => let y := t.leaf l
      y.boot = { x.boot with tests := x.boot.tests.filter fun q => !(q.op == k.op && q.cmd.acc == k.cmd.acc && q.fn == k.fn) } ∧
      y.run = x.run ∧ t.red = s.red ∧ (t.leaf l.other).scene = (s.leaf l.other).scene ∧
      (k.op = 0x0F04 → y.dramc.test = (u8 k.cmd.body 0 == 1) ∧
        y.dramc.lanes = (List.range 16).map (fun i =>
          LaneDelay.mk (factoryDelay y.dramc.test i 0) (factoryDelay y.dramc.test i 1) (factoryDelay y.dramc.test i 2)) ∧
        y.clk.dram.locked = true ∧ y.clk.dram.gated = false ∧ y.scene = x.scene) ∧
      (k.op = 0x0F02 → u8 k.cmd.body 1 = 0 → y.scene = x.scene ∧ y.ecc.words = x.ecc.words ∧ y.clk = x.clk) ∧
      (k.op = 0x0F03 → y.scene = x.scene ∧ y.ecc = x.ecc ∧ y.clk.core = x.clk.core)) ∧
    ((x.boot.update = none ∨ ∃ u, x.boot.update = some u ∧ u.data = []) → exec (.fwSlotVerified l) s = .next s) ∧
    ∀ u, x.boot.update = some u → u.data ≠ [] → Goes (.fwSlotVerified l) s fun t =>
      let w := (t.leaf l).boot
      let k := x.boot.spareSlot
      w.update = none ∧ w.slot = x.boot.slot ∧ (t.leaf l).clk = x.clk ∧
      (imageOk x.boot.secMin u.data = false → w = { x.boot with update := none }) ∧
      (imageOk x.boot.secMin u.data = true →
        (k = 0 → w.valid0 = true ∧ w.ver0 = Config.imageVersion u.data ∧ w.valid1 = x.boot.valid1) ∧
        (k ≠ 0 → w.valid1 = true ∧ w.ver1 = Config.imageVersion u.data ∧ w.valid0 = x.boot.valid0) ∧
        w.pref = (if bit (u8 u.cmd.body 0) 1 then k else x.boot.pref) ∧
        w.secMin = (if bit (u8 u.cmd.body 0) 0 then max x.boot.secMin x.boot.runVer else x.boot.secMin))

/-- The steps of error correction (R442 to R449). -/
def Obligations.EccSteps : Prop :=
  ∀ (l : LeafId) (s : State),
    let x := s.leaf l
    let e := x.ecc
    (∀ bank row slot pos,
      (56 ≤ bank → Goes (.eccCorrection l bank row slot pos) s fun t =>
        (t.leaf l).ecc = { e with corrDram := min 4294967295 (e.corrDram + 1) }) ∧
      (48 ≤ bank → bank < 56 → Goes (.eccCorrection l bank row slot pos) s fun t =>
        tget (t.leaf l).ecc.corrProgram (bank - 48) 0 = tget e.corrProgram (bank - 48) 0 + 1 ∧ (t.leaf l).ecc.table = e.table) ∧
      (bank < 48 → (4096 ≤ row ∨ 64 ≤ slot) → exec (.eccCorrection l bank row slot pos) s = .next s) ∧
      (bank < 48 → row < 4096 → slot < 64 → Goes (.eccCorrection l bank row slot pos) s fun t =>
        let w := (t.leaf l).ecc
        let here := e.table.find? fun h => h.same bank row slot
        w.corrAshlar = min 4294967295 (e.corrAshlar + 1) ∧ w.words = e.words ∧ (t.leaf l).scene = x.scene ∧
        (here = none → e.table.length < 16 → w.table = e.table ++ [{ bank := bank, row := row, slot := slot, pos := pos, scrub := true, at_ := x.now }]) ∧
        (∀ h, here = some h → h.rewritten = false →
          w.table = mapIf (fun q => q.same bank row slot) (fun _ => { h with reads := h.reads + 1 }) e.table) ∧
        (∀ h, here = some h → h.rewritten = true → h.hits ≠ 15 →
          w.table = mapIf (fun q => q.same bank row slot) (fun _ =>
            { h with hits := h.hits + 1, rewritten := false, pos := pos, scrub := true, at_ := x.now }) e.table) ∧
        (∀ h, here = some h → h.rewritten = true → h.hits = 15 →
          ∀ q ∈ w.table, q.same bank row slot = true → q.hits = 16 ∧ (h.weak = false → q.weak = true)))) ∧
    (Goes (.eccScrub l) s fun t => (t.leaf l).ecc.words = e.words ∧ (t.leaf l).ecc.table =
      mapIf (fun h => h.scrub) (fun h => { h with scrub := false, rewritten := true }) e.table) ∧
    (∀ i, (∀ h, e.table[i]? = some h → h.hits ≠ 1 ∨ h.weak = true ∨ x.now < h.at_ + 60000000000) →
      exec (.repeatEntryExpire l i) s = .next s) ∧
    (∀ i h, e.table[i]? = some h → h.hits = 1 → h.weak = false → h.at_ + 60000000000 ≤ x.now →
      Goes (.repeatEntryExpire l i) s fun t => (t.leaf l).ecc = { e with table := e.table.eraseIdx i }) ∧
    (let due := e.table.find? fun h => h.weak && decide (h.repair ≠ 0);
      (due = none → exec (.fieldRepairWrite l) s = .next s) ∧
      ∀ h, due = some h → Goes (.fieldRepairWrite l) s fun t =>
        let w := (t.leaf l).ecc
        (∀ r, e.field.length < 256 → e.chooseSpare h = some r → w.field = e.field ++ [r]) ∧
        ((256 ≤ e.field.length ∨ e.chooseSpare h = none) → w.field = e.field) ∧ w.words = e.words ∧
        ∀ q ∈ w.table, q.same h.bank h.row h.slot = true → q.repair = 0) ∧
    (∀ access course bank row slot feeds again,
      ((6 ≤ access ∨ access = 1 ∧ 8 ≤ course) → exec (.eccUncorrectable l access course bank row slot feeds again) s = .next s) ∧
      (access ≤ 5 → (access = 1 → course < 8) → Goes (.eccUncorrectable l access course bank row slot feeds again) s fun t =>
        let y := t.leaf l
        let f := s.fnOf l
        y.ecc.uncorr = min 4294967295 (e.uncorr + 1) ∧ y.ecc.words = e.words ∧ y.clk = x.clk ∧
        (access = 0 → y.ecc.flag = true ∧ y.ecc.poison = e.poison ++ [{ bank := bank, row := row, slot := slot, feeds := feeds }]) ∧
        (access = 1 → course ∈ y.ecc.halted ∧ y.ecc.flag = true ∧
          ∀ k ∈ courseFeeds x.clk.dom.rate course, (y.scene.feed k).run.mute = Ramp.rest 0 ∧ (y.scene.feed k).run.out = 0) ∧
        (access = 2 → y.stopped = (x.stopped || again)) ∧
        (access = 3 → (t.fn f).mail.accepted = (s.fn f).mail.accepted.tail) ∧ (access = 4 → (t.fn f).mail.halted = true))) ∧
    (∀ bank row slot hard,
      let here : PoisonWord → Bool := fun w => w.bank == bank && w.row == row && w.slot == slot
      (e.poison.any here = false → exec (.eccOperandRewrite l bank row slot hard) s = .next s) ∧
      (e.poison.any here = true → hard = false → Goes (.eccOperandRewrite l bank row slot hard) s fun t =>
        (t.leaf l).ecc = { e with poison := e.poison.filter fun w => !here w }) ∧
      (e.poison.any here = true → hard = true → Goes (.eccOperandRewrite l bank row slot hard) s fun t =>
        (t.leaf l).ecc.poison = mapIf here (fun w => { w with hard := true }) e.poison ∧ (t.leaf l).ecc.words = e.words)) ∧
    ∀ course,
      (e.halted.contains course = false → exec (.courseRestart l course) s = .next s) ∧
      (e.halted.contains course = true → Goes (.courseRestart l course) s fun t =>
        let y := t.leaf l
        course ∉ y.ecc.halted ∧ (∀ k, k ≠ course → (k ∈ y.ecc.halted ↔ k ∈ e.halted)) ∧
        ∀ k ∈ courseFeeds x.clk.dom.rate course, (y.scene.feed k).run.mute = { start := 0, target := 1, first := x.next, len := 32 })

/-- Handovers, alias writes, merge entries and the bus (R433 to R440, R453). -/
def Obligations.BankSteps : Prop :=
  ∀ (l : LeafId) (s : State),
    let e := (s.leaf l).ecc
    let kept : Nat → State → Prop := fun key t => ∀ k, k ≠ key → tget (t.leaf l).ecc.words k 0 = tget e.words k 0
    (∀ bank owner, (48 ≤ bank ∨ 3 ≤ owner) → exec (.bankHandover l bank owner) s = .next s) ∧
    (∀ bank owner, bank < 48 → owner < 3 → Goes (.bankHandover l bank owner) s fun t =>
      let w := (t.leaf l).ecc
      (w.bank bank).owner = owner ∧ (w.bank bank).merge = [] ∧ (∀ k, k ≠ bank → w.bank k = e.bank k) ∧
      ((e.bank bank).merge = [] → w.words = e.words) ∧
      (∀ m, (e.bank bank).merge = [m] → m.row < 4096 → m.slot < 64 →
        w.word bank m.row m.slot = strobed (e.word bank m.row m.slot) m.data m.strobes ∧ kept (wordKey bank m.row m.slot) t)) ∧
    (∀ bank row slot set strobes mask bad, wordOk bank row slot = false →
      exec (.aliasWrite l bank row slot set strobes mask bad) s = .next s) ∧
    (∀ bank row slot set strobes mask bad, wordOk bank row slot = true → (∀ m ∈ (e.bank bank).merge, m.at_ row slot = false) →
      Goes (.aliasWrite l bank row slot set strobes mask bad) s fun t =>
        let w := (t.leaf l).ecc
        let old := e.word bank row slot
        let m := mask &&& strobeMask strobes
        kept (wordKey bank row slot) t ∧ (∀ k, w.bank k = e.bank k) ∧
        (bad = true → w.words = e.words ∧ w.uncorr = min 4294967295 (e.uncorr + 1)) ∧
        (bad = false → set = true → w.word bank row slot = old ||| m) ∧
        (bad = false → set = false → w.word bank row slot = old &&& ~~~m)) ∧
    (∀ bank i writes bad, 48 ≤ bank → exec (.mergeEntryFlush l bank i writes bad) s = .next s) ∧
    (∀ bank i bad, (e.bank bank).merge[i]? = none → exec (.mergeEntryFlush l bank i [] bad) s = .next s) ∧
    (∀ bank i m bad, bank < 48 → (e.bank bank).merge[i]? = some m → ((e.bank bank).merge.filter fun q => q.at_ m.row m.slot) = [m] →
      Goes (.mergeEntryFlush l bank i [] bad) s fun t =>
        let w := (t.leaf l).ecc
        (bad = true → m.strobes ≠ 255 → w.words = e.words ∧ (w.bank bank).merge = (e.bank bank).merge.eraseIdx i ∧
          w.uncorr = min 4294967295 (e.uncorr + 1)) ∧
        ((bad = false ∨ m.strobes = 255) →
          w.word bank m.row m.slot = strobed (e.word bank m.row m.slot) m.data m.strobes ∧ kept (wordKey bank m.row m.slot) t ∧
          (w.bank bank).merge = (e.bank bank).merge.filter fun q => !q.at_ m.row m.slot)) ∧
    (∀ bank i w bad, (e.bank bank).merge = [] → wordOk bank w.row w.slot = true → w.owner = false → w.strobes = 255 →
      Goes (.mergeEntryFlush l bank i [w] bad) s fun t =>
        (t.leaf l).ecc.word bank w.row w.slot = w.data ∧ kept (wordKey bank w.row w.slot) t ∧ ((t.leaf l).ecc.bank bank).merge = []) ∧
    ∀ master unit addr, Goes (.busDecerr l master unit addr) s fun t =>
      (t.leaf l).ecc.decerr = min 4294967295 (e.decerr + 1) ∧ (t.leaf l).ecc.words = e.words ∧
      (master = 5 → (t.fn (s.fnOf l)).mail.halted = true) ∧
      (master = 4 → (t.fn (s.fnOf l)).mail.accepted = (s.fn (s.fnOf l)).mail.accepted.tail)

/-- The steps of the DRAM controller (R459 to R465, R470). -/
def Obligations.DramSteps : Prop :=
  ∀ (l : LeafId) (ch : Nat) (s : State),
    let x := s.leaf l
    let d := x.dch ch
    let only : State → DramCh → Prop := fun t w => (t.leaf l).dch ch = w ∧ (∀ k, k ≠ ch → (t.leaf l).dch k = x.dch k) ∧
      (t.leaf l).scene = x.scene ∧ (t.leaf l).ecc = x.ecc
    (8 ≤ ch → (∀ busy, exec (.dramRefresh l ch busy) s = .next s) ∧ (∀ m a b, exec (.dramTempPoll l ch m a b) s = .next s) ∧
      (∀ reqs n, exec (.dramWriteDrain l ch reqs n) s = .next s) ∧ (∀ b r m u, exec (.dramThrottle l ch b r m u) s = .next s) ∧
      exec (.dramActivateWindowEnd l ch) s = .next s) ∧
    (ch < 8 →
      (d.urgent = false → Goes (.dramRefresh l ch false) s fun t => only t { d with issued := d.issued + 1 + d.postponed, postponed := 0 }) ∧
      (∀ busy, (busy = true ∨ d.urgent = true) → Goes (.dramRefresh l ch busy) s fun t =>
        only t (if d.postponed < 8 then { d with postponed := d.postponed + 1 } else { d with issued := d.issued + 1 })) ∧
      (∀ mr4 beyond, Goes (.dramTempPoll l ch mr4 true beyond) s fun t => only t (if d.doubled then { d with mr4 := mr4 % 256, run := 0 }
        else { d with mr4 := mr4 % 256, run := 0, doubled := true, issued := d.issued + d.postponed, postponed := 0 })) ∧
      (∀ mr4 beyond, Goes (.dramTempPoll l ch mr4 false beyond) s fun t => only t
        { d with mr4 := mr4 % 256, run := min 16 (d.run + 1), doubled := d.doubled && decide (d.run < 15) }) ∧
      (d.held = [] → d.writes < 24 → Goes (.dramWriteDrain l ch [] (some 0)) s fun t => only t d) ∧
      (∀ r : DramReq, r.bank < 16 → d.held = [] → d.writes < 23 → Goes (.dramWriteDrain l ch [r] (some 0)) s fun t =>
        let q := d.queue r.bank
        let mine : DramReq → Bool := fun w => !r.write && w.write && sameBurst w r
        (8 ≤ q.length → only t { d with held := [r] }) ∧
        (q.length < 8 → only t (d.setQueue r.bank (q.filter mine ++ (q.filter fun w => !mine w) ++ [r])))) ∧
      (d.held = [] → (d.queues.map Prod.fst).Pairwise (· < ·) → (∀ k ∈ d.queues, k.1 < 16) →
        Goes (.dramWriteDrain l ch [] none) s fun t => let w := (t.leaf l).dch ch
          w.writes = 0 ∧ w.held = [] ∧ (∀ b, w.queue b = (d.queue b).filter fun r => !r.write) ∧
          w.issued = d.issued ∧ w.postponed = d.postponed ∧ w.throttled = d.throttled ∧
          (∀ k, k ≠ ch → (t.leaf l).dch k = x.dch k) ∧ (t.leaf l).scene = x.scene) ∧
      (∀ b i drain, readWaits (d.queue b) i = true → d.serveNext b drain ≠ some i) ∧
      (∀ b i drain, wanted (d.queue b) i = true → ∃ j, d.serveNext b drain = some j ∧ wanted (d.queue b) j = true) ∧
      (∀ bank row master unit, 16 ≤ bank → exec (.dramThrottle l ch bank row master unit) s = .next s) ∧
      (∀ bank row master unit, bank < 16 → Goes (.dramThrottle l ch bank row master unit) s fun t =>
        let k : Throttle := { bank := bank, row := row, cls := master, unit := unit }
        only t { d with throttled := if k ∈ d.throttled then d.throttled else d.throttled ++ [k] }) ∧
      (Goes (.dramActivateWindowEnd l ch) s fun t => only t { d with throttled := [] })) ∧
    ∀ master unit addr users, Goes (.dramEcc l master unit ch addr users) s fun t =>
      let y := t.leaf l
      y.ecc.uncorr = min 4294967295 (x.ecc.uncorr + 1) ∧ y.ecc.words = x.ecc.words ∧ y.clk = x.clk ∧ (∀ k, y.dch k = x.dch k) ∧
      (master = 0 → y.ecc.once = users.map Prod.fst ++ x.ecc.once ∧ y.ecc.flag = true) ∧
      (master = 2 → y.ecc.quietOsc = (users.filter fun u => decide (u.1 < 65536)) ++ x.ecc.quietOsc) ∧
      (master ≠ 0 → master ≠ 2 → y.ecc.once = x.ecc.once ∧ y.ecc.quietOsc = x.ecc.quietOsc) ∧
      (master = 4 → (t.fn (s.fnOf l)).mail.accepted = (s.fn (s.fnOf l)).mail.accepted.tail) ∧
      (master = 5 → (t.fn (s.fnOf l)).mail.halted = true)

/-- The steps of the hardware scheduler (R472 to R481). -/
def Obligations.SchedulerSteps : Prop :=
  ∀ (l : LeafId) (s : State),
    let x := s.leaf l
    let q := x.sched
    let alone : State → Prop := fun t => (t.leaf l).scene = x.scene ∧ (t.leaf l).clk = x.clk ∧ (t.leaf l).ecc = x.ecc ∧
      t.leaf l.other = s.leaf l.other
    (∀ k prio only cancelled,
      ((256 ≤ k ∨ 32 ≤ prio ∨ (q.thread k).state = 1 ∨ (q.thread k).state = 2) →
        exec (.threadReady l k prio only cancelled []) s = .next s) ∧
      (k < 256 → prio < 32 → (q.thread k).state ≠ 1 → (q.thread k).state ≠ 2 →
        Goes (.threadReady l k prio only cancelled []) s fun t => alone t ∧
          (cancelled = true → (t.leaf l).sched.thread k = thread0 ∧ (t.leaf l).sched.ready = q.ready) ∧
          (cancelled = false → ((t.leaf l).sched.thread k).state = 1 ∨ ((t.leaf l).sched.thread k).state = 2))) ∧
    (∀ core,
      let other : Option Nat := (q.core core).run.bind fun k => (q.list (q.thread k).prio).find? fun u => q.mayRun u core
      (other = none → exec (.timesliceExpire l core) s = .next s) ∧
      (∀ u, other = some u → Goes (.timesliceExpire l core) s fun t => alone t ∧ ((t.leaf l).sched.core core).run = some u)) ∧
    (Goes (.delayTick l []) s fun t => alone t ∧ (t.leaf l).sched.tick = q.tick + 1 ∧
      ((∀ p ∈ q.threads, p.2.state = 4 → q.tick + 1 < p.2.wake) → (t.leaf l).sched = { q with tick := q.tick + 1 })) ∧
    (∀ k word hw, 128 ≤ k → exec (.eventPost l k word hw []) s = .next s) ∧
    (∀ k word hw, k < 128 → Goes (.eventPost l k word hw []) s fun t =>
      let blocked := q.threads.find? fun p => p.2.state == 3 && p.2.queue == k
      let w := (t.leaf l).sched.que k
      alone t ∧ (∀ j, j ≠ k → (t.leaf l).sched.que j = q.que j) ∧
      (∀ p, blocked = some p → w = q.que k ∧
        (((t.leaf l).sched.thread p.1).state = 1 ∨ ((t.leaf l).sched.thread p.1).state = 2)) ∧
      (blocked = none → (q.que k).entries.length < 64 → w = { q.que k with entries := (q.que k).entries ++ [word] }) ∧
      (blocked = none → 64 ≤ (q.que k).entries.length → hw = true → w = { q.que k with held := (q.que k).held ++ [word] }) ∧
      (blocked = none → 64 ≤ (q.que k).entries.length → hw = false → w = { q.que k with refused := (q.que k).refused + 1 })) ∧
    ∀ k,
      ((q.que k).refused = 0 → exec (.schedQueueFull l k) s = .next s) ∧
      ((q.que k).refused ≠ 0 → Goes (.schedQueueFull l k) s fun t => alone t ∧ (t.leaf l).sched.que k = { q.que k with refused := 0 } ∧
        ∀ j, j ≠ k → (t.leaf l).sched.que j = q.que j)

/-- The render tick (R89, R94, R95, R272, R391, R412, R413). -/
def Obligations.MeridianSteps : Prop :=
  ∀ (l : LeafId) (s : State) (overruns : List (Nat × Nat)) (residues : List (Nat × Nat × Nat)),
    let x := s.leaf l
    (s.renders l = false → exec (.meridian l overruns residues) s = .next s) ∧
    (∀ r, x.clk.restart = some r → r.silent = true → r.joint = false → exec (.meridian l overruns residues) s = .next s) ∧
    (s.renders l = true → x.clk.restart = none → Goes (.meridian l overruns residues) s fun t =>
      let y := t.leaf l
      y.clk.dom.sample = x.next ∧ y.clk.dom.count = x.clk.dom.nextCount ∧ y.cop.sample = x.next ∧ y.cop.held = false ∧
      y.ecc.once = [] ∧ y.ecc.quietOsc = [] ∧ y.ecc.quietClip = [] ∧ y.ecc.flag = false ∧
      (t.red.mode = 1 → ∃ m, (t.red.of l).own = some m ∧ (t.red.of l).sent = some m ∧ m.sample = x.next))

/-- What the steps of a leaf's units leave alone (R14, R16). -/
def Obligations.StepFrames : Prop :=
  ∀ (l : LeafId) (a b k j m : Nat) (q w : Int) (up on : Bool) (page : List Byte) (acts : List SchedAct) (ws : List NarrowWrite)
    (strobes : BitVec 8) (mask : BitVec 64) (reqs : List DramReq),
    ∀ e ∈ renderSteps l a b k q w up page ++ memorySteps l a b k j m up on acts ws strobes mask reqs,
      ∀ s t : State, s.twin = false → exec e.1 s = .next t →
        (s.leaf l).sameBut e.2 (t.leaf l) ∧ (s.leaf l.other).sameBut [] (t.leaf l.other) ∧ s.SameModule t

/-- What the steps of the coping and of the pair leave alone (R16, R17, R20, R21). -/
def Obligations.PairFrames : Prop :=
  ∀ (l : LeafId) (k ohms : Nat) (dc rms : Int) (flag : Bool) (s t : State),
    (∀ i ∈ [Instr.copingLoadStrobe, .copSlewUpdate k, .copSpanFadeEnd k, .copStrobeLoss, .copMonitorWindow k dc rms ohms flag,
        .copingRailFault, .copingResetRelease, .copingFoldBack flag], exec i s = .next t →
      t.variant = s.variant ∧ t.red = s.red ∧ (∀ x, t.leaf x = s.leaf x) ∧ ∀ f, (t.fn f).mail.win = (s.fn f).mail.win) ∧
    (∀ i ∈ [Instr.claimGrant l, .heartbeatRx l, .tieLinkUp, .checkpointSend l, .journalEntry l], exec i s = .next t →
      t.variant = s.variant ∧ t.cop = s.cop ∧ t.plinth = s.plinth ∧ (∀ x, t.leaf x = s.leaf x) ∧
        ∀ f, (t.fn f).mail.win = (s.fn f).mail.win)

/-- What the mailbox commands of the scene groups leave alone (R16, R33, R36, R46 to R50, R83). -/
def Obligations.MailboxFrames : Prop :=
  ∀ r ∈ mailRows, ∀ ps, r.1.parts = some ps → ∀ (s t : State) (c : Cmd) (p : LeafId × Bool),
    s.Served r.1 c p → exec (r.2 c) s = .next t →
      (s.seen p).sameBut ps (t.seen p) ∧
      (∀ l, l ∉ (s.servers c.fn).map Prod.fst → (s.leaf l).sameBut [] (t.leaf l)) ∧
      t.variant = s.variant ∧ t.cop = s.cop ∧ t.plinth = s.plinth ∧ t.red.mode = s.red.mode ∧
      (∀ l, (t.red.of l).claim = (s.red.of l).claim) ∧
      ∀ f a, (f = c.fn → a < c.slot % 32 * 512 ∨ c.slot % 32 * 512 + 512 ≤ a) →
        mget winDefault (t.fn f).mail.win a = mget winDefault (s.fn f).mail.win a
end

