-- ==== Sys2Proof/Laws/State.lean ====
section
/-! SUPPORT. The small lemmas of `State` and its named updates: what each update leaves as it was and what
it puts in place. -/

namespace Sys2Proof.Machine

/-! The parts and their updates. -/

@[simp] theorem State.fn_setFn_same (s : State) (f : FnId) (x : Fn) : (s.setFn f x).fn f = x := by cases f <;> rfl

theorem State.fn_setFn_ne (s : State) (f g : FnId) (x : Fn) (h : g ≠ f) : (s.setFn f x).fn g = s.fn g := by
  cases f <;> cases g <;> first | rfl | exact absurd rfl h

@[simp] theorem State.leaf_setLeaf_same (s : State) (l : LeafId) (x : Leaf) : (s.setLeaf l x).leaf l = x := by
  cases l <;> rfl

@[simp] theorem State.leaf_setLeaf_other (s : State) (l : LeafId) (x : Leaf) :
    (s.setLeaf l x).leaf l.other = s.leaf l.other := by cases l <;> rfl

@[simp] theorem State.leaf_other_setLeaf (s : State) (l : LeafId) (x : Leaf) :
    (s.setLeaf l.other x).leaf l = s.leaf l := by cases l <;> rfl

@[simp] theorem LeafId.other_other (l : LeafId) : l.other.other = l := by cases l <;> rfl

theorem LeafId.other_ne (l : LeafId) : l.other ≠ l := by cases l <;> decide

@[simp] theorem Red.of_set_same (r : Red) (l : LeafId) (x : RedLeaf) : (r.set l x).of l = x := by cases l <;> rfl

@[simp] theorem Red.of_set_other (r : Red) (l : LeafId) (x : RedLeaf) : (r.set l x).of l.other = r.of l.other := by
  cases l <;> rfl

@[simp] theorem State.leaf_modLeaf_same (s : State) (l : LeafId) (g : Leaf → Leaf) :
    (s.modLeaf l g).leaf l = g (s.leaf l) := by simp [State.modLeaf]

@[simp] theorem State.leaf_modLeaf_other (s : State) (l : LeafId) (g : Leaf → Leaf) :
    (s.modLeaf l g).leaf l.other = s.leaf l.other := by simp [State.modLeaf]

@[simp] theorem State.fn_modFn_same (s : State) (f : FnId) (g : Fn → Fn) : (s.modFn f g).fn f = g (s.fn f) := by
  simp [State.modFn]

theorem State.fn_modFn_ne (s : State) (f k : FnId) (g : Fn → Fn) (h : k ≠ f) : (s.modFn f g).fn k = s.fn k :=
  State.fn_setFn_ne s f k _ h

@[simp] theorem State.fn_modMail_same (s : State) (f : FnId) (g : Mail → Mail) :
    (s.modMail f g).fn f = { s.fn f with mail := g (s.fn f).mail } := by simp [State.modMail]

theorem State.fn_modMail_ne (s : State) (f k : FnId) (g : Mail → Mail) (h : k ≠ f) :
    (s.modMail f g).fn k = s.fn k := State.fn_modFn_ne s f k _ h

/-! `setFn`. -/

@[simp] theorem State.setFn_variant (s : State) (f : FnId) (x : Fn) : (s.setFn f x).variant = s.variant := by cases f <;> rfl
@[simp] theorem State.setFn_la (s : State) (f : FnId) (x : Fn) : (s.setFn f x).la = s.la := by cases f <;> rfl
@[simp] theorem State.setFn_lb (s : State) (f : FnId) (x : Fn) : (s.setFn f x).lb = s.lb := by cases f <;> rfl
@[simp] theorem State.setFn_red (s : State) (f : FnId) (x : Fn) : (s.setFn f x).red = s.red := by cases f <;> rfl
@[simp] theorem State.setFn_cop (s : State) (f : FnId) (x : Fn) : (s.setFn f x).cop = s.cop := by cases f <;> rfl
@[simp] theorem State.setFn_plinth (s : State) (f : FnId) (x : Fn) : (s.setFn f x).plinth = s.plinth := by cases f <;> rfl
@[simp] theorem State.setFn_outbox (s : State) (f : FnId) (x : Fn) : (s.setFn f x).outbox = s.outbox := by cases f <;> rfl
@[simp] theorem State.setFn_freeCount (s : State) (f : FnId) (x : Fn) : (s.setFn f x).freeCount = s.freeCount := by cases f <;> rfl
@[simp] theorem State.setFn_pending (s : State) (f : FnId) (x : Fn) : (s.setFn f x).pending = s.pending := by cases f <;> rfl

/-! `modFn`. -/

@[simp] theorem State.modFn_variant (s : State) (f : FnId) (g : Fn → Fn) : (s.modFn f g).variant = s.variant := by cases f <;> rfl
@[simp] theorem State.modFn_la (s : State) (f : FnId) (g : Fn → Fn) : (s.modFn f g).la = s.la := by cases f <;> rfl
@[simp] theorem State.modFn_lb (s : State) (f : FnId) (g : Fn → Fn) : (s.modFn f g).lb = s.lb := by cases f <;> rfl
@[simp] theorem State.modFn_red (s : State) (f : FnId) (g : Fn → Fn) : (s.modFn f g).red = s.red := by cases f <;> rfl
@[simp] theorem State.modFn_cop (s : State) (f : FnId) (g : Fn → Fn) : (s.modFn f g).cop = s.cop := by cases f <;> rfl
@[simp] theorem State.modFn_plinth (s : State) (f : FnId) (g : Fn → Fn) : (s.modFn f g).plinth = s.plinth := by cases f <;> rfl
@[simp] theorem State.modFn_outbox (s : State) (f : FnId) (g : Fn → Fn) : (s.modFn f g).outbox = s.outbox := by cases f <;> rfl
@[simp] theorem State.modFn_freeCount (s : State) (f : FnId) (g : Fn → Fn) : (s.modFn f g).freeCount = s.freeCount := by cases f <;> rfl
@[simp] theorem State.modFn_pending (s : State) (f : FnId) (g : Fn → Fn) : (s.modFn f g).pending = s.pending := by cases f <;> rfl

/-! `modMail`. -/

@[simp] theorem State.modMail_variant (s : State) (f : FnId) (g : Mail → Mail) : (s.modMail f g).variant = s.variant := by cases f <;> rfl
@[simp] theorem State.modMail_la (s : State) (f : FnId) (g : Mail → Mail) : (s.modMail f g).la = s.la := by cases f <;> rfl
@[simp] theorem State.modMail_lb (s : State) (f : FnId) (g : Mail → Mail) : (s.modMail f g).lb = s.lb := by cases f <;> rfl
@[simp] theorem State.modMail_red (s : State) (f : FnId) (g : Mail → Mail) : (s.modMail f g).red = s.red := by cases f <;> rfl
@[simp] theorem State.modMail_cop (s : State) (f : FnId) (g : Mail → Mail) : (s.modMail f g).cop = s.cop := by cases f <;> rfl
@[simp] theorem State.modMail_plinth (s : State) (f : FnId) (g : Mail → Mail) : (s.modMail f g).plinth = s.plinth := by cases f <;> rfl
@[simp] theorem State.modMail_outbox (s : State) (f : FnId) (g : Mail → Mail) : (s.modMail f g).outbox = s.outbox := by cases f <;> rfl
@[simp] theorem State.modMail_freeCount (s : State) (f : FnId) (g : Mail → Mail) : (s.modMail f g).freeCount = s.freeCount := by cases f <;> rfl
@[simp] theorem State.modMail_pending (s : State) (f : FnId) (g : Mail → Mail) : (s.modMail f g).pending = s.pending := by cases f <;> rfl

/-! `setLeaf`. -/

@[simp] theorem State.setLeaf_variant (s : State) (l : LeafId) (x : Leaf) : (s.setLeaf l x).variant = s.variant := by cases l <;> rfl
@[simp] theorem State.setLeaf_f0 (s : State) (l : LeafId) (x : Leaf) : (s.setLeaf l x).f0 = s.f0 := by cases l <;> rfl
@[simp] theorem State.setLeaf_f1 (s : State) (l : LeafId) (x : Leaf) : (s.setLeaf l x).f1 = s.f1 := by cases l <;> rfl
@[simp] theorem State.setLeaf_f2 (s : State) (l : LeafId) (x : Leaf) : (s.setLeaf l x).f2 = s.f2 := by cases l <;> rfl
@[simp] theorem State.setLeaf_red (s : State) (l : LeafId) (x : Leaf) : (s.setLeaf l x).red = s.red := by cases l <;> rfl
@[simp] theorem State.setLeaf_cop (s : State) (l : LeafId) (x : Leaf) : (s.setLeaf l x).cop = s.cop := by cases l <;> rfl
@[simp] theorem State.setLeaf_plinth (s : State) (l : LeafId) (x : Leaf) : (s.setLeaf l x).plinth = s.plinth := by cases l <;> rfl
@[simp] theorem State.setLeaf_outbox (s : State) (l : LeafId) (x : Leaf) : (s.setLeaf l x).outbox = s.outbox := by cases l <;> rfl
@[simp] theorem State.setLeaf_freeCount (s : State) (l : LeafId) (x : Leaf) : (s.setLeaf l x).freeCount = s.freeCount := by cases l <;> rfl
@[simp] theorem State.setLeaf_pending (s : State) (l : LeafId) (x : Leaf) : (s.setLeaf l x).pending = s.pending := by cases l <;> rfl

/-! `modLeaf`. -/

@[simp] theorem State.modLeaf_variant (s : State) (l : LeafId) (g : Leaf → Leaf) : (s.modLeaf l g).variant = s.variant := by cases l <;> rfl
@[simp] theorem State.modLeaf_f0 (s : State) (l : LeafId) (g : Leaf → Leaf) : (s.modLeaf l g).f0 = s.f0 := by cases l <;> rfl
@[simp] theorem State.modLeaf_f1 (s : State) (l : LeafId) (g : Leaf → Leaf) : (s.modLeaf l g).f1 = s.f1 := by cases l <;> rfl
@[simp] theorem State.modLeaf_f2 (s : State) (l : LeafId) (g : Leaf → Leaf) : (s.modLeaf l g).f2 = s.f2 := by cases l <;> rfl
@[simp] theorem State.modLeaf_red (s : State) (l : LeafId) (g : Leaf → Leaf) : (s.modLeaf l g).red = s.red := by cases l <;> rfl
@[simp] theorem State.modLeaf_cop (s : State) (l : LeafId) (g : Leaf → Leaf) : (s.modLeaf l g).cop = s.cop := by cases l <;> rfl
@[simp] theorem State.modLeaf_plinth (s : State) (l : LeafId) (g : Leaf → Leaf) : (s.modLeaf l g).plinth = s.plinth := by cases l <;> rfl
@[simp] theorem State.modLeaf_outbox (s : State) (l : LeafId) (g : Leaf → Leaf) : (s.modLeaf l g).outbox = s.outbox := by cases l <;> rfl
@[simp] theorem State.modLeaf_freeCount (s : State) (l : LeafId) (g : Leaf → Leaf) : (s.modLeaf l g).freeCount = s.freeCount := by cases l <;> rfl
@[simp] theorem State.modLeaf_pending (s : State) (l : LeafId) (g : Leaf → Leaf) : (s.modLeaf l g).pending = s.pending := by cases l <;> rfl

/-! `modRed`. -/

@[simp] theorem State.modRed_variant (s : State) (l : LeafId) (g : RedLeaf → RedLeaf) : (s.modRed l g).variant = s.variant := rfl
@[simp] theorem State.modRed_f0 (s : State) (l : LeafId) (g : RedLeaf → RedLeaf) : (s.modRed l g).f0 = s.f0 := rfl
@[simp] theorem State.modRed_f1 (s : State) (l : LeafId) (g : RedLeaf → RedLeaf) : (s.modRed l g).f1 = s.f1 := rfl
@[simp] theorem State.modRed_f2 (s : State) (l : LeafId) (g : RedLeaf → RedLeaf) : (s.modRed l g).f2 = s.f2 := rfl
@[simp] theorem State.modRed_la (s : State) (l : LeafId) (g : RedLeaf → RedLeaf) : (s.modRed l g).la = s.la := rfl
@[simp] theorem State.modRed_lb (s : State) (l : LeafId) (g : RedLeaf → RedLeaf) : (s.modRed l g).lb = s.lb := rfl
@[simp] theorem State.modRed_cop (s : State) (l : LeafId) (g : RedLeaf → RedLeaf) : (s.modRed l g).cop = s.cop := rfl
@[simp] theorem State.modRed_plinth (s : State) (l : LeafId) (g : RedLeaf → RedLeaf) : (s.modRed l g).plinth = s.plinth := rfl
@[simp] theorem State.modRed_outbox (s : State) (l : LeafId) (g : RedLeaf → RedLeaf) : (s.modRed l g).outbox = s.outbox := rfl
@[simp] theorem State.modRed_freeCount (s : State) (l : LeafId) (g : RedLeaf → RedLeaf) : (s.modRed l g).freeCount = s.freeCount := rfl
@[simp] theorem State.modRed_pending (s : State) (l : LeafId) (g : RedLeaf → RedLeaf) : (s.modRed l g).pending = s.pending := rfl

/-! `send`. -/

@[simp] theorem State.send_variant (s : State) (o : Output) : (s.send o).variant = s.variant := rfl
@[simp] theorem State.send_f0 (s : State) (o : Output) : (s.send o).f0 = s.f0 := rfl
@[simp] theorem State.send_f1 (s : State) (o : Output) : (s.send o).f1 = s.f1 := rfl
@[simp] theorem State.send_f2 (s : State) (o : Output) : (s.send o).f2 = s.f2 := rfl
@[simp] theorem State.send_la (s : State) (o : Output) : (s.send o).la = s.la := rfl
@[simp] theorem State.send_lb (s : State) (o : Output) : (s.send o).lb = s.lb := rfl
@[simp] theorem State.send_red (s : State) (o : Output) : (s.send o).red = s.red := rfl
@[simp] theorem State.send_cop (s : State) (o : Output) : (s.send o).cop = s.cop := rfl
@[simp] theorem State.send_plinth (s : State) (o : Output) : (s.send o).plinth = s.plinth := rfl
@[simp] theorem State.send_freeCount (s : State) (o : Output) : (s.send o).freeCount = s.freeCount := rfl
@[simp] theorem State.send_pending (s : State) (o : Output) : (s.send o).pending = s.pending := rfl

/-! The two views of the functions and the leaves. -/

@[simp] theorem State.leaf_setFn (s : State) (f : FnId) (x : Fn) (l : LeafId) : (s.setFn f x).leaf l = s.leaf l := by
  cases f <;> cases l <;> rfl
@[simp] theorem State.leaf_modFn (s : State) (f : FnId) (x : Fn → Fn) (l : LeafId) : (s.modFn f x).leaf l = s.leaf l := by
  cases f <;> cases l <;> rfl
@[simp] theorem State.leaf_modMail (s : State) (f : FnId) (x : Mail → Mail) (l : LeafId) : (s.modMail f x).leaf l = s.leaf l := by
  cases f <;> cases l <;> rfl
@[simp] theorem State.fn_setLeaf (s : State) (l : LeafId) (x : Leaf) (f : FnId) : (s.setLeaf l x).fn f = s.fn f := by
  cases f <;> cases l <;> rfl
@[simp] theorem State.fn_modLeaf (s : State) (l : LeafId) (x : Leaf → Leaf) (f : FnId) : (s.modLeaf l x).fn f = s.fn f := by
  cases f <;> cases l <;> rfl
@[simp] theorem State.leaf_modRed (s : State) (l k : LeafId) (g : RedLeaf → RedLeaf) : (s.modRed l g).leaf k = s.leaf k := by
  cases k <;> rfl
@[simp] theorem State.fn_modRed (s : State) (l : LeafId) (f : FnId) (g : RedLeaf → RedLeaf) : (s.modRed l g).fn f = s.fn f := by
  cases f <;> rfl
@[simp] theorem State.leaf_send (s : State) (x : Output) (k : LeafId) : (s.send x).leaf k = s.leaf k := by
  cases k <;> rfl
@[simp] theorem State.fn_send (s : State) (x : Output) (f : FnId) : (s.send x).fn f = s.fn f := by
  cases f <;> rfl
@[simp] theorem Fn.setCause_mail (x : Fn) (c : Nat) : (x.setCause c).mail = x.mail := by cases x; rfl

end Sys2Proof.Machine
end

