-- ==== Sys2Proof/Laws/Alike.lean ====
section
/-! SUPPORT. What the operations on rings, interrupts, events, completions and the trace leave alone: all
of both leaves but their traces, the pair's state but its journals, the coping and the plinth. -/

namespace Sys2Proof.Machine

/-- The pair's state without its journals. -/
def Red.bare (r : Red) : Red := { r with a := { r.a with journal := [] }, b := { r.b with journal := [] } }

/-- A leaf without its scheduler and trace. -/
def Leaf.bare (x : Leaf) : Leaf := { x with sched := {} }

/-- Two states differ at most in their functions, their traces, their journals and what they have sent. -/
structure State.Alike (s t : State) : Prop where
  variant : t.variant = s.variant
  red : t.red.bare = s.red.bare
  cop : t.cop = s.cop
  plinth : t.plinth = s.plinth
  leaf : ∀ l, (t.leaf l).bare = (s.leaf l).bare

theorem State.Alike.refl (s : State) : s.Alike s := ⟨rfl, rfl, rfl, rfl, fun _ => rfl⟩

theorem State.Alike.trans {a b c : State} (h : a.Alike b) (k : b.Alike c) : a.Alike c :=
  ⟨k.1.trans h.1, k.2.trans h.2, k.3.trans h.3, k.4.trans h.4, fun l => (k.5 l).trans (h.5 l)⟩

theorem State.Alike.setFn {z s : State} (h : z.Alike s) (f : FnId) (x : Fn) : z.Alike (s.setFn f x) :=
  ⟨by simp [h.1], by simp [h.2], by simp [h.3], by simp [h.4], fun l => by simp [h.5]⟩

theorem State.Alike.modFn {z s : State} (h : z.Alike s) (f : FnId) (g : Fn → Fn) : z.Alike (s.modFn f g) := h.setFn f _

theorem State.Alike.modMail {z s : State} (h : z.Alike s) (f : FnId) (g : Mail → Mail) : z.Alike (s.modMail f g) := h.setFn f _

theorem State.Alike.send {z s : State} (h : z.Alike s) (o : Output) : z.Alike (s.send o) :=
  ⟨h.1, h.2, h.3, h.4, fun l => by simp [h.5]⟩

theorem State.Alike.setLeaf {z s : State} (h : z.Alike s) (l : LeafId) (x : Leaf) (hx : x.bare = (s.leaf l).bare) :
    z.Alike (s.setLeaf l x) := by
  refine ⟨by simp [h.1], by simp [h.2], by simp [h.3], by simp [h.4], fun k => ?_⟩
  rw [← h.5 k]
  cases k <;> cases l <;> first | exact hx | rfl

theorem State.Alike.modLeaf {z s : State} (h : z.Alike s) (l : LeafId) (g : Leaf → Leaf)
    (hg : ∀ x, (g x).bare = x.bare) : z.Alike (s.modLeaf l g) := h.setLeaf l _ (hg _)

theorem State.Alike.modRed {z s : State} (h : z.Alike s) (l : LeafId) (g : RedLeaf → RedLeaf)
    (hg : ∀ r, ({ g r with journal := [] } : RedLeaf) = { r with journal := [] }) : z.Alike (s.modRed l g) := by
  refine ⟨h.1, ?_, h.3, h.4, fun k => by simp [h.5]⟩
  rw [← h.2]
  cases l <;> simp [State.modRed, Red.set, Red.bare, Red.of, hg]

theorem State.Alike.ite {z a b : State} (p : Prop) [Decidable p] (ha : z.Alike a) (hb : z.Alike b) :
    z.Alike (if p then a else b) := by split <;> assumption

theorem State.Alike.foldl {α : Type} {z s : State} (h : z.Alike s) (l : List α) (g : State → α → State)
    (hg : ∀ t a, z.Alike t → z.Alike (g t a)) : z.Alike (l.foldl g s) := by
  induction l generalizing s with
  | nil => exact h
  | cons a r ih => exact ih (hg s a h)

theorem Leaf.bare_trace (x : Leaf) (r : Trace) : (x.trace r).bare = x.bare := by
  unfold Leaf.trace
  split <;> rfl

/-! Operations. -/

theorem State.signal_alike {z s : State} (f : FnId) (v : Nat) (h : z.Alike s) :
    z.Alike (State.signal s f v) := by
  unfold State.signal; (try dsimp only)
  repeat' first | assumption | with_reducible apply State.Alike.ite | with_reducible apply State.Alike.modMail | with_reducible apply State.Alike.send | (intro _; exact Leaf.bare_trace _ _) | (intro _ _ _) | split

theorem State.raise_alike {z s : State} (f : FnId) (cause : Nat) (h : z.Alike s) :
    z.Alike (State.raise s f cause) := by
  unfold State.raise; (try dsimp only)
  repeat' first | assumption | with_reducible apply State.signal_alike | with_reducible apply State.Alike.ite | with_reducible apply State.Alike.setFn | (intro _; exact Leaf.bare_trace _ _) | (intro _ _ _) | split

theorem State.raiseRecord_alike {z s : State} (f : FnId) (cause : Nat) (h : z.Alike s) :
    z.Alike (State.raiseRecord s f cause) := by
  unfold State.raiseRecord; (try dsimp only)
  repeat' first | assumption | with_reducible apply State.signal_alike | with_reducible apply State.Alike.ite | with_reducible apply State.Alike.modMail | with_reducible apply State.Alike.setFn | (intro _; exact Leaf.bare_trace _ _) | (intro _ _ _) | split

theorem State.dbError_alike {z s : State} (f : FnId) (i : Nat) (h : z.Alike s) :
    z.Alike (State.dbError s f i) := by
  unfold State.dbError
  repeat' first | assumption | with_reducible apply State.raise_alike | with_reducible apply State.Alike.ite | with_reducible apply State.Alike.modFn | (intro _; exact Leaf.bare_trace _ _) | (intro _ _ _) | split

theorem State.dbErrorSlot_alike {z s : State} (f : FnId) (i slot : Nat) (h : z.Alike s) :
    z.Alike (State.dbErrorSlot s f i slot) := by
  unfold State.dbErrorSlot
  repeat' first | assumption | with_reducible apply State.dbError_alike | with_reducible apply State.Alike.ite | with_reducible apply State.Alike.modFn | (intro _; exact Leaf.bare_trace _ _) | (intro _ _ _) | split

theorem State.putEvent_alike {z s : State} (f : FnId) (e : Event) (h : z.Alike s) :
    z.Alike (State.putEvent s f e) := by
  unfold State.putEvent; (try dsimp only)
  repeat' first | assumption | with_reducible apply State.raiseRecord_alike | with_reducible apply State.raise_alike | with_reducible apply State.Alike.ite | with_reducible apply State.Alike.modFn | (intro _; exact Leaf.bare_trace _ _) | (intro _ _ _) | split

theorem State.dropEvent_alike {z s : State} (f : FnId) (h : z.Alike s) :
    z.Alike (State.dropEvent s f) := by
  unfold State.dropEvent; (try dsimp only)
  repeat' first | assumption | with_reducible apply State.raise_alike | with_reducible apply State.Alike.ite | with_reducible apply State.Alike.modFn | (intro _; exact Leaf.bare_trace _ _) | (intro _ _ _) | split

theorem State.reportLost_alike {z s : State} (f : FnId) (h : z.Alike s) :
    z.Alike (State.reportLost s f) := by
  unfold State.reportLost; (try dsimp only)
  repeat' first | assumption | with_reducible apply State.putEvent_alike | with_reducible apply State.Alike.ite | with_reducible apply State.Alike.modMail | (intro _; exact Leaf.bare_trace _ _) | (intro _ _ _) | split

theorem State.event_alike {z s : State} (f : FnId) (e : Event) (h : z.Alike s) :
    z.Alike (State.event s f e) := by
  unfold State.event; (try dsimp only)
  repeat' first | assumption | with_reducible apply State.reportLost_alike | with_reducible apply State.dropEvent_alike | with_reducible apply State.putEvent_alike | with_reducible apply State.Alike.ite | (intro _; exact Leaf.bare_trace _ _) | (intro _ _ _) | split

theorem State.events_alike {z s : State} (fs : List FnId) (e : Event) (h : z.Alike s) :
    z.Alike (State.events s fs e) := by
  unfold State.events
  repeat' first | assumption | with_reducible apply State.event_alike | with_reducible apply State.Alike.ite | with_reducible apply State.Alike.foldl | (intro _; exact Leaf.bare_trace _ _) | (intro _ _ _) | split

theorem State.leafEvent_alike {z s : State} (l : LeafId) (code sev subject : Nat) (payload : List Byte) (autonomy : Nat) (flags : Nat) (tag : Nat) (h : z.Alike s) :
    z.Alike (State.leafEvent s l code sev subject payload autonomy flags tag) := by
  unfold State.leafEvent
  repeat' first | assumption | with_reducible apply State.event_alike | with_reducible apply State.Alike.ite | (intro _; exact Leaf.bare_trace _ _) | (intro _ _ _) | split

theorem State.sceneEvent_alike {z s : State} (l : LeafId) (guest : Bool) (code sev subject : Nat) (payload : List Byte) (autonomy : Nat) (flags : Nat) (tag : Nat) (h : z.Alike s) :
    z.Alike (State.sceneEvent s l guest code sev subject payload autonomy flags tag) := by
  unfold State.sceneEvent
  repeat' first | assumption | with_reducible apply State.event_alike | with_reducible apply State.Alike.ite | (intro _; exact Leaf.bare_trace _ _) | (intro _ _ _) | split

theorem State.modEvent_alike {z s : State} (code sev : Nat) (payload : List Byte) (autonomy : Nat) (flags : Nat) (subject : Nat) (tag : Nat) (h : z.Alike s) :
    z.Alike (State.modEvent s code sev payload autonomy flags subject tag) := by
  unfold State.modEvent
  repeat' first | assumption | with_reducible apply State.event_alike | with_reducible apply State.Alike.ite | (intro _; exact Leaf.bare_trace _ _) | (intro _ _ _) | split

theorem State.postRep_alike {z s : State} (f : FnId) (r : Rep) (h : z.Alike s) :
    z.Alike (State.postRep s f r) := by
  unfold State.postRep
  repeat' first | assumption | with_reducible apply State.event_alike | with_reducible apply State.Alike.ite | (intro _; exact Leaf.bare_trace _ _) | (intro _ _ _) | split

theorem State.reportOn_alike {z s : State} (f : FnId) (l : LeafId) (r0 : Rep) (h : z.Alike s) :
    z.Alike (State.reportOn s f l r0) := by
  unfold State.reportOn; (try dsimp only)
  repeat' first | assumption | with_reducible apply State.postRep_alike | with_reducible apply State.Alike.ite | with_reducible apply State.Alike.modMail | (intro _; exact Leaf.bare_trace _ _) | (intro _ _ _) | split

theorem State.report_alike {z s : State} (l : LeafId) (code sev subject n : Nat) (extra : List Byte) (keep : Bool) (h : z.Alike s) :
    z.Alike (State.report s l code sev subject n extra keep) := by
  unfold State.report
  repeat' first | assumption | with_reducible apply State.reportOn_alike | with_reducible apply State.Alike.ite | (intro _; exact Leaf.bare_trace _ _) | (intro _ _ _) | split

theorem State.notifyFn_alike {z s : State} (f : FnId) (old : Nat) (tag : Nat) (h : z.Alike s) :
    z.Alike (State.notifyFn s f old tag) := by
  unfold State.notifyFn; (try dsimp only)
  repeat' first | assumption | with_reducible apply State.event_alike | with_reducible apply State.raise_alike | with_reducible apply State.Alike.ite | (intro _; exact Leaf.bare_trace _ _) | (intro _ _ _) | split

theorem State.notify_alike {z s : State} (old : State) (h : z.Alike s) :
    z.Alike (State.notify s old tag) := by
  unfold State.notify
  repeat' first | assumption | with_reducible apply State.notifyFn_alike | with_reducible apply State.Alike.ite | with_reducible apply State.Alike.foldl | (intro _; exact Leaf.bare_trace _ _) | (intro _ _ _) | split

theorem State.traceCmd_alike {z s : State} (f : FnId) (target kind tag : Nat) (h : z.Alike s) :
    z.Alike (State.traceCmd s f target kind tag) := by
  unfold State.traceCmd; (try dsimp only)
  repeat' first | assumption | with_reducible apply State.Alike.ite | with_reducible apply State.Alike.modLeaf | (intro _; exact Leaf.bare_trace _ _) | (intro _ _ _) | split

theorem State.freeSlot_alike {z s : State} (f : FnId) (slot : Nat) (h : z.Alike s) :
    z.Alike (State.freeSlot s f slot) := by
  unfold State.freeSlot
  repeat' first | assumption | with_reducible apply State.Alike.ite | with_reducible apply State.Alike.modFn | (intro _; exact Leaf.bare_trace _ _) | (intro _ _ _) | split

theorem State.putCompletion_alike {z s : State} (f : FnId) (w : Waiting) (h : z.Alike s) :
    z.Alike (State.putCompletion s f w) := by
  unfold State.putCompletion; (try dsimp only)
  repeat' first | assumption | with_reducible apply State.freeSlot_alike | with_reducible apply State.traceCmd_alike | with_reducible apply State.raiseRecord_alike | with_reducible apply State.Alike.ite | with_reducible apply State.Alike.modMail | with_reducible apply State.Alike.modFn | (intro _; exact Leaf.bare_trace _ _) | (intro _ _ _) | split

theorem State.post_alike {z s : State} (f : FnId) (w : Waiting) (h : z.Alike s) :
    z.Alike (State.post s f w) := by
  unfold State.post
  repeat' first | assumption | with_reducible apply State.putCompletion_alike | with_reducible apply State.Alike.ite | with_reducible apply State.Alike.modMail | (intro _; exact Leaf.bare_trace _ _) | (intro _ _ _) | split

theorem State.final_alike {z s : State} (c : Cmd) (released : Bool) (status detail appliedAt : Nat) (resp : List Byte) (h : z.Alike s) :
    z.Alike (State.final s c released status detail appliedAt resp) := by
  unfold State.final; (try dsimp only)
  repeat' first | assumption | with_reducible apply State.post_alike | with_reducible apply State.Alike.ite | with_reducible apply State.Alike.modMail | (intro _; exact Leaf.bare_trace _ _) | (intro _ _ _) | split

theorem State.interim_alike {z s : State} (c : Cmd) (status : Nat) (release : Bool) (h : z.Alike s) :
    z.Alike (State.interim s c status release) := by
  unfold State.interim
  repeat' first | assumption | with_reducible apply State.post_alike | with_reducible apply State.Alike.ite | (intro _; exact Leaf.bare_trace _ _) | (intro _ _ _) | split

/-! What the parts that stay alike decide. -/

theorem State.Alike.serving {s t : State} (h : s.Alike t) (l : LeafId) : t.serving l = s.serving l := by
  have k := h.leaf l
  have k1 : (t.leaf l).run = (s.leaf l).run := by have q := congrArg (fun x : Leaf => x.run) k; exact q
  have k2 : (t.leaf l).boot = (s.leaf l).boot := by have q := congrArg (fun x : Leaf => x.boot) k; exact q
  simp only [State.serving, State.alive, Leaf.bist, k1, k2]

theorem State.Alike.home {s t : State} (h : s.Alike t) (f : FnId) : t.home f = s.home f := by
  have k := h.red
  have k1 : t.red.mode = s.red.mode := by have q := congrArg (fun r : Red => r.mode) k; exact q
  have k2 : t.red.active = s.red.active := by have q := congrArg (fun r : Red => r.active) k; exact q
  have k3 : t.red.sceneA = s.red.sceneA := by have q := congrArg (fun r : Red => r.sceneA) k; exact q
  cases f <;> simp only [State.home, k1, k2, k3]

theorem State.Alike.server {s t : State} (h : s.Alike t) (f : FnId) : t.server f = s.server f := by
  have k := h.red
  have k1 : t.red.mode = s.red.mode := by have q := congrArg (fun r : Red => r.mode) k; exact q
  have k2 : ∀ l, (t.red.of l).lost = (s.red.of l).lost := fun l => by
    cases l
    · have q := congrArg (fun r : Red => r.a.lost) k; exact q
    · have q := congrArg (fun r : Red => r.b.lost) k; exact q
  have k3 : ∀ l, (t.leaf l).guest = (s.leaf l).guest := fun l => by have q := congrArg (fun x : Leaf => x.guest) (h.leaf l); exact q
  unfold State.server
  rw [h.home f]
  cases s.home f with
  | none => rfl
  | some l => simp only [k1, k2, k3, h.serving]

/-- Two leaves that agree but for the scheduler differ in it alone. -/
theorem Leaf.of_bare {x z : Leaf} (h : z.bare = x.bare) : z = { x with sched := z.sched } := by
  have e : ({ z.bare with sched := z.sched } : Leaf) = { x.bare with sched := z.sched } := by rw [h]
  exact e

theorem Leaf.bare_swapGuest (x : Leaf) : x.swapGuest.bare = x.bare.swapGuest := by
  cases x
  rename_i guest
  cases guest <;> rfl

theorem State.Alike.seen {s t : State} (h : s.Alike t) (p : LeafId × Bool) : (t.seen p).bare = (s.seen p).bare := by
  unfold State.seen
  split
  · rw [Leaf.bare_swapGuest, Leaf.bare_swapGuest, h.leaf]
  · exact h.leaf _

end Sys2Proof.Machine
end

