-- ==== Sys2Proof/Laws/Memory.lean ====
section
/-! SUPPORT. Byte memories: a read after a write, and that every memory operation keeps the canonical
form of `Memory.wf`. -/

namespace Sys2Proof.Machine

/-! Reads. -/

theorem mget_mdel (d : Nat → Byte) (m : List Host.Cell) (a b : Nat) :
    mget d (mdel m a) b = if b = a then d b else mget d m b := by
  induction m with
  | nil => by_cases h : b = a <;> simp [mdel, mget, h]
  | cons c r ih =>
    obtain ⟨i, v⟩ := c
    by_cases hi : i = a
    · by_cases hb : b = a
      · subst hb; simpa [mdel, hi] using ih
      · have : ¬ a = b := fun h => hb h.symm
        simp [mdel, mget, hi, ih, hb, this]
    · by_cases hib : i = b
      · have : ¬ b = a := fun h => hi (hib.trans h)
        simp [mdel, mget, hib, this]
      · simp [mdel, mget, hi, hib, ih]

theorem mget_mins (d : Nat → Byte) (m : List Host.Cell) (a b : Nat) (v : Byte) :
    mget d (mins m a v) b = if b = a then v else mget d m b := by
  induction m with
  | nil =>
    by_cases h : b = a
    · simp [mins, mget, h]
    · have : ¬ a = b := fun e => h e.symm
      simp [mins, mget, h, this]
  | cons c r ih =>
    obtain ⟨i, w⟩ := c
    simp only [mins]
    split
    · by_cases h : b = a
      · simp [mget, h]
      · have : ¬ a = b := fun e => h e.symm
        simp [mget, h, this]
    · split
      · rename_i h; subst h
        by_cases h : b = i
        · simp [mget, h]
        · have : ¬ i = b := fun e => h e.symm
          simp [mget, h, this]
      · rename_i h
        by_cases hib : i = b
        · have : ¬ b = a := fun e => h (hib.trans e)
          simp [mget, hib, this]
        · simp [mget, hib, ih]

/-- A byte read after a byte write: the value written at the address, what was there elsewhere. -/
theorem mget_mset (d : Nat → Byte) (m : List Host.Cell) (a b : Nat) (v : Byte) :
    mget d (mset d m a v) b = if b = a then v else mget d m b := by
  unfold mset
  split
  · rename_i h; rw [mget_mdel]; split
    · rename_i hb; rw [hb, h]
    · rfl
  · exact mget_mins d m a b v

/-- A byte below or beyond the bytes written reads as before. -/
theorem mget_mwrite_outside (d : Nat → Byte) (l : List Byte) (m : List Host.Cell) (a b : Nat)
    (h : b < a ∨ a + l.length ≤ b) : mget d (mwrite d m a l) b = mget d m b := by
  induction l generalizing m a with
  | nil => rfl
  | cons v r ih =>
    simp only [mwrite]
    simp only [List.length_cons] at h
    rw [ih _ _ (by omega), mget_mset, if_neg (by omega)]

/-- A byte written reads as the byte of the list at its place. -/
theorem mget_mwrite_inside (d : Nat → Byte) (l : List Byte) (m : List Host.Cell) (a i : Nat)
    (h : i < l.length) : mget d (mwrite d m a l) (a + i) = l[i] := by
  induction l generalizing m a i with
  | nil => exact absurd h (by simp)
  | cons v r ih =>
    simp only [mwrite]
    cases i with
    | zero => rw [mget_mwrite_outside _ _ _ _ _ (by omega), mget_mset]; simp
    | succ k =>
      have := ih (mset d m a v) (a + 1) k (by simpa using h)
      simpa [Nat.add_assoc, Nat.add_comm 1 k] using this

/-- A range read back after it was written. -/
theorem mread_mwrite (d : Nat → Byte) (l : List Byte) (m : List Host.Cell) (a : Nat) :
    mread d (mwrite d m a l) a l.length = l := by
  apply List.ext_getElem
  · simp [mread]
  · intro i h1 h2
    simp only [mread, List.getElem_map, List.getElem_range]
    exact mget_mwrite_inside d l m a i h2

/-! The canonical form. -/

theorem risingFrom_mono {lo hi : Nat} {m : List Host.Cell} (h : lo ≤ hi) (hm : risingFrom hi m = true) :
    risingFrom lo m = true := by
  cases m with
  | nil => rfl
  | cons c r =>
    simp only [risingFrom, Bool.and_eq_true, decide_eq_true_eq] at hm ⊢
    exact ⟨Nat.le_trans h hm.1, hm.2⟩

theorem risingFrom_mdel (m : List Host.Cell) (a lo : Nat) (hm : risingFrom lo m = true) :
    risingFrom lo (mdel m a) = true := by
  induction m generalizing lo with
  | nil => rfl
  | cons c r ih =>
    obtain ⟨i, v⟩ := c
    simp only [risingFrom, Bool.and_eq_true, decide_eq_true_eq] at hm
    simp only [mdel]
    split
    · exact risingFrom_mono (by omega) (ih _ hm.2)
    · simp only [risingFrom, Bool.and_eq_true, decide_eq_true_eq]
      exact ⟨hm.1, ih _ hm.2⟩

theorem risingFrom_mins (m : List Host.Cell) (a lo : Nat) (v : Byte) (ha : lo ≤ a) (hm : risingFrom lo m = true) :
    risingFrom lo (mins m a v) = true := by
  induction m generalizing lo with
  | nil => simp [mins, risingFrom, ha]
  | cons c r ih =>
    obtain ⟨i, w⟩ := c
    simp only [risingFrom, Bool.and_eq_true, decide_eq_true_eq] at hm
    simp only [mins]
    split
    · rename_i h
      simp only [risingFrom, Bool.and_eq_true, decide_eq_true_eq]
      exact ⟨ha, by omega, hm.2⟩
    · split
      · rename_i h; subst h
        simp only [risingFrom, Bool.and_eq_true, decide_eq_true_eq]
        exact ⟨ha, hm.2⟩
      · simp only [risingFrom, Bool.and_eq_true, decide_eq_true_eq]
        exact ⟨hm.1, ih _ (by omega) hm.2⟩

theorem all_mdel (p : Host.Cell → Bool) (m : List Host.Cell) (a : Nat) (hm : m.all p = true) :
    (mdel m a).all p = true := by
  induction m with
  | nil => rfl
  | cons c r ih =>
    obtain ⟨i, v⟩ := c
    simp only [List.all_cons, Bool.and_eq_true] at hm
    simp only [mdel]
    split
    · exact ih hm.2
    · simp only [List.all_cons, Bool.and_eq_true]
      exact ⟨hm.1, ih hm.2⟩

theorem all_mins (p : Host.Cell → Bool) (m : List Host.Cell) (a : Nat) (v : Byte) (hv : p (a, v) = true)
    (hm : m.all p = true) : (mins m a v).all p = true := by
  induction m with
  | nil => simp [mins, hv]
  | cons c r ih =>
    obtain ⟨i, w⟩ := c
    simp only [List.all_cons, Bool.and_eq_true] at hm
    simp only [mins]
    split
    · simp only [List.all_cons, Bool.and_eq_true]; exact ⟨hv, hm.1, hm.2⟩
    · split
      · simp only [List.all_cons, Bool.and_eq_true]; exact ⟨hv, hm.2⟩
      · simp only [List.all_cons, Bool.and_eq_true]; exact ⟨hm.1, ih hm.2⟩

/-- A byte write keeps the canonical form. -/
theorem mset_wf (d : Nat → Byte) (m : List Host.Cell) (a : Nat) (v : Byte) (h : Memory.wf d m = true) :
    Memory.wf d (mset d m a v) = true := by
  simp only [Memory.wf, Bool.and_eq_true] at h ⊢
  unfold mset
  split
  · exact ⟨risingFrom_mdel m a 0 h.1, all_mdel _ m a h.2⟩
  · rename_i hv
    exact ⟨risingFrom_mins m a 0 v (Nat.zero_le a) h.1, all_mins _ m a v (by simpa using hv) h.2⟩

/-- A write of bytes keeps the canonical form. -/
theorem mwrite_wf (d : Nat → Byte) (l : List Byte) (m : List Host.Cell) (a : Nat) (h : Memory.wf d m = true) :
    Memory.wf d (mwrite d m a l) = true := by
  induction l generalizing m a with
  | nil => exact h
  | cons v r ih => exact ih _ _ (mset_wf d m a v h)

end Sys2Proof.Machine
end

