-- ==== Sys2Proof/Laws/Issue.lean ====
section
/-! SUPPORT. What a ready mailbox command comes to: the state it meets, its effect, its completion. -/

namespace Sys2Proof.Machine

theorem State.journalPush_alike {z s : State} (f : FnId) (j : Journal) (h : z.Alike s) : z.Alike (s.journalPush f j) := by
  unfold State.journalPush
  dsimp only
  split
  · exact h
  · split
    · exact h.modRed _ _ fun _ => rfl
    · exact h

theorem State.books_alike (s : State) (sp : Spec) (c : Cmd) : s.Alike (s.books sp c) := by
  unfold State.books
  apply State.Alike.modFn
  apply State.Alike.modMail
  exact State.Alike.refl s

theorem State.journal_alike {z s : State} (c : Cmd) (h : z.Alike s) : z.Alike (s.journal c) := State.journalPush_alike _ _ h

theorem State.takes_alike (s : State) (sp : Spec) (c : Cmd) : s.Alike (s.takes sp c) :=
  State.traceCmd_alike _ _ _ _ (State.traceCmd_alike _ _ _ _ (State.journal_alike _ (s.books_alike sp c)))

@[simp] theorem State.fn_traceCmd (s : State) (f : FnId) (target kind tag : Nat) (g : FnId) :
    (s.traceCmd f target kind tag).fn g = s.fn g := by
  unfold State.traceCmd
  dsimp only
  split
  · rfl
  · simp

@[simp] theorem State.fn_journal (s : State) (c : Cmd) (g : FnId) : (s.journal c).fn g = s.fn g := by
  unfold State.journal State.journalPush
  dsimp only
  split
  · rfl
  · split
    · simp
    · rfl

@[simp] theorem State.fn_validated (s : State) (c : Cmd) (g : FnId) : (s.validated c).fn g = s.fn g :=
  State.fn_traceCmd _ _ _ _ _ _

/-- The function that a ready command meets. -/
theorem State.fn_books (s : State) (sp : Spec) (c : Cmd) :
    (s.books sp c).fn c.fn = { s.fn c.fn with
      busy := (s.fn c.fn).busy ||| BitVec.ofNat 32 (2 ^ (taken sp s c).slot),
      mail := { (s.fn c.fn).mail with
        win := mwrite winDefault (s.fn c.fn).mail.win ((taken sp s c).slot * 512) (cmdBytes (taken sp s c)),
        accNo := (taken sp s c).acc } } := by
  simp [State.books]

theorem State.fn_takes (s : State) (sp : Spec) (c : Cmd) : (s.takes sp c).fn c.fn = (s.books sp c).fn c.fn := by
  simp [State.takes]

theorem State.Alike.unserved {s t : State} (h : s.Alike t) (f : FnId) (ht : t.red.takeover = s.red.takeover) :
    t.unserved f = s.unserved f := by
  simp only [State.unserved, State.takingOver, h.server, h.home, ht]

theorem State.Alike.takeover {s t : State} (h : s.Alike t) : t.red.takeover = s.red.takeover := by
  have q := congrArg (fun r : Red => r.takeover) h.red
  exact q

theorem State.Alike.entry {s t : State} (h : s.Alike t) : t.red.entry = s.red.entry := by
  have q := congrArg (fun r : Red => r.entry) h.red
  exact q

theorem State.Alike.mode {s t : State} (h : s.Alike t) : t.red.mode = s.red.mode := by
  have q := congrArg (fun r : Red => r.mode) h.red
  exact q

theorem State.Alike.takingOver {s t : State} (h : s.Alike t) (f : FnId) : t.takingOver f = s.takingOver f := by
  simp only [State.takingOver, h.takeover, h.home]

/-- A command that nothing holds back goes through the checks of R52 in their order; past them it starts
its bulk transfer or goes on by its `when` (R31, R52, R79, R82). -/
theorem issue_clear {s : State} {sp : Spec} {c : Cmd} (drain : Cmd → State → State) (h : s.Clear sp c) :
    issue sp drain c s =
      let k := taken sp s c
      let t := s.takes sp c
      let r := checkCommand sp t k
      let p := sp.pre t k
      let refs := (sp.refs k).map (refAt k)
      let m := (t.fn c.fn).mail
      if r.1 ≠ sOk then t.final k false r.1 r.2 0
      else if p.1 ≠ sOk then t.final k false p.1 p.2 0
      else if refs ≠ [] ∧ (m.bme = false ∨ m.halted = true) then t.final k false sAborted 0 0
      else if refs ≠ [] ∧ 64 < m.refCount + refs.length then t.final k false sNoCapacity 0 0
      else if refs ≠ [] ∧ sp.toHost = false then
        (sp.stage k t).modMail c.fn fun m => { m with dma := m.dma ++ [{ cmd := k, refs := refs }] }
      else schedule sp drain k [] (sp.stage k t) := by
  have hb := s.books_alike sp c
  have ht := s.takes_alike sp c
  have hf : c.fn = (taken sp s c).fn := rfl
  have h1 : issue sp drain c s = validate (some sp) drain (taken sp s c)
      (((s.books sp c).journal (taken sp s c)).traceCmd c.fn (taken sp s c).target 14 (taken sp s c).tag) := by
    have a2 := State.traceCmd_alike c.fn (taken sp s c).target 14 (taken sp s c).tag (State.journal_alike (taken sp s c) hb)
    have e2 := a2.takingOver c.fn
    have e1 := hb.unserved c.fn hb.takeover
    rw [h.steady] at e2
    rw [h.served] at e1
    unfold issue
    dsimp only
    rw [if_neg (by simp [h.reach]), if_neg (by simp [h.live]), if_neg (by simp [h.free])]
    show accept (some sp) drain true (taken sp s c) _ = _
    unfold accept
    dsimp only
    rw [← hf]
    show (if (s.books sp c).unserved c.fn = true then _ else _) = _
    rw [if_neg (by simp [e1])]
    show (if (true && !State.takingOver (((s.books sp c).journal (taken sp s c)).traceCmd c.fn (taken sp s c).target 14
      (taken sp s c).tag) c.fn && _ && _) = true then _ else _) = _
    exact if_pos (by rw [e2]; simp [h.fence, h.first])
  have hT : State.validated (((s.books sp c).journal (taken sp s c)).traceCmd c.fn (taken sp s c).target 14
      (taken sp s c).tag) (taken sp s c) = s.takes sp c := rfl
  have hfl : bit (taken sp s c).flags 1 = false := by simp [taken, h.flags, bit]
  have hcd : ((s.takes sp c).fn c.fn).capsDone = (s.fn c.fn).capsDone := by rw [State.fn_takes, State.fn_books]
  rw [h1]
  unfold validate
  dsimp only
  simp only [hfl, Bool.false_eq_true, if_false]
  rw [hT, ← hf, if_neg]
  rw [hcd, ht.mode, ht.entry]
  have e1 : (!(s.fn c.fn).capsDone && (taken sp s c).op != 0x0101) = false := by
    rcases h.caps with k | k <;> simp [k, taken]
  have e2 : (c.fn == .f1 && s.red.mode != 1 && s.red.entry.isSome) = false := by
    by_cases a : c.fn = .f1
    · by_cases b : s.red.mode = 1
      · simp [b]
      · simp [h.entry a b]
    · simp [a]
  simp [e1, e2]

/-- A ready command without a bulk transfer has its effect and its completion at once (R52, R53). -/
theorem issue_ready {s : State} {sp : Spec} {c : Cmd} (drain : Cmd → State → State) (h : s.Ready sp c)
    (hr : sp.refs (taken sp s c) = [])
    (hd : drain (taken sp s c) (sp.stage (taken sp s c) (s.takes sp c)) = sp.stage (taken sp s c) (s.takes sp c))
    (hm : ((sp.stage (taken sp s c) (s.takes sp c)).fn c.fn).mail = ((s.takes sp c).fn c.fn).mail) :
    issue sp drain c s =
      applyNow sp (taken sp s c) false false false [] (sp.stage (taken sp s c) (s.takes sp c)) := by
  rw [issue_clear drain h.toClear]
  dsimp only
  rw [h.checks, if_neg (by simp), if_neg (by simp [h.state]), hr]
  simp only [List.map_nil, ne_eq, not_true, false_and, if_false]
  unfold schedule
  dsimp only
  have ht : (((s.takes sp c).fn c.fn).mail).holds (taken sp s c).acc = false := by
    rw [State.fn_takes, State.fn_books]
    exact h.turn
  rw [show (taken sp s c).fn = c.fn from rfl, hd, if_pos (show (taken sp s c).when_ = 0 from h.untimed), hm, ht]
  rfl

/-! Effects on the leaves that serve a function. -/

@[simp] theorem Leaf.swapGuest_swapGuest (x : Leaf) : x.swapGuest.swapGuest = x := by
  cases x
  rename_i guest
  cases guest <;> rfl

theorem State.markLate_alike {z s : State} (c : Cmd) (late : Bool) (h : z.Alike s) : z.Alike (s.markLate c late) := by
  unfold State.markLate
  split
  · exact h.modMail _ _
  · exact h

theorem finish_alike {z : State} (sp : Spec) (c : Cmd) (r l : Bool) (a : Nat) (e : Eff) (h : z.Alike e.s) :
    z.Alike (finish sp c r l a e) := by
  unfold finish
  dsimp only
  have k := State.markLate_alike c l h
  repeat' first
    | exact h
    | exact k
    | exact State.final_alike _ _ _ _ _ _ h
    | exact State.interim_alike _ _ _ k
    | exact k.modMail _ _
    | split

theorem State.seen_setLeaf (s : State) (p : LeafId × Bool) (x : Leaf) :
    (s.setLeaf p.1 (if p.2 then x.swapGuest else x)).seen p = x := by
  unfold State.seen
  cases p.2 <;> simp

/-- The other leaf's record does not touch what a leaf is seen with. -/
theorem State.seen_other (s : State) (p : LeafId × Bool) (x : Leaf) : (s.setLeaf p.1.other x).seen p = s.seen p := by
  obtain ⟨l, g⟩ := p
  cases l <;> cases g <;> rfl

/-- The leaf that answers for a function after an effect on the leaves that serve it is what the effect
makes of it, but for its trace. -/
theorem onLeaves_seen (g : Ctx → Cmd → List Byte → Leaf → LEff) (c : Cmd) (prep : Bool) (d : List Byte) (s : State)
    (p : LeafId × Bool) (hp : s.server c.fn = some p)
    (hs : noEffect (g { leaf := p.1, fn := c.fn, n := (s.seen p).next, prep := prep } c d (s.seen p)).status = false) :
    ((onLeaves g c prep d s).s.seen p).bare =
      (g { leaf := p.1, fn := c.fn, n := (s.seen p).next, prep := prep } c d (s.seen p)).x.bare := by
  obtain ⟨l, gu⟩ := p
  have evs : ∀ (z t : State) (k : LeafId) (u : Bool) (es : List Ev), z.Alike t → z.Alike (es.foldl (fun s v =>
      s.sceneEvent k u v.code v.sev v.subject v.payload v.autonomy v.flags c.tag) t) := fun z t k u es h =>
    h.foldl _ _ fun _ _ h => State.sceneEvent_alike _ _ _ _ _ _ _ _ _ h
  have fin : ∀ (z t : State) (ds : List Done), z.Alike t → z.Alike (ds.foldl (fun s d =>
      s.final d.cmd d.released d.status d.detail d.at_) t) := fun z t ds h =>
    h.foldl _ _ fun _ _ h => State.final_alike _ _ _ _ _ _ h
  have hsv : s.servers c.fn = [(l, gu)] ∨ s.servers c.fn = [(l, gu), (l.other, false)] := by
    unfold State.servers
    rw [hp]
    dsimp only
    split
    · exact .inr rfl
    · exact .inl rfl
  have hx : (if gu = true then (s.leaf l).swapGuest else s.leaf l) = s.seen (l, gu) := rfl
  unfold onLeaves
  rcases hsv with hsv | hsv <;> rw [hsv] <;> simp only [List.foldl_nil, List.foldl_cons, hx, hs, Bool.false_eq_true, if_false]
  · rw [(fin _ _ _ (evs _ _ _ _ _ (State.Alike.refl _))).seen (l, gu)]
    exact congrArg Leaf.bare (State.seen_setLeaf s (l, gu) _)
  · have aside : ∀ (t : State) (b : Prop) [Decidable b] (r : Red),
        (if b then t else { t with red := r }).seen (l, gu) = t.seen (l, gu) := fun t b _ r => by split <;> rfl
    rw [(fin _ _ _ (State.Alike.refl _)).seen (l, gu), aside, (evs _ _ _ _ _ (State.Alike.refl _)).seen (l, gu)]
    have two : ∀ (t : State) (b : Prop) [Decidable b] (y : Leaf),
        ((if b then t else t.setLeaf l.other y).seen (l, gu)).bare = (t.seen (l, gu)).bare := fun t b _ y => by
      split
      · rfl
      · rw [State.seen_other t (l, gu)]
    rw [two, (evs _ _ _ _ _ (State.Alike.refl _)).seen (l, gu)]
    exact congrArg Leaf.bare (State.seen_setLeaf s (l, gu) _)

/-- A row whose chapter acts on the serving leaves: it completes, and the leaf that answers is what the
chapter makes of it. -/
theorem Acts.of {row : Cmd → Instr} {sp : Spec} {P : Ctx → Cmd → Leaf → Prop} {Q : Ctx → Cmd → Leaf → Leaf → Prop}
    (g : Ctx → Cmd → List Byte → Leaf → LEff) (hrow : ∀ c s, exec (row c) s = .next (issue sp drainDue c s))
    (hrun : sp.run = onLeaves g) (hst : ∀ c s, sp.stage c s = s) (hrefs : ∀ c, sp.refs c = [])
    (hq : ∀ cx (c k : Cmd) (x : Leaf), k.body = c.body → k.fn = c.fn → k.acc ≠ 0 → k.tag = c.tag → k.flags = 0 → cx.n = x.next → cx.prep = false → P cx c x →
      noEffect (g cx k [] x).status = false ∧ ∀ y : Leaf, y.bare = (g cx k [] x).x.bare → Q cx c x y) : Acts row sp P Q := by
  intro s c p h hp hP
  have ht := s.takes_alike sp c
  have hd : drainDue (taken sp s c) (s.takes sp c) = s.takes sp c := by
    unfold drainDue
    rw [show (taken sp s c).fn = c.fn from rfl]
    rw [State.fn_takes, State.fn_books, show ((s.fn c.fn).mail.queued) = [] from h.queue]
    rfl
  have hi := issue_ready drainDue h (hrefs _) (by rw [hst]; exact hd) (by rw [hst])
  refine ⟨_, (hrow c s).trans (congrArg _ hi), ?_⟩
  have hb : (s.meets sp c p).bare = (s.seen p).bare := ht.seen p
  have hn : (s.meets sp c p).next = (s.seen p).next := by
    have q := congrArg (fun x : Leaf => x.clk.dom.sample + 1) hb
    exact q
  have hq := hq (s.ctx c.fn p) c (taken sp s c) (s.meets sp c p) rfl rfl (Nat.succ_ne_zero _) rfl h.flags hn.symm rfl hP
  refine hq.2 _ ?_
  have hx : s.ctx c.fn p = { leaf := p.1, fn := c.fn, n := (s.meets sp c p).next, prep := false } := by
    rw [hn]; rfl
  rw [hst]
  refine ((finish_alike sp _ _ _ _ _ (State.Alike.refl _)).seen p).trans ?_
  rw [hrun, hx]
  exact onLeaves_seen g (taken sp s c) false [] _ p ((ht.server c.fn).trans hp) (by
    have q := hq.1
    rw [hx] at q
    exact q)

end Sys2Proof.Machine
end

