-- ==== Sys2Proof/Laws/Kept.lean ====
section
/-! SUPPORT. What no operation disturbs: `State.Kept` through the plain updates of the state. -/

namespace Sys2Proof.Machine

theorem State.Kept.refl (s : State) : State.Kept s s := ⟨rfl, rfl, id, id, ⟨[], (List.append_nil _).symm⟩, Nat.le_refl _⟩

theorem State.Kept.trans {a b c : State} (h : State.Kept a b) (k : State.Kept b c) : State.Kept a c := by
  obtain ⟨r, hr⟩ := h.sent
  obtain ⟨q, hq⟩ := k.sent
  exact ⟨k.pending.trans h.pending, k.variant.trans h.variant, fun w => k.windows (h.windows w),
    fun w => k.rings (h.rings w), ⟨r ++ q, by rw [hq, hr, List.append_assoc]⟩, Nat.le_trans h.count k.count⟩

theorem State.windowsOk_iff (s : State) :
    s.windowsOk = true ↔ ∀ f, Memory.wf winDefault (s.fn f).mail.win = true := by
  constructor
  · intro h f
    simp only [State.windowsOk, Bool.and_eq_true] at h
    cases f
    · exact h.1.1
    · exact h.1.2
    · exact h.2
  · intro h
    simp only [State.windowsOk, Bool.and_eq_true]
    exact ⟨⟨h .f0, h .f1⟩, h .f2⟩

theorem State.ringsOk_iff (s : State) : s.ringsOk = true ↔ ∀ f, (s.fn f).ringsOk = true := by
  constructor
  · intro h f
    simp only [State.ringsOk, Bool.and_eq_true] at h
    cases f
    · exact h.1.1
    · exact h.1.2
    · exact h.2
  · intro h
    simp only [State.ringsOk, Bool.and_eq_true]
    exact ⟨⟨h .f0, h .f1⟩, h .f2⟩

theorem Fn.ringsOk_iff (x : Fn) : x.ringsOk = true ↔
    (x.cqProd < 65536 ∧ x.cqCons < 65536 ∧ ringUsed x.cqProd x.cqCons ≤ 64) ∧
      x.eqProd < 65536 ∧ x.eqCons < 65536 ∧ ringUsed x.eqProd x.eqCons ≤ 1024 := by
  simp [Fn.ringsOk, and_assoc]

/-- What the soundness of a function's record reads: its window and its ring indices. -/
def Fn.core (x : Fn) : List Host.Cell × Nat × Nat × Nat × Nat := (x.mail.win, x.cqProd, x.cqCons, x.eqProd, x.eqCons)

theorem Fn.core_win {x y : Fn} (h : x.core = y.core) : x.mail.win = y.mail.win := congrArg Prod.fst h

theorem Fn.core_rings {x y : Fn} (h : x.core = y.core) : x.ringsOk = y.ringsOk := by
  simp only [Fn.core, Prod.mk.injEq] at h
  obtain ⟨-, h1, h2, h3, h4⟩ := h
  simp only [Fn.ringsOk, h1, h2, h3, h4]

/-! Plain updates. -/

/-- A new function record keeps the state where it keeps the window's form and the rings' bounds. -/
theorem State.Kept.setFn' {s0 s : State} (h : State.Kept s0 s) (f : FnId) (x : Fn)
    (hx : Memory.wf winDefault (s.fn f).mail.win = true → Memory.wf winDefault x.mail.win = true)
    (hr : (s.fn f).ringsOk = true → x.ringsOk = true) : State.Kept s0 (s.setFn f x) := by
  refine ⟨by simp [h.pending], by simp [h.variant], fun w => ?_, fun w => ?_, by simpa using h.sent, by simpa using h.count⟩
  · have w := (State.windowsOk_iff s).1 (h.windows w)
    rw [State.windowsOk_iff]
    intro g
    by_cases hg : g = f
    · subst hg; simpa using hx (w g)
    · rw [State.fn_setFn_ne _ _ _ _ hg]; exact w g
  · have w := (State.ringsOk_iff s).1 (h.rings w)
    rw [State.ringsOk_iff]
    intro g
    by_cases hg : g = f
    · subst hg; simpa using hr (w g)
    · rw [State.fn_setFn_ne _ _ _ _ hg]; exact w g

@[simp] theorem State.Kept.setFn {s0 s : State} (h : State.Kept s0 s) (f : FnId) (x : Fn)
    (hx : x.core = (s.fn f).core) : State.Kept s0 (s.setFn f x) :=
  h.setFn' f x (fun w => by rw [Fn.core_win hx]; exact w) fun w => by rw [Fn.core_rings hx]; exact w

@[simp] theorem State.Kept.modFn {s0 s : State} (h : State.Kept s0 s) (f : FnId) (g : Fn → Fn)
    (hg : ∀ x, (g x).core = x.core) : State.Kept s0 (s.modFn f g) := h.setFn f _ (hg _)

@[simp] theorem State.Kept.modMail {s0 s : State} (h : State.Kept s0 s) (f : FnId) (g : Mail → Mail)
    (hg : ∀ m, (g m).win = m.win) : State.Kept s0 (s.modMail f g) :=
  h.modFn f _ fun x => by simp only [Fn.core, hg]

/-- A write into a window keeps the state. -/
theorem State.Kept.write {s0 s : State} (h : State.Kept s0 s) (f : FnId) (g : Mail → Mail) (a : Nat) (l : List Byte)
    (hg : ∀ m, (g m).win = mwrite winDefault m.win a l) : State.Kept s0 (s.modMail f g) := by
  refine h.setFn' f _ (fun w => ?_) fun w => w
  show Memory.wf winDefault (g (s.fn f).mail).win = true
  rw [hg]
  exact mwrite_wf _ _ _ _ w

@[simp] theorem State.Kept.setLeaf {s0 s : State} (h : State.Kept s0 s) (l : LeafId) (x : Leaf) :
    State.Kept s0 (s.setLeaf l x) :=
  ⟨by simp [h.pending], by simp [h.variant], fun w => by simpa [State.windowsOk] using h.windows w,
    fun w => by simpa [State.ringsOk] using h.rings w, by simpa using h.sent, by simpa using h.count⟩

@[simp] theorem State.Kept.modLeaf {s0 s : State} (h : State.Kept s0 s) (l : LeafId) (g : Leaf → Leaf) :
    State.Kept s0 (s.modLeaf l g) := h.setLeaf l _

@[simp] theorem State.Kept.la {s0 s : State} (h : State.Kept s0 s) (x : Leaf) : State.Kept s0 { s with la := x } := ⟨h.1, h.2, h.3, h.4, h.5, h.6⟩
@[simp] theorem State.Kept.lb {s0 s : State} (h : State.Kept s0 s) (x : Leaf) : State.Kept s0 { s with lb := x } := ⟨h.1, h.2, h.3, h.4, h.5, h.6⟩
@[simp] theorem State.Kept.red {s0 s : State} (h : State.Kept s0 s) (x : Red) : State.Kept s0 { s with red := x } := ⟨h.1, h.2, h.3, h.4, h.5, h.6⟩
@[simp] theorem State.Kept.cop {s0 s : State} (h : State.Kept s0 s) (x : Coping) : State.Kept s0 { s with cop := x } := ⟨h.1, h.2, h.3, h.4, h.5, h.6⟩
@[simp] theorem State.Kept.copRed {s0 s : State} (h : State.Kept s0 s) (x : Coping) (y : Red) : State.Kept s0 { s with cop := x, red := y } := ⟨h.1, h.2, h.3, h.4, h.5, h.6⟩
@[simp] theorem State.Kept.plinth {s0 s : State} (h : State.Kept s0 s) (x : Plinth) : State.Kept s0 { s with plinth := x } := ⟨h.1, h.2, h.3, h.4, h.5, h.6⟩

@[simp] theorem State.Kept.modRed {s0 s : State} (h : State.Kept s0 s) (l : LeafId) (g : RedLeaf → RedLeaf) :
    State.Kept s0 (s.modRed l g) := h.red _

@[simp] theorem State.Kept.send {s0 s : State} (h : State.Kept s0 s) (o : Output) : State.Kept s0 (s.send o) := by
  obtain ⟨r, hr⟩ := h.sent
  exact ⟨h.1, h.2, h.3, h.4, ⟨r ++ [o], by simp [State.send, hr]⟩, h.6⟩

@[simp] theorem State.Kept.fresh {s0 s : State} (h : State.Kept s0 s) (w : String) : State.Kept s0 (s.fresh w).2 :=
  ⟨h.1, h.2, h.3, h.4, h.5, Nat.le_succ_of_le h.6⟩

/-- A fold of a kept step keeps. -/
@[simp] theorem State.Kept.foldl {α : Type} {s0 s : State} (h : State.Kept s0 s) (l : List α) (g : State → α → State)
    (hg : ∀ t a, State.Kept s0 t → State.Kept s0 (g t a)) : State.Kept s0 (l.foldl g s) := by
  induction l generalizing s with
  | nil => exact h
  | cons a r ih => exact ih (hg s a h)

@[simp] theorem State.Kept.ite {s0 a b : State} (p : Prop) [Decidable p] (ha : State.Kept s0 a) (hb : State.Kept s0 b) :
    State.Kept s0 (if p then a else b) := by split <;> assumption

end Sys2Proof.Machine
end

