-- ==== Sys2Proof/Laws/KeptOps.lean ====
section
/-! SUPPORT. What no operation disturbs (`State.Kept`): the shared operations on rings, interrupts, events and completions, the command envelope and the host port. -/

namespace Sys2Proof.Machine

/-! Ops. -/
theorem State.signal_kept {z s : State} (f : FnId) (v : Nat) (hk : State.Kept z s) :
    State.Kept z (State.signal s f v) := by
  unfold State.signal; (try dsimp only)
  repeat' first | with_reducible assumption | with_reducible apply State.Kept.ite | with_reducible apply State.Kept.modMail | with_reducible apply State.Kept.send | (intro _; rfl)

theorem State.raise_kept {z s : State} (f : FnId) (cause : Nat) (hk : State.Kept z s) :
    State.Kept z (State.raise s f cause) := by
  unfold State.raise; (try dsimp only)
  repeat' first | with_reducible assumption | with_reducible apply State.signal_kept | with_reducible apply State.Kept.ite | with_reducible apply State.Kept.setFn | exact Eq.refl _

theorem State.raiseRecord_kept {z s : State} (f : FnId) (cause : Nat) (hk : State.Kept z s) :
    State.Kept z (State.raiseRecord s f cause) := by
  unfold State.raiseRecord; (try dsimp only)
  repeat' first | with_reducible assumption | with_reducible apply State.signal_kept | with_reducible apply State.Kept.ite | with_reducible apply State.Kept.modMail | with_reducible apply State.Kept.setFn | (intro _; rfl) | exact Eq.refl _

theorem State.dbError_kept {z s : State} (f : FnId) (i : Nat) (hk : State.Kept z s) :
    State.Kept z (State.dbError s f i) := by
  unfold State.dbError
  repeat' first | with_reducible assumption | with_reducible apply State.raise_kept | with_reducible apply State.Kept.modFn | (intro _; rfl)

theorem State.dbErrorSlot_kept {z s : State} (f : FnId) (i : Nat) (slot : Nat) (hk : State.Kept z s) :
    State.Kept z (State.dbErrorSlot s f i slot) := by
  unfold State.dbErrorSlot
  repeat' first | with_reducible assumption | with_reducible apply State.dbError_kept | with_reducible apply State.Kept.modFn | (intro _; rfl)

theorem ring_put {p c m : Nat} (hm : m < 65536) (hp : p < 65536) (hc : c < 65536) (hu : ringUsed p c ≤ m)
    (h : 0 < m - ringUsed p c) : ringUsed ((p + 1) % 65536) c ≤ m := by
  unfold ringUsed at *; omega

theorem Fn.ringsOk_cq {x y : Fn} (he : y.eqProd = x.eqProd ∧ y.eqCons = x.eqCons)
    (h : x.ringsOk = true → y.cqProd < 65536 ∧ y.cqCons < 65536 ∧ ringUsed y.cqProd y.cqCons ≤ 64)
    (hx : x.ringsOk = true) : y.ringsOk = true := by
  have k := (Fn.ringsOk_iff x).1 hx
  exact (Fn.ringsOk_iff y).2 ⟨h hx, by rw [he.1, he.2]; exact k.2⟩

theorem Fn.ringsOk_eq {x y : Fn} (he : y.cqProd = x.cqProd ∧ y.cqCons = x.cqCons)
    (h : x.ringsOk = true → y.eqProd < 65536 ∧ y.eqCons < 65536 ∧ ringUsed y.eqProd y.eqCons ≤ 1024)
    (hx : x.ringsOk = true) : y.ringsOk = true := by
  have k := (Fn.ringsOk_iff x).1 hx
  exact (Fn.ringsOk_iff y).2 ⟨by rw [he.1, he.2]; exact k.1, h hx⟩

/-- A record that finds a free entry keeps the bounds of the event ring. -/
theorem State.putEvent_kept {z s : State} (f : FnId) (e : Event) (hf : 0 < (s.fn f).eqFree) (hk : State.Kept z s) :
    State.Kept z (s.putEvent f e) := by
  have h1 : State.Kept z (s.modFn f fun x =>
    { x with
      eqProd := (x.eqProd + 1) % 65536,
      mail := { x.mail with
        eq := tins x.mail.eq (x.eqProd % 1024) { e with seq := x.mail.seqE },
        seqE := (x.mail.seqE + 1) % 4294967296 } }) := by
    refine hk.setFn' f _ (fun w => w) (Fn.ringsOk_eq ⟨rfl, rfl⟩ fun w => ?_)
    have k := (Fn.ringsOk_iff _).1 w
    exact ⟨Nat.mod_lt _ (by decide), k.2.2.1, ring_put (by decide) k.2.1 k.2.2.1 k.2.2.2 hf⟩
  unfold State.putEvent
  dsimp only
  split
  · exact State.raise_kept _ _ (State.raiseRecord_kept _ _ h1)
  · exact State.raiseRecord_kept _ _ h1

theorem State.dropEvent_kept {z s : State} (f : FnId) (hk : State.Kept z s) :
    State.Kept z (State.dropEvent s f) := by
  unfold State.dropEvent; (try dsimp only)
  repeat' first | with_reducible assumption | with_reducible apply State.raise_kept | with_reducible apply State.Kept.modFn | (intro _; rfl)

theorem State.reportLost_kept {z s : State} (f : FnId) (hk : State.Kept z s) : State.Kept z (s.reportLost f) := by
  unfold State.reportLost
  dsimp only
  split
  · next h =>
    simp only [Bool.and_eq_true, decide_eq_true_eq] at h
    refine State.putEvent_kept _ _ ?_ (hk.modMail _ _ fun _ => rfl)
    simpa [State.modMail, State.modFn, Fn.eqFree] using h.2
  · exact hk

theorem State.event_kept {z s : State} (f : FnId) (e : Event) (hk : State.Kept z s) : State.Kept z (s.event f e) := by
  have h := State.reportLost_kept f hk
  unfold State.event
  dsimp only
  split
  · exact hk
  · by_cases k : (if e.severity = 3 then 1 else 8) ≤ ((s.reportLost f).fn f).eqFree
    · rw [if_pos k]
      exact State.putEvent_kept _ _ (by split at k <;> omega) h
    · rw [if_neg k]
      exact State.dropEvent_kept _ h

theorem State.events_kept {z s : State} (fs : List FnId) (e : Event) (hk : State.Kept z s) :
    State.Kept z (State.events s fs e) := by
  unfold State.events
  repeat' first | with_reducible assumption | with_reducible apply State.event_kept | with_reducible apply State.Kept.foldl | (intro _ _ _)

theorem State.leafEvent_kept {z s : State} (l : LeafId) (code : Nat) (sev : Nat) (subject : Nat) (payload : List Byte) (autonomy : optParam Nat 255) (flags : optParam Nat 0) (tag : optParam Nat 0) (hk : State.Kept z s) :
    State.Kept z (State.leafEvent s l code sev subject payload autonomy flags tag) := by
  unfold State.leafEvent
  repeat' first | with_reducible assumption | with_reducible apply State.event_kept

theorem State.sceneEvent_kept {z s : State} (l : LeafId) (guest : Bool) (code : Nat) (sev : Nat) (subject : Nat) (payload : List Byte) (autonomy : optParam Nat 255) (flags : optParam Nat 0) (tag : optParam Nat 0) (hk : State.Kept z s) :
    State.Kept z (State.sceneEvent s l guest code sev subject payload autonomy flags tag) := by
  unfold State.sceneEvent
  repeat' first | with_reducible assumption | with_reducible apply State.event_kept

theorem State.modEvent_kept {z s : State} (code : Nat) (sev : Nat) (payload : List Byte) (autonomy : optParam Nat 255) (flags : optParam Nat 0) (subject : optParam Nat 4294967295) (tag : optParam Nat 0) (hk : State.Kept z s) :
    State.Kept z (State.modEvent s code sev payload autonomy flags subject tag) := by
  unfold State.modEvent
  repeat' first | with_reducible assumption | with_reducible apply State.event_kept

theorem State.postRep_kept {z s : State} (f : FnId) (r : Rep) (hk : State.Kept z s) :
    State.Kept z (State.postRep s f r) := by
  unfold State.postRep
  repeat' first | with_reducible assumption | with_reducible apply State.event_kept

theorem State.reportOn_kept {z s : State} (f : FnId) (l : LeafId) (r0 : Rep) (hk : State.Kept z s) :
    State.Kept z (State.reportOn s f l r0) := by
  unfold State.reportOn; (try dsimp only)
  repeat' first | with_reducible assumption | with_reducible apply State.postRep_kept | with_reducible apply State.Kept.ite | with_reducible apply State.Kept.modMail | (intro _; rfl) | split

theorem State.report_kept {z s : State} (l : LeafId) (code : Nat) (sev : Nat) (subject : Nat) (n : Nat) (extra : List Byte) (keep : optParam Bool false) (hk : State.Kept z s) :
    State.Kept z (State.report s l code sev subject n extra keep) := by
  unfold State.report
  repeat' first | with_reducible assumption | with_reducible apply State.reportOn_kept

theorem State.notifyFn_kept {z s : State} (f : FnId) (old : Nat) (tag : optParam Nat 0) (hk : State.Kept z s) :
    State.Kept z (State.notifyFn s f old tag) := by
  unfold State.notifyFn; (try dsimp only)
  repeat' first | with_reducible assumption | with_reducible apply State.raise_kept | with_reducible apply State.event_kept | with_reducible apply State.Kept.ite

theorem State.notify_kept {z s : State} (old : State) (tag : optParam Nat 0) (hk : State.Kept z s) :
    State.Kept z (State.notify s old tag) := by
  unfold State.notify
  repeat' first | with_reducible assumption | with_reducible apply State.notifyFn_kept | with_reducible apply State.Kept.foldl | (intro _ _ _)

theorem State.traceCmd_kept {z s : State} (f : FnId) (target : Nat) (kind : Nat) (tag : Nat) (hk : State.Kept z s) :
    State.Kept z (State.traceCmd s f target kind tag) := by
  unfold State.traceCmd; (try dsimp only)
  repeat' first | with_reducible assumption | with_reducible apply State.Kept.modLeaf | split

theorem State.freeSlot_kept {z s : State} (f : FnId) (slot : Nat) (hk : State.Kept z s) :
    State.Kept z (State.freeSlot s f slot) := by
  unfold State.freeSlot
  repeat' first | with_reducible assumption | with_reducible apply State.Kept.modFn | (intro _; rfl)

/-- A record that finds a free entry keeps the bounds of the completion ring. -/
theorem State.putCompletion_kept {z s : State} (f : FnId) (w : Waiting) (hf : 0 < (s.fn f).cqFree) (hk : State.Kept z s) :
    State.Kept z (s.putCompletion f w) := by
  have key : ∀ t : State, 0 < (t.fn f).cqFree → State.Kept z t → State.Kept z (t.modFn f fun x =>
    { x with
      cqProd := (x.cqProd + 1) % 65536,
      mail := { x.mail with
        cq := tins x.mail.cq (x.cqProd % 64) { w.record with seq := x.mail.seqC },
        seqC := (x.mail.seqC + 1) % 4294967296 } }) := by
    intro t hf ht
    refine ht.setFn' f _ (fun w => w) (Fn.ringsOk_cq ⟨rfl, rfl⟩ fun w => ?_)
    have k := (Fn.ringsOk_iff _).1 w
    exact ⟨Nat.mod_lt _ (by decide), k.1.2.1, ring_put (by decide) k.1.1 k.1.2.1 k.1.2.2 hf⟩
  have h1 := hk.write f (fun m => { m with win := mwrite winDefault m.win (w.record.slot * 512 + 32) w.resp }) _ _ fun _ => rfl
  have h2 := State.freeSlot_kept f w.record.slot h1
  unfold State.putCompletion
  refine State.raiseRecord_kept _ _ (State.traceCmd_kept _ _ _ _ ?_)
  apply State.Kept.ite
  · refine State.Kept.modMail ?_ _ _ fun _ => rfl
    split
    · refine key _ ?_ h2
      simpa [State.freeSlot, State.modMail, State.modFn, Fn.cqFree] using hf
    · exact key _ hf hk
  · split
    · refine key _ ?_ h2
      simpa [State.freeSlot, State.modMail, State.modFn, Fn.cqFree] using hf
    · exact key _ hf hk

theorem State.post_kept {z s : State} (f : FnId) (w : Waiting) (hk : State.Kept z s) : State.Kept z (s.post f w) := by
  unfold State.post
  split
  · next h =>
    simp only [Bool.and_eq_true, decide_eq_true_eq] at h
    exact State.putCompletion_kept _ _ h.2 hk
  · exact hk.modMail _ _ fun _ => rfl

theorem State.final_kept {z s : State} (c : Cmd) (released : Bool) (status : Nat) (detail : Nat) (appliedAt : Nat) (resp : optParam (List Byte) []) (hk : State.Kept z s) :
    State.Kept z (State.final s c released status detail appliedAt resp) := by
  unfold State.final; (try dsimp only)
  repeat' first | with_reducible assumption | with_reducible apply State.post_kept | with_reducible apply State.Kept.ite | with_reducible apply State.Kept.modMail | (intro _; rfl)

theorem State.interim_kept {z s : State} (c : Cmd) (status : Nat) (release : optParam Bool true) (hk : State.Kept z s) :
    State.Kept z (State.interim s c status release) := by
  unfold State.interim
  repeat' first | with_reducible assumption | with_reducible apply State.post_kept

/-! The command envelope. -/

/-- What an opcode's chapter does keeps the state. -/
structure Spec.Keeps (sp : Spec) : Prop where
  stage : ∀ c s0 s, State.Kept s0 s → State.Kept s0 (sp.stage c s)
  undo : ∀ c s0 s, State.Kept s0 s → State.Kept s0 (sp.undo c s)
  run : ∀ c p d s0 s, State.Kept s0 s → State.Kept s0 (sp.run c p d s).s

theorem onLeaves_kept {s0 s : State} (g : Ctx → Cmd → List Byte → Leaf → LEff) (c : Cmd) (p : Bool) (d : List Byte)
    (h : State.Kept s0 s) : State.Kept s0 (onLeaves g c p d s).s := by
  unfold onLeaves; split
  · exact h
  · dsimp only
    repeat' first | assumption | with_reducible apply State.final_kept | with_reducible apply State.sceneEvent_kept | with_reducible apply State.Kept.foldl | with_reducible apply State.Kept.ite | with_reducible apply State.Kept.setLeaf | with_reducible apply State.Kept.red | (intro _ _ _)

theorem State.asGuest_kept {z s : State} (l : LeafId) (g : State → State)
    (hg : ∀ s0 s, State.Kept s0 s → State.Kept s0 (g s)) (hk : State.Kept z s) : State.Kept z (State.asGuest s l g) := by
  unfold State.asGuest; (try dsimp only)
  repeat' first | with_reducible assumption | with_reducible apply hg | with_reducible apply State.Kept.modLeaf | split | with_reducible apply State.Kept.red

theorem State.eachScene_kept {z s : State} (l : LeafId) (g : State → State)
    (hg : ∀ s0 s, State.Kept s0 s → State.Kept s0 (g s)) (hk : State.Kept z s) : State.Kept z (State.eachScene s l g) :=
  State.asGuest_kept l g hg (hg _ _ hk)

theorem State.markLate_kept {z s : State} (c : Cmd) (late : Bool) (hk : State.Kept z s) :
    State.Kept z (s.markLate c late) := by
  unfold State.markLate
  split
  · exact hk.modMail _ _ fun _ => rfl
  · exact hk

theorem finish_kept {s0 : State} (sp : Spec) (c : Cmd) (r l : Bool) (a : Nat) (e : Eff) (h : State.Kept s0 e.s) :
    State.Kept s0 (finish sp c r l a e) := by
  unfold finish; dsimp only
  repeat' first | assumption | with_reducible apply State.final_kept | with_reducible apply State.markLate_kept | with_reducible apply State.interim_kept | with_reducible apply State.Kept.modMail | with_reducible apply State.Kept.ite | (intro _; rfl) | split

theorem applyNow_kept {s0 s : State} (sp : Spec) (hs : sp.Keeps) (c : Cmd) (p l r : Bool) (d : List Byte)
    (h : State.Kept s0 s) : State.Kept s0 (applyNow sp c p l r d s) := finish_kept sp c r l _ _ (hs.run c p d s0 s h)

theorem schedule_kept {s0 s : State} (sp : Spec) (hs : sp.Keeps) (drain : Cmd → State → State)
    (hd : ∀ c s0 s, State.Kept s0 s → State.Kept s0 (drain c s)) (c : Cmd) (d : List Byte) (h : State.Kept s0 s) :
    State.Kept s0 (schedule sp drain c d s) := by
  have hk := hd c s0 s h
  unfold schedule; dsimp only
  generalize drain c s = t at hk
  repeat' first | assumption | with_reducible apply applyNow_kept | with_reducible apply State.final_kept | with_reducible apply State.interim_kept | with_reducible apply State.Kept.modMail | with_reducible apply State.Kept.ite | (intro _; rfl)

theorem State.validated_kept {s0 s : State} (c : Cmd) (h : State.Kept s0 s) : State.Kept s0 (State.validated s c) :=
  State.traceCmd_kept _ _ _ _ h

theorem validate_kept {s0 s : State} (sp : Option Spec) (hs : ∀ p, sp = some p → p.Keeps) (drain : Cmd → State → State)
    (hd : ∀ c s0 s, State.Kept s0 s → State.Kept s0 (drain c s)) (c : Cmd) (h : State.Kept s0 s) :
    State.Kept s0 (validate sp drain c s) := by
  unfold validate; dsimp only
  have h1 : State.Kept s0 ((if bit c.flags 1 = true then s.modMail c.fn fun m => { m with fence := some c.acc } else s).validated c) := by
    apply State.validated_kept; split
    · exact h.modMail _ _ fun _ => rfl
    · exact h
  generalize State.validated _ c = t at h1
  cases sp with
  | none =>
    repeat' first | assumption | with_reducible apply State.final_kept | with_reducible apply State.Kept.ite
  | some p =>
    have hp := hs p rfl
    have h2 := hp.stage c s0 t h1
    dsimp only
    repeat' first | assumption | with_reducible apply State.final_kept | with_reducible apply schedule_kept | with_reducible apply State.Kept.modMail | with_reducible apply State.Kept.ite | (intro _; rfl)

theorem State.journalPush_kept {s0 s : State} (f : FnId) (j : Journal) (h : State.Kept s0 s) :
    State.Kept s0 (s.journalPush f j) := by
  unfold State.journalPush; dsimp only; split
  · exact h
  · split
    · exact h.modRed _ _
    · exact h

theorem State.journal_kept {s0 s : State} (c : Cmd) (h : State.Kept s0 s) : State.Kept s0 (s.journal c) :=
  State.journalPush_kept _ _ h

theorem accept_kept {s0 s : State} (sp : Option Spec) (hs : ∀ p, sp = some p → p.Keeps) (drain : Cmd → State → State)
    (hd : ∀ c s0 s, State.Kept s0 s → State.Kept s0 (drain c s)) (now : Bool) (c : Cmd) (h : State.Kept s0 s) :
    State.Kept s0 (accept sp drain now c s) := by
  unfold accept; dsimp only
  repeat' first | assumption | with_reducible apply validate_kept | with_reducible apply State.final_kept | with_reducible apply State.traceCmd_kept | with_reducible apply State.journal_kept | with_reducible apply State.Kept.modMail | with_reducible apply State.Kept.modFn | with_reducible apply State.Kept.ite | (intro _; rfl)

/-- A whole mailbox command keeps the state where its chapter and the commands that come due do. -/
theorem issue_kept {s0 s : State} (sp : Spec) (hs : sp.Keeps) (drain : Cmd → State → State)
    (hd : ∀ c s0 s, State.Kept s0 s → State.Kept s0 (drain c s)) (c : Cmd) (h : State.Kept s0 s) :
    State.Kept s0 (issue sp drain c s) := by
  have hw : ∀ a l, State.Kept s0 (s.modMail c.fn fun m => { m with win := mwrite winDefault m.win a l }) := fun a l =>
    h.write c.fn _ a l fun _ => rfl
  have hs' : ∀ p, some sp = some p → p.Keeps := fun p e => by cases e; exact hs
  unfold issue; dsimp only
  repeat' first | assumption | with_reducible apply hw | with_reducible apply accept_kept | with_reducible apply State.dbError_kept | with_reducible apply State.dbErrorSlot_kept | with_reducible apply State.Kept.ite

/-! HostPort. -/
theorem ringDoorbell_kept {z s : State} (f : FnId) (v : BitVec 32) (hk : State.Kept z s) :
    State.Kept z (ringDoorbell f v s) := by
  unfold ringDoorbell; (try dsimp only)
  repeat' first | with_reducible assumption | (intro _ k; cases k; done) | (intro _ _ _ k; exact k) | with_reducible apply State.dbError_kept | with_reducible apply State.dbErrorSlot_kept | with_reducible apply accept_kept | with_reducible apply State.Kept.ite

theorem writeCqCons_kept {z s : State} (f : FnId) (v : BitVec 32) (hk : State.Kept z s) :
    State.Kept z (writeCqCons f v s) := by
  unfold writeCqCons
  dsimp only
  split
  · exact hk
  · split
    · exact State.dbError_kept _ _ hk
    · next h =>
      refine hk.setFn' f _ (fun w => w) (Fn.ringsOk_cq ⟨rfl, rfl⟩ fun w => ?_)
      exact ⟨((Fn.ringsOk_iff _).1 w).1.1, Nat.mod_lt _ (by decide), Nat.le_of_not_lt h⟩

theorem writeEqCons_kept {z s : State} (f : FnId) (v : BitVec 32) (hk : State.Kept z s) :
    State.Kept z (writeEqCons f v s) := by
  unfold writeEqCons
  dsimp only
  split
  · exact hk
  · split
    · exact State.dbError_kept _ _ hk
    · next h =>
      refine hk.setFn' f _ (fun w => w) (Fn.ringsOk_eq ⟨rfl, rfl⟩ fun w => ?_)
      exact ⟨((Fn.ringsOk_iff _).1 w).2.1, Nat.mod_lt _ (by decide), Nat.le_of_not_lt h⟩

theorem writePosCommit_kept {z s : State} (f : FnId) (v : BitVec 32) (hk : State.Kept z s) :
    State.Kept z (writePosCommit f v s) := by
  unfold writePosCommit; (try dsimp only)
  repeat' first | with_reducible assumption | with_reducible apply State.dbError_kept | with_reducible apply State.Kept.ite | with_reducible apply State.Kept.modMail | (intro _; rfl)

theorem writeDmaCtrl_kept {z s : State} (f : FnId) (v : BitVec 32) (hk : State.Kept z s) :
    State.Kept z (writeDmaCtrl f v s) := by
  unfold writeDmaCtrl
  repeat' first | with_reducible assumption | with_reducible apply State.dbError_kept | with_reducible apply State.Kept.ite | with_reducible apply State.Kept.modMail | (intro _; rfl)

theorem State.flushPba_kept {z s : State} (f : FnId) (hk : State.Kept z s) :
    State.Kept z (State.flushPba s f) := by
  unfold State.flushPba; (try dsimp only)
  repeat' first | with_reducible assumption | with_reducible apply State.signal_kept | with_reducible apply State.Kept.ite | with_reducible apply State.Kept.modMail | with_reducible apply State.Kept.foldl | (intro _ _ _) | (intro _; rfl)

theorem writeIntMask_kept {z s : State} (f : FnId) (v : Nat) (hk : State.Kept z s) :
    State.Kept z (writeIntMask f v s) := by
  unfold writeIntMask; (try dsimp only)
  repeat' first | with_reducible assumption | with_reducible apply State.signal_kept | with_reducible apply State.Kept.setFn | with_reducible apply State.Kept.foldl | (intro _ _ _) | exact Eq.refl _

theorem writeBar2_kept {z s : State} (f : FnId) (off : Nat) (bytes : List Byte) (hk : State.Kept z s) :
    State.Kept z (writeBar2 f off bytes s) := by
  unfold writeBar2; (try dsimp only)
  repeat' first | with_reducible assumption | with_reducible apply State.dbError_kept | with_reducible apply State.dbErrorSlot_kept | with_reducible apply State.Kept.ite | with_reducible refine State.Kept.write ?_ _ _ _ _ (fun _ => rfl)

/-- A function-level reset empties both rings. -/
theorem State.flr_kept {z s : State} (f : FnId) (hk : State.Kept z s) : State.Kept z (s.flr f) := by
  unfold State.flr
  refine State.notify_kept _ _ (hk.setFn' f _ (fun w => w) fun _ => by simp [Fn.ringsOk, ringUsed])

theorem State.train_kept {z s : State}  (hk : State.Kept z s) :
    State.Kept z (State.train s) := by
  unfold State.train; (try dsimp only)
  repeat' first | with_reducible assumption | with_reducible apply State.Kept.fresh | with_reducible apply State.Kept.plinth

theorem State.loseFn_kept {z s : State} (f : FnId) (hk : State.Kept z s) :
    State.Kept z (State.loseFn s f) := by
  unfold State.loseFn; (try dsimp only)
  repeat' first | with_reducible assumption | with_reducible apply State.final_kept | with_reducible apply State.Kept.modMail | with_reducible apply State.Kept.foldl | (intro _ _ _) | (intro _; rfl)

end Sys2Proof.Machine
end

