-- ==== Sys2Proof/Laws/KeptUnits.lean ====
section
/-! SUPPORT. What no operation disturbs (`State.Kept`): the operations of the units. -/

namespace Sys2Proof.Machine

/-! Scene. -/
theorem applyCommit_kept {z s : State} (f : FnId) (hk : State.Kept z s) :
    State.Kept z (applyCommit f s) := by
  unfold applyCommit; (try dsimp only)
  repeat' first | with_reducible assumption | with_reducible apply State.sceneEvent_kept | with_reducible apply State.journalPush_kept | with_reducible apply State.event_kept | with_reducible apply State.raise_kept | with_reducible apply State.Kept.ite | with_reducible apply State.Kept.setLeaf | with_reducible apply State.Kept.modFn | with_reducible apply State.Kept.foldl | (intro _ _ _) | (intro _; rfl) | split

theorem State.onLeaf_kept {z s : State} (l : LeafId) (g : Leaf → Leaf × List Ev) (hk : State.Kept z s) :
    State.Kept z (State.onLeaf s l g) := by
  unfold State.onLeaf; (try dsimp only)
  repeat' first | with_reducible assumption | with_reducible apply State.leafEvent_kept | with_reducible apply State.Kept.setLeaf | with_reducible apply State.Kept.foldl | (intro _ _ _)

/-! Chain. -/
theorem withFeeds_kept {s0 s : State} (ok : State → Cmd → Bool) (run : Cmd → Bool → List Byte → State → Eff)
    (hr : ∀ c p d s0 s, State.Kept s0 s → State.Kept s0 (run c p d s).s) (c : Cmd) (p : Bool) (d : List Byte)
    (h : State.Kept s0 s) : State.Kept s0 (withFeeds ok run c p d s).s := by
  unfold withFeeds; split
  · exact hr _ _ _ _ _ h
  · exact h

theorem onBank_kept {z s : State} (c : Cmd) (f : Bank → Bank) (hk : State.Kept z s) :
    State.Kept z (onBank c f s) := by
  unfold onBank; (try dsimp only)
  repeat' first | with_reducible assumption | with_reducible apply State.Kept.modLeaf | with_reducible apply State.Kept.foldl | (intro _ _ _)

theorem State.leafStep_kept {z s : State} (l : LeafId) (g : Leaf → LEff) (hk : State.Kept z s) :
    State.Kept z (State.leafStep s l g) := by
  unfold State.leafStep; (try dsimp only)
  repeat' first | with_reducible assumption | with_reducible apply State.leafEvent_kept | with_reducible apply State.final_kept | with_reducible apply State.Kept.ite | with_reducible apply State.Kept.setLeaf | with_reducible apply State.Kept.foldl | (intro _ _ _)

/-! Clips. -/
theorem onClip_kept {z s : State} (c : Cmd) (f : Clip → Clip) (hk : State.Kept z s) :
    State.Kept z (onClip c f s) := by
  unfold onClip; (try dsimp only)
  repeat' first | with_reducible assumption | with_reducible apply State.Kept.modLeaf | with_reducible apply State.Kept.foldl | (intro _ _ _)

/-! Alloc. -/
theorem State.noteReports_kept {z s : State} (l : LeafId) (reps : List NoteRep) (hk : State.Kept z s) :
    State.Kept z (State.noteReports s l reps) := by
  unfold State.noteReports; (try dsimp only)
  repeat' first | with_reducible assumption | with_reducible apply State.leafEvent_kept | with_reducible apply State.reportOn_kept | with_reducible apply State.Kept.ite | with_reducible apply State.Kept.foldl | (intro _ _ _)

theorem State.noteStep_kept {z s : State} (l : LeafId) (hk : State.Kept z s) :
    State.Kept z (State.noteStep s l) := by
  unfold State.noteStep; (try dsimp only)
  repeat' first | with_reducible assumption | with_reducible apply State.leafStep_kept | with_reducible apply State.noteReports_kept | with_reducible apply State.Kept.ite

theorem onWave_kept {z s : State} (c : Cmd) (f : Wave → Wave) (hk : State.Kept z s) :
    State.Kept z (onWave c f s) := by
  unfold onWave; (try dsimp only)
  repeat' first | with_reducible assumption | with_reducible apply State.Kept.modLeaf | with_reducible apply State.Kept.foldl | (intro _ _ _)

/-! Measure. -/
theorem State.mirrorRun_kept {z s : State} (l : LeafId) (hk : State.Kept z s) :
    State.Kept z (State.mirrorRun s l) := by
  unfold State.mirrorRun
  repeat' first | with_reducible assumption | with_reducible apply State.Kept.ite | with_reducible apply State.Kept.modLeaf | split

theorem State.measFinish_kept {z s : State} (l : LeafId) (hk : State.Kept z s) :
    State.Kept z (State.measFinish s l) := by
  unfold State.measFinish; (try dsimp only)
  repeat' first | with_reducible assumption | with_reducible apply State.mirrorRun_kept | with_reducible apply State.final_kept | with_reducible apply State.leafEvent_kept | with_reducible apply State.Kept.ite | with_reducible apply State.Kept.modLeaf | split

theorem State.runStep_kept {z s : State} (l : LeafId) (g : State → State) (hg : ∀ s0 s, State.Kept s0 s → State.Kept s0 (g s)) (hk : State.Kept z s) :
    State.Kept z (State.runStep s l g) := by
  unfold State.runStep
  repeat' first | with_reducible assumption | with_reducible apply hg | with_reducible apply State.eachScene_kept | with_reducible apply State.measFinish_kept | with_reducible apply State.mirrorRun_kept | (intro _ _ _)

theorem State.trackStep_kept {z s : State} (l : LeafId) (errs : List Rat) (hk : State.Kept z s) :
    State.Kept z (State.trackStep s l errs) := by
  unfold State.trackStep; (try dsimp only)
  repeat' first | with_reducible assumption | with_reducible apply State.leafEvent_kept | with_reducible apply State.Kept.ite | with_reducible apply State.Kept.modLeaf | with_reducible apply State.Kept.foldl | (intro _ _ _)

theorem notRunBank_kept {s0 s : State} (run : Cmd → Bool → List Byte → State → Eff)
    (hr : ∀ c p d s0 s, State.Kept s0 s → State.Kept s0 (run c p d s).s) (c : Cmd) (p : Bool) (d : List Byte)
    (h : State.Kept s0 s) : State.Kept s0 (notRunBank run c p d s).s := by
  unfold notRunBank; dsimp only
  (repeat' split) <;> first | exact h | exact hr _ _ _ _ _ h

/-! Net. -/
theorem State.modPort_kept {z s : State} (l : LeafId) (p : Nat) (f : Port → Port) (hk : State.Kept z s) :
    State.Kept z (State.modPort s l p f) := by
  unfold State.modPort
  repeat' first | with_reducible assumption | with_reducible apply State.Kept.modLeaf

theorem State.linkEvent_kept {z s : State} (l : LeafId) (p : Nat) (hk : State.Kept z s) :
    State.Kept z (State.linkEvent s l p) := by
  unfold State.linkEvent; (try dsimp only)
  repeat' first | with_reducible assumption | with_reducible apply State.leafEvent_kept

theorem State.linkDown_kept {z s : State} (l : LeafId) (p : Nat) (hk : State.Kept z s) :
    State.Kept z (State.linkDown s l p) := by
  unfold State.linkDown; (try dsimp only)
  repeat' first | with_reducible assumption | with_reducible apply State.linkEvent_kept | with_reducible apply State.modPort_kept | with_reducible apply State.Kept.ite

theorem State.wire_kept {z s : State} (l : LeafId) (p : Nat) (queue : Nat) (stream : Nat) (frame : List Byte) (hk : State.Kept z s) :
    State.Kept z (State.wire s l p queue stream frame) := by
  unfold State.wire
  repeat' first | with_reducible assumption | with_reducible apply State.Kept.send

theorem State.portSend_kept {z s : State} (l : LeafId) (p : Nat) (queue : Nat) (frame : List Byte) (stream : optParam Nat 0) (hk : State.Kept z s) :
    State.Kept z (State.portSend s l p queue frame stream) := by
  unfold State.portSend; (try dsimp only)
  repeat' first | with_reducible assumption | with_reducible apply State.modPort_kept | with_reducible apply State.wire_kept | with_reducible apply State.Kept.ite

theorem State.resumePort_kept {z s : State} (l : LeafId) (p : Nat) (hk : State.Kept z s) :
    State.Kept z (State.resumePort s l p) := by
  unfold State.resumePort; (try dsimp only)
  repeat' first | with_reducible assumption | with_reducible apply State.modPort_kept | with_reducible apply State.wire_kept | with_reducible apply State.Kept.foldl | (intro _ _ _)

theorem State.igmp_kept {z s : State} (l : LeafId) (p : Nat) (group : Nat) (join : Bool) (hk : State.Kept z s) :
    State.Kept z (State.igmp s l p group join) := by
  unfold State.igmp; (try dsimp only)
  repeat' first | with_reducible assumption | with_reducible apply State.portSend_kept

theorem State.arpAsk_kept {z s : State} (l : LeafId) (p : Nat) (ip : Nat) (hk : State.Kept z s) :
    State.Kept z (State.arpAsk s l p ip) := by
  unfold State.arpAsk; (try dsimp only)
  repeat' first | with_reducible assumption | with_reducible apply State.portSend_kept

theorem State.setJoined_kept {z s : State} (l : LeafId) (i : Nat) (p : Nat) (gs : List Nat) (hk : State.Kept z s) :
    State.Kept z (State.setJoined s l i p gs) := by
  unfold State.setJoined; (try dsimp only)
  repeat' first | with_reducible assumption | with_reducible apply State.igmp_kept | with_reducible apply State.Kept.modLeaf | with_reducible apply State.Kept.foldl | (intro _ _ _)

theorem State.settleGroups_kept {z s : State} (l : LeafId) (i : Nat) (hk : State.Kept z s) :
    State.Kept z (State.settleGroups s l i) := by
  unfold State.settleGroups; (try dsimp only)
  repeat' first | with_reducible assumption | with_reducible apply State.setJoined_kept | with_reducible apply State.Kept.foldl | (intro _ _ _)

theorem State.stageGroups_kept {z s : State} (l : LeafId) (i : Nat) (new : RxSet) (hk : State.Kept z s) :
    State.Kept z (State.stageGroups s l i new) := by
  unfold State.stageGroups
  repeat' first | with_reducible assumption | with_reducible apply State.setJoined_kept | with_reducible apply State.Kept.foldl | (intro _ _ _)

theorem State.modRing_kept {z s : State} (l : LeafId) (k : Nat) (f : HostRing → HostRing) (hk : State.Kept z s) :
    State.Kept z (State.modRing s l k f) := by
  unfold State.modRing; (try dsimp only)
  repeat' first | with_reducible assumption | with_reducible apply State.Kept.ite | with_reducible apply State.Kept.modLeaf

theorem State.hostWrite_kept {z s : State} (l : LeafId) (addr : Nat) (b : List Byte) (hk : State.Kept z s) :
    State.Kept z (State.hostWrite s l addr b) := by
  unfold State.hostWrite
  repeat' first | with_reducible assumption | with_reducible apply State.Kept.send

theorem State.ringEvent_kept {z s : State} (l : LeafId) (k : Nat) (hk : State.Kept z s) :
    State.Kept z (State.ringEvent s l k) := by
  unfold State.ringEvent; (try dsimp only)
  repeat' first | with_reducible assumption | with_reducible apply State.leafEvent_kept | with_reducible apply State.modRing_kept | with_reducible apply State.Kept.ite

theorem State.ringReturn_kept {z s : State} (l : LeafId) (k : Nat) (n : Nat) (hk : State.Kept z s) :
    State.Kept z (State.ringReturn s l k n) := by
  unfold State.ringReturn
  repeat' first | with_reducible assumption | with_reducible apply State.ringEvent_kept | with_reducible apply State.modRing_kept

theorem State.deliver_kept {z s : State} (l : LeafId) (port : Nat) (k : Nat) (filter : Nat) (frame : List Byte) (flags : Nat) (stamp : Nat) (hk : State.Kept z s) :
    State.Kept z (State.deliver s l port k filter frame flags stamp) := by
  unfold State.deliver; (try dsimp only)
  repeat' first | with_reducible assumption | with_reducible apply State.modPort_kept | with_reducible apply State.hostWrite_kept | with_reducible apply State.modRing_kept | with_reducible apply State.ringReturn_kept | with_reducible apply State.Kept.ite | with_reducible apply State.Kept.foldl | (intro _ _ _)

theorem State.control_kept {z s : State} (l : LeafId) (port : Nat) (f : Frame) (hk : State.Kept z s) :
    State.Kept z (State.control s l port f) := by
  unfold State.control; (try dsimp only)
  repeat' first | with_reducible assumption | with_reducible apply State.portSend_kept | with_reducible apply State.igmp_kept | with_reducible apply State.Kept.ite | with_reducible apply State.Kept.foldl | (intro _ _ _)

theorem State.pauseFrame_kept {z s : State} (l : LeafId) (port : Nat) (f : Frame) (hk : State.Kept z s) :
    State.Kept z (State.pauseFrame s l port f) := by
  unfold State.pauseFrame; (try dsimp only)
  repeat' first | with_reducible assumption | with_reducible apply State.resumePort_kept | with_reducible apply State.modPort_kept | with_reducible apply State.Kept.ite

theorem State.askDests_kept {z s : State} (l : LeafId) (i : Nat) (set : TxSet) (hk : State.Kept z s) :
    State.Kept z (State.askDests s l i set) := by
  unfold State.askDests
  repeat' first | with_reducible assumption | with_reducible apply State.arpAsk_kept | with_reducible apply State.Kept.ite | with_reducible apply State.Kept.modLeaf | with_reducible apply State.Kept.foldl | (intro _ _ _)

theorem State.releaseTx_kept {z s : State} (l : LeafId) (guest : Bool) (stream : Nat) (hk : State.Kept z s) :
    State.Kept z (State.releaseTx s l guest stream) := by
  unfold State.releaseTx; (try dsimp only)
  repeat' first | with_reducible assumption | with_reducible apply State.portSend_kept | with_reducible apply State.Kept.ite | with_reducible apply State.Kept.setLeaf | with_reducible apply State.Kept.foldl | (intro _ _ _) | split

theorem State.onServers_kept {z s : State} (f : FnId) (g : LeafId → State → State) (hg : ∀ l s0 s, State.Kept s0 s → State.Kept s0 (g l s)) (hk : State.Kept z s) :
    State.Kept z (State.onServers s f g) := by
  unfold State.onServers
  repeat' first | with_reducible assumption | with_reducible apply hg | with_reducible apply State.asGuest_kept | with_reducible apply State.Kept.ite | with_reducible apply State.Kept.foldl | (intro _ _ _)

theorem settleRx_kept {z s : State} (c : Cmd) (hk : State.Kept z s) :
    State.Kept z (settleRx c s) := by
  unfold settleRx
  repeat' first | with_reducible assumption | with_reducible apply State.onServers_kept | with_reducible apply State.settleGroups_kept | (intro _ _ _)

/-! Microcode. -/
theorem onAtt_kept {z s : State} (c : Cmd) (f : UcAtt → UcAtt) (hk : State.Kept z s) :
    State.Kept z (onAtt c f s) := by
  unfold onAtt; (try dsimp only)
  repeat' first | with_reducible assumption | with_reducible apply State.Kept.modLeaf | with_reducible apply State.Kept.foldl | (intro _ _ _)

/-! Clocks. -/
theorem State.shareTb_kept {z s : State} (l : LeafId) (i : Nat) (action : Nat) (theta : Rat) (hk : State.Kept z s) :
    State.Kept z (State.shareTb s l i action theta) := by
  unfold State.shareTb; (try dsimp only)
  repeat' first | with_reducible assumption | with_reducible apply State.Kept.modLeaf | with_reducible apply State.Kept.foldl | (intro _ _ _)

theorem State.tbSample_kept {z s : State} (l : LeafId) (i : Nat) (theta : Rat) (hk : State.Kept z s) :
    State.Kept z (State.tbSample s l i theta) := by
  unfold State.tbSample; (try dsimp only)
  repeat' first | with_reducible assumption | with_reducible apply State.shareTb_kept | with_reducible apply State.leafStep_kept | with_reducible apply State.reportOn_kept | with_reducible apply State.Kept.ite | with_reducible apply State.Kept.modLeaf

theorem State.decideTb_kept {z s : State} (l : LeafId) (i : Nat) (hk : State.Kept z s) :
    State.Kept z (State.decideTb s l i) := by
  unfold State.decideTb; (try dsimp only)
  repeat' first | with_reducible assumption | with_reducible apply State.leafEvent_kept | with_reducible apply State.shareTb_kept | with_reducible apply State.leafStep_kept | with_reducible apply State.Kept.ite | with_reducible apply State.Kept.modLeaf

theorem State.planTb_kept {z s : State} (l : LeafId) (i : Nat) (hk : State.Kept z s) :
    State.Kept z (State.planTb s l i) := by
  unfold State.planTb; (try dsimp only)
  repeat' first | with_reducible assumption | with_reducible apply State.leafStep_kept | with_reducible apply State.Kept.ite | split

theorem State.ptpSend_kept {z s : State} (l : LeafId) (i : Nat) (event : Bool) (peer : Bool) (msg : List Byte) (hk : State.Kept z s) :
    State.Kept z (State.ptpSend s l i event peer msg) := by
  unfold State.ptpSend; (try dsimp only)
  repeat' first | with_reducible assumption | with_reducible apply State.portSend_kept | with_reducible apply State.Kept.ite

/-! Coping. -/
theorem State.copSwitch_kept {z s : State} (new : Option LeafId) (hk : State.Kept z s) :
    State.Kept z (State.copSwitch s new) := by
  unfold State.copSwitch; (try dsimp only)
  repeat' first | with_reducible assumption | with_reducible apply State.modEvent_kept | with_reducible apply State.Kept.ite | with_reducible apply State.Kept.fresh | with_reducible apply State.Kept.copRed

theorem State.copStrobe_kept {z s : State}  (hk : State.Kept z s) :
    State.Kept z (State.copStrobe s) := by
  unfold State.copStrobe; (try dsimp only)
  repeat' first | with_reducible assumption | with_reducible apply State.copSwitch_kept | with_reducible apply State.modEvent_kept | with_reducible apply State.Kept.ite | with_reducible apply State.Kept.fresh | split | with_reducible apply State.Kept.copRed

theorem copStage_kept {z s : State} (c : Cmd) (x : Bool) (x2 : List Byte) (hk : State.Kept z s) :
    State.Kept z (copStage c x x2 s).s := by
  unfold copStage; (try dsimp only)
  repeat' first | with_reducible assumption | with_reducible apply State.Kept.copRed

/-! Ecc. -/
theorem State.modEcc_kept {z s : State} (l : LeafId) (f : Ecc → Ecc) (hk : State.Kept z s) :
    State.Kept z (State.modEcc s l f) := by
  unfold State.modEcc
  repeat' first | with_reducible assumption | with_reducible apply State.Kept.modLeaf

theorem State.eccEvent_kept {z s : State} (l : LeafId) (access : Nat) (course : Nat) (bank : Nat) (row : Nat) (slot : Nat) (hk : State.Kept z s) :
    State.Kept z (State.eccEvent s l access course bank row slot) := by
  unfold State.eccEvent
  repeat' first | with_reducible assumption | with_reducible apply State.reportOn_kept | with_reducible apply State.modEcc_kept

theorem State.abandonCommand_kept {z s : State} (f : FnId) (hk : State.Kept z s) :
    State.Kept z (State.abandonCommand s f) := by
  unfold State.abandonCommand
  repeat' first | with_reducible assumption | with_reducible apply State.final_kept | with_reducible apply State.Kept.modMail | (intro _; rfl) | split

theorem State.eccUncorrectable_kept {z s : State} (halt : FnId → Nat → State → State) (l : LeafId) (access : Nat) (course : Nat) (bank : Nat) (row : Nat) (slot : Nat) (feeds : List Nat) (again : Bool) (hh : ∀ f n s0 s, State.Kept s0 s → State.Kept s0 (halt f n s)) (hk : State.Kept z s) :
    State.Kept z (State.eccUncorrectable halt l access course bank row slot feeds again s) := by
  unfold State.eccUncorrectable; (try dsimp only)
  repeat' first | with_reducible assumption | with_reducible apply hh | with_reducible apply State.modEcc_kept | with_reducible apply State.eccEvent_kept | with_reducible apply State.abandonCommand_kept | with_reducible apply State.Kept.ite | with_reducible apply State.Kept.modLeaf | split

theorem State.repairRejected_kept {z s : State} (l : LeafId) (bank : Nat) (cause : Nat) (index : Nat) (hk : State.Kept z s) :
    State.Kept z (State.repairRejected s l bank cause index) := by
  unfold State.repairRejected
  repeat' first | with_reducible assumption | with_reducible apply State.leafEvent_kept

theorem State.weakEvent_kept {z s : State} (l : LeafId) (h : EccHit) (planned : Nat) (hk : State.Kept z s) :
    State.Kept z (State.weakEvent s l h planned) := by
  unfold State.weakEvent; (try dsimp only)
  repeat' first | with_reducible assumption | with_reducible apply State.leafEvent_kept | with_reducible apply State.Kept.ite

theorem State.markWeak_kept {z s : State} (l : LeafId) (h : EccHit) (hk : State.Kept z s) :
    State.Kept z (State.markWeak s l h) := by
  unfold State.markWeak; (try dsimp only)
  repeat' first | with_reducible assumption | with_reducible apply State.modEcc_kept | with_reducible apply State.weakEvent_kept

theorem State.endRepair_kept {z s : State} (l : LeafId) (status : Nat) (hk : State.Kept z s) :
    State.Kept z (State.endRepair s l status) := by
  unfold State.endRepair; (try dsimp only)
  repeat' first | with_reducible assumption | with_reducible apply State.final_kept | with_reducible apply State.Kept.modLeaf | with_reducible apply State.Kept.foldl | (intro _ _ _)

theorem State.busDecerr_kept {z s : State} (halt : FnId → Nat → State → State) (l : LeafId) (master : Nat) (unit : Nat) (addr : Nat) (hh : ∀ f n s0 s, State.Kept s0 s → State.Kept s0 (halt f n s)) (hk : State.Kept z s) :
    State.Kept z (State.busDecerr halt l master unit addr s) := by
  unfold State.busDecerr; (try dsimp only)
  repeat' first | with_reducible assumption | with_reducible apply hh | with_reducible apply State.modEcc_kept | with_reducible apply State.leafEvent_kept | with_reducible apply State.abandonCommand_kept | split

/-! Dram. -/
theorem State.dramTemp_kept {z s : State} (l : LeafId) (ch : Nat) (repaid : Nat) (sev : Nat) (hk : State.Kept z s) :
    State.Kept z (State.dramTemp s l ch repaid sev) := by
  unfold State.dramTemp; (try dsimp only)
  repeat' first | with_reducible assumption | with_reducible apply State.leafEvent_kept

theorem State.dramEcc_kept {z s : State} (halt : FnId → Nat → State → State) (l : LeafId) (master : Nat) (unit : Nat) (ch : Nat) (addr : Nat) (users : List (Nat × Nat)) (hh : ∀ f n s0 s, State.Kept s0 s → State.Kept s0 (halt f n s)) (hk : State.Kept z s) :
    State.Kept z (State.dramEcc halt l master unit ch addr users s) := by
  unfold State.dramEcc; (try dsimp only)
  repeat' first | with_reducible assumption | with_reducible apply hh | with_reducible apply State.abandonCommand_kept | with_reducible apply State.eccEvent_kept | with_reducible apply State.modEcc_kept | with_reducible apply State.reportOn_kept | with_reducible apply State.Kept.ite | with_reducible apply State.Kept.modLeaf | with_reducible apply State.Kept.foldl | (intro _ _ _) | split

/-! Restart. -/
theorem State.recount_kept {z s : State} (f : FnId) (hk : State.Kept z s) :
    State.Kept z (State.recount s f) := by
  unfold State.recount; (try dsimp only)
  repeat' first | with_reducible assumption | with_reducible apply State.Kept.modMail | (intro _; rfl)

end Sys2Proof.Machine
end

