-- ==== Sys2Proof/Laws/KeptPair.lean ====
section
/-! SUPPORT. What no operation disturbs (`State.Kept`): the operations on the pair of leaves, boot, diagnosis and rendering. -/

namespace Sys2Proof.Machine

/-! Redundancy. -/
theorem State.claimEvent_kept {z s : State} (l : LeafId) (old : Nat) (new : Nat) (cause : Nat) (tag : optParam Nat 0) (hk : State.Kept z s) :
    State.Kept z (State.claimEvent s l old new cause tag) := by
  unfold State.claimEvent
  repeat' first | with_reducible assumption | with_reducible apply State.modEvent_kept | with_reducible apply State.Kept.ite

theorem State.setClaim_kept {z s : State} (l : LeafId) (new : Nat) (cause : Nat) (tag : optParam Nat 0) (hk : State.Kept z s) :
    State.Kept z (State.setClaim s l new cause tag) := by
  unfold State.setClaim; (try dsimp only)
  repeat' first | with_reducible assumption | with_reducible apply State.claimEvent_kept | with_reducible apply State.Kept.modRed

theorem State.grant_kept {z s : State} (l : LeafId) (claim : Nat) (cause : Nat) (tag : optParam Nat 0) (after : optParam (Option Nat) none) (hk : State.Kept z s) :
    State.Kept z (State.grant s l claim cause tag after) := by
  unfold State.grant
  repeat' first | with_reducible assumption | with_reducible apply State.Kept.modRed

theorem State.moveClaims_kept {z s : State} (a : Nat) (b : Nat) (cause : Nat) (tag : Nat) (hk : State.Kept z s) :
    State.Kept z (State.moveClaims s a b cause tag) := by
  unfold State.moveClaims; (try dsimp only)
  repeat' first | with_reducible assumption | with_reducible apply State.grant_kept | with_reducible apply State.Kept.ite

theorem State.restoreClaim_kept {z s : State} (l : LeafId) (new : Nat) (cause : Nat) (tag : optParam Nat 0) (hk : State.Kept z s) :
    State.Kept z (State.restoreClaim s l new cause tag) := by
  unfold State.restoreClaim
  repeat' first | with_reducible assumption | with_reducible apply State.grant_kept | with_reducible apply State.setClaim_kept | with_reducible apply State.Kept.ite

theorem State.applyGrant_kept {z s : State} (l : LeafId) (hk : State.Kept z s) :
    State.Kept z (State.applyGrant s l) := by
  unfold State.applyGrant; (try dsimp only)
  repeat' first | with_reducible assumption | with_reducible apply State.setClaim_kept | with_reducible apply State.grant_kept | with_reducible apply State.notify_kept | with_reducible apply State.Kept.ite | split | with_reducible apply State.Kept.copRed

theorem State.claimReturn_kept {z s : State} (l : LeafId) (hk : State.Kept z s) :
    State.Kept z (State.claimReturn s l) := by
  unfold State.claimReturn; (try dsimp only)
  repeat' first | with_reducible assumption | with_reducible apply State.notify_kept | with_reducible apply State.restoreClaim_kept | with_reducible apply State.Kept.ite

theorem State.abortAll_kept {z s : State} (cs : List Cmd) (hk : State.Kept z s) :
    State.Kept z (State.abortAll s cs) := by
  unfold State.abortAll
  repeat' first | with_reducible assumption | with_reducible apply State.final_kept | with_reducible apply State.Kept.foldl | (intro _ _ _)

theorem State.takeWork_kept {z s : State} (l : LeafId) (hk : State.Kept z s) : State.Kept z (s.takeWork l).2 := by
  unfold State.takeWork; dsimp only
  exact hk.modLeaf _ _

theorem State.endWork_kept {z s : State} (l : LeafId) (hk : State.Kept z s) : State.Kept z (s.endWork l) :=
  State.abortAll_kept _ (State.takeWork_kept l hk)

theorem State.syncEvent_kept {z s : State} (op : Nat) (status : Nat) (us : Nat) (bytes : Nat) (tag : Nat) (hk : State.Kept z s) :
    State.Kept z (State.syncEvent s op status us bytes tag) := by
  unfold State.syncEvent
  repeat' first | with_reducible assumption | with_reducible apply State.modEvent_kept

theorem State.dropEntry_kept {z s : State}  (hk : State.Kept z s) :
    State.Kept z (State.dropEntry s) := by
  unfold State.dropEntry; (try dsimp only)
  repeat' first | with_reducible assumption | with_reducible apply State.syncEvent_kept | with_reducible apply State.final_kept | with_reducible apply State.Kept.modLeaf | split | with_reducible apply State.Kept.copRed

theorem State.dropSplit_kept {z s : State}  (hk : State.Kept z s) :
    State.Kept z (State.dropSplit s) := by
  unfold State.dropSplit; (try dsimp only)
  repeat' first | with_reducible assumption | with_reducible apply State.final_kept | split | with_reducible apply State.Kept.copRed

theorem State.dropSwap_kept {z s : State}  (hk : State.Kept z s) :
    State.Kept z (State.dropSwap s) := by
  unfold State.dropSwap; (try dsimp only)
  repeat' first | with_reducible assumption | with_reducible apply State.final_kept | split | with_reducible apply State.Kept.copRed

theorem State.dropLeave_kept {z s : State}  (hk : State.Kept z s) :
    State.Kept z (State.dropLeave s) := by
  unfold State.dropLeave; (try dsimp only)
  repeat' first | with_reducible assumption | with_reducible apply State.final_kept | split | with_reducible apply State.Kept.copRed

theorem State.markReplay_kept {z s : State} (f : FnId) (hk : State.Kept z s) :
    State.Kept z (State.markReplay s f) := by
  unfold State.markReplay; (try dsimp only)
  repeat' first | with_reducible assumption | with_reducible apply State.Kept.modMail | (intro _; rfl)

theorem State.takeoverEvent_kept {z s : State} (t : Takeover) (phase : Nat) (us : Nat) (muted : Nat) (left : Nat) (hk : State.Kept z s) :
    State.Kept z (State.takeoverEvent s t phase us muted left) := by
  unfold State.takeoverEvent
  repeat' first | with_reducible assumption | with_reducible apply State.modEvent_kept

theorem State.twinFails_kept {z s : State} (l : LeafId) (hk : State.Kept z s) :
    State.Kept z (State.twinFails s l) := by
  unfold State.twinFails; (try dsimp only)
  repeat' first | with_reducible assumption | with_reducible apply State.loseFn_kept | with_reducible apply State.markReplay_kept | with_reducible apply State.leafStep_kept | with_reducible apply State.grant_kept | with_reducible apply State.Kept.ite | with_reducible apply State.Kept.modRed | with_reducible apply State.Kept.copRed

theorem State.splitFails_kept {z s : State} (l : LeafId) (hk : State.Kept z s) :
    State.Kept z (State.splitFails s l) := by
  unfold State.splitFails; (try dsimp only)
  repeat' first | with_reducible assumption | with_reducible apply State.takeoverEvent_kept | with_reducible apply State.markReplay_kept | with_reducible apply State.grant_kept | with_reducible apply State.loseFn_kept | with_reducible apply State.Kept.ite | with_reducible apply State.Kept.modLeaf | with_reducible apply State.Kept.modRed | split | with_reducible apply State.Kept.copRed

theorem State.tieCut_kept {z s : State}  (hk : State.Kept z s) :
    State.Kept z (State.tieCut s) := by
  unfold State.tieCut; (try dsimp only)
  repeat' first | with_reducible assumption | with_reducible apply State.Kept.modRed | with_reducible apply State.Kept.copRed

theorem State.leafFails_kept {z s0 : State} (l : LeafId) (run : Nat) (hk : State.Kept z s0) :
    State.Kept z (s0.leafFails l run) := by
  have after : ∀ s : State, State.Kept z s → State.Kept z (match s.red.mode with
      | 0 => s.loseFn (s.fnOf l)
      | 1 => s.twinFails l
      | _ => s.splitFails l) := by
    intro s k
    split
    · exact State.loseFn_kept _ k
    · exact State.twinFails_kept _ k
    · exact State.splitFails_kept _ k
  have h : State.Kept z (((((s0.takeWork l).2.dropEntry.dropSplit.dropSwap.dropLeave).setClaim l 0 3).modLeaf l
      fun x => { x with run := run }).tieCut) :=
    State.tieCut_kept ((State.setClaim_kept l 0 3 0 (State.dropLeave_kept (State.dropSwap_kept (State.dropSplit_kept
      (State.dropEntry_kept (State.takeWork_kept l hk)))))).modLeaf l _)
  unfold State.leafFails
  refine State.notify_kept _ _ ?_
  split
  · exact after _ (State.abortAll_kept _ h)
  · exact State.abortAll_kept _ (after _ h)

theorem State.tieDown_kept {z s : State} (l : LeafId) (cause : Nat) (hk : State.Kept z s) :
    State.Kept z (State.tieDown s l cause) := by
  unfold State.tieDown; (try dsimp only)
  repeat' first | with_reducible assumption | with_reducible apply State.tieCut_kept | with_reducible apply State.modEvent_kept | with_reducible apply State.dropSplit_kept | with_reducible apply State.dropEntry_kept | with_reducible apply State.grant_kept | with_reducible apply State.Kept.ite | with_reducible apply State.Kept.copRed

theorem State.releaseAll_kept {z s : State} (l : LeafId) (hk : State.Kept z s) :
    State.Kept z (State.releaseAll s l) := by
  unfold State.releaseAll; (try dsimp only)
  repeat' first | with_reducible assumption | with_reducible apply State.releaseTx_kept | with_reducible apply State.Kept.foldl | (intro _ _ _)

theorem State.judge_kept {z s : State} (own : Msg) (peer : Msg) (l : LeafId) (hk : State.Kept z s) :
    State.Kept z (State.judge s own peer l) := by
  unfold State.judge; (try dsimp only)
  repeat' first | with_reducible assumption | with_reducible apply State.modEvent_kept | with_reducible apply State.dropSwap_kept | with_reducible apply State.grant_kept | with_reducible apply State.Kept.ite | with_reducible apply State.Kept.modRed | split | with_reducible apply State.Kept.copRed

theorem State.leaveGroups_kept {z s : State} (l : LeafId) (hk : State.Kept z s) :
    State.Kept z (State.leaveGroups s l) := by
  unfold State.leaveGroups
  repeat' first | with_reducible assumption | with_reducible apply State.setJoined_kept | with_reducible apply State.Kept.foldl | (intro _ _ _)

theorem State.askLegs_kept {z s : State} (l : LeafId) (hk : State.Kept z s) :
    State.Kept z (State.askLegs s l) := by
  unfold State.askLegs
  repeat' first | with_reducible assumption | with_reducible apply State.askDests_kept | with_reducible apply State.Kept.foldl | (intro _ _ _)

theorem State.rejoin_kept {z s : State} (l : LeafId) (hk : State.Kept z s) :
    State.Kept z (State.rejoin s l) := by
  unfold State.rejoin; (try dsimp only)
  repeat' first | with_reducible assumption | with_reducible apply State.askLegs_kept | with_reducible apply State.settleGroups_kept | with_reducible apply State.Kept.modLeaf | with_reducible apply State.Kept.foldl | (intro _ _ _)

theorem State.replayCommit_kept {z s : State} (j : Journal) (hk : State.Kept z s) :
    State.Kept z (State.replayCommit s j) := by
  unfold State.replayCommit; (try dsimp only)
  repeat' first | with_reducible assumption | with_reducible apply State.Kept.setLeaf | with_reducible apply State.Kept.foldl | (intro _ _ _)

theorem State.replayJournal_kept {z s : State} (rerun : Cmd → List Byte → State → State) (js : List Journal) (hr : ∀ c d s0 s, State.Kept s0 s → State.Kept s0 (rerun c d s)) (hk : State.Kept z s) :
    State.Kept z (State.replayJournal rerun s js) := by
  unfold State.replayJournal; (try dsimp only)
  repeat' first | with_reducible assumption | with_reducible apply hr | with_reducible apply State.replayCommit_kept | with_reducible apply State.Kept.ite | with_reducible apply State.Kept.modMail | with_reducible apply State.Kept.foldl | (intro _ _ _) | (intro _; rfl)

theorem State.finishLost_kept {z s : State} (l : LeafId) (cmds : List Cmd) (hk : State.Kept z s) :
    State.Kept z (State.finishLost s l cmds) := by
  unfold State.finishLost; (try dsimp only)
  repeat' first | with_reducible assumption | with_reducible apply State.final_kept | with_reducible apply State.Kept.modLeaf | with_reducible apply State.Kept.foldl | (intro _ _ _)

theorem State.splitRestore_kept {z s0 : State} (rerun : Cmd → List Byte → State → State) (l : LeafId) (hr : ∀ c d s0 s, State.Kept s0 s → State.Kept s0 (rerun c d s)) (hk : State.Kept z s0) :
    State.Kept z (State.splitRestore rerun l s0) := by
  unfold State.splitRestore; (try dsimp only)
  repeat' first | with_reducible assumption | with_reducible apply State.leafStep_kept | with_reducible apply State.noteReports_kept | with_reducible apply State.asGuest_kept | with_reducible apply State.replayJournal_kept | with_reducible apply State.rejoin_kept | with_reducible apply State.finishLost_kept | with_reducible apply State.recount_kept | with_reducible apply State.notify_kept | with_reducible apply State.takeoverEvent_kept | with_reducible apply State.Kept.ite | with_reducible apply State.Kept.setLeaf | with_reducible apply State.Kept.modRed | (intro _ _ _) | split | with_reducible apply State.Kept.copRed

theorem State.handBack_kept {z s0 : State} (e : Entry) (l : LeafId) (hk : State.Kept z s0) :
    State.Kept z (State.handBack s0 e l) := by
  unfold State.handBack; (try dsimp only)
  repeat' first | with_reducible assumption | with_reducible apply State.leafStep_kept | with_reducible apply State.rejoin_kept | with_reducible apply State.noteReports_kept | with_reducible apply State.setClaim_kept | with_reducible apply State.recount_kept | with_reducible apply State.final_kept | with_reducible apply State.notify_kept | with_reducible apply State.syncEvent_kept | with_reducible apply State.Kept.modLeaf | with_reducible apply State.Kept.setLeaf | with_reducible apply State.Kept.modRed | with_reducible apply State.Kept.fresh | split | with_reducible apply State.Kept.copRed

/-! Boot. -/
theorem State.resetLeaf_kept {z s0 : State} (l : LeafId) (hk : State.Kept z s0) :
    State.Kept z (State.resetLeaf s0 l) := by
  unfold State.resetLeaf; (try dsimp only)
  repeat' first | with_reducible assumption | with_reducible apply State.leafFails_kept | with_reducible apply State.endWork_kept | with_reducible apply State.notify_kept | with_reducible apply State.Kept.ite | with_reducible apply State.Kept.modLeaf | with_reducible apply State.Kept.modRed | with_reducible apply State.Kept.modFn | (intro _; rfl) | split | with_reducible apply State.Kept.copRed

theorem State.resetModule_kept {z s0 : State}  (hk : State.Kept z s0) :
    State.Kept z (State.resetModule s0) := by
  unfold State.resetModule; (try dsimp only)
  repeat' first | with_reducible assumption | with_reducible apply State.dropLeave_kept | with_reducible apply State.dropSwap_kept | with_reducible apply State.dropSplit_kept | with_reducible apply State.dropEntry_kept | with_reducible apply State.endWork_kept | with_reducible apply State.loseFn_kept | with_reducible apply State.notify_kept | with_reducible apply State.Kept.modLeaf | with_reducible apply State.Kept.modFn | (intro _; rfl) | with_reducible apply State.Kept.copRed

theorem State.resetBits_kept {z s : State} (v : Nat) (hk : State.Kept z s) :
    State.Kept z (State.resetBits s v) := by
  unfold State.resetBits; (try dsimp only)
  repeat' first | with_reducible assumption | with_reducible apply State.resetLeaf_kept | with_reducible apply State.Kept.ite | split | with_reducible apply State.Kept.copRed

theorem writeModReset_kept {z s : State} (v : BitVec 32) (hk : State.Kept z s) :
    State.Kept z (writeModReset v s) := by
  unfold writeModReset
  repeat' first | with_reducible assumption | with_reducible apply State.dbError_kept | with_reducible apply State.resetModule_kept | with_reducible apply State.resetBits_kept | with_reducible apply State.Kept.ite

theorem writeBar0_kept {z s : State} (f : FnId) (off : Nat) (v : Nat) (hk : State.Kept z s) :
    State.Kept z (writeBar0 f off v s) := by
  unfold writeBar0
  repeat' first | with_reducible assumption | with_reducible apply ringDoorbell_kept | with_reducible apply writeCqCons_kept | with_reducible apply writeEqCons_kept | with_reducible apply writePosCommit_kept | with_reducible apply writeIntMask_kept | with_reducible apply writeDmaCtrl_kept | with_reducible apply writeModReset_kept | with_reducible apply State.flushPba_kept | with_reducible apply State.Kept.ite | with_reducible apply State.Kept.modMail | with_reducible apply State.Kept.modFn | (intro _; rfl) | split

theorem State.bootFail_kept {z s : State} (l : LeafId) (step : Nat) (cause : Nat) (hk : State.Kept z s) :
    State.Kept z (State.bootFail s l step cause) := by
  unfold State.bootFail; (try dsimp only)
  repeat' first | with_reducible assumption | with_reducible apply State.endWork_kept | with_reducible apply State.notify_kept | with_reducible apply State.modEvent_kept | with_reducible apply State.Kept.modLeaf

/-! Diag. -/
theorem startTest_kept {z s : State} (free : State → Cmd → LeafId → Bool) (c : Cmd) (hk : State.Kept z s) :
    State.Kept z (startTest free c s).s := by
  unfold startTest; (try dsimp only)
  repeat' first | with_reducible assumption | with_reducible apply State.setClaim_kept | with_reducible apply State.notify_kept | with_reducible apply State.Kept.ite | with_reducible apply State.Kept.modLeaf | split

theorem State.bistLose_kept {z s : State} (f : FnId) (c : Cmd) (hk : State.Kept z s) :
    State.Kept z (State.bistLose s f c) := by
  unfold State.bistLose; (try dsimp only)
  repeat' first | with_reducible assumption | with_reducible apply State.final_kept | with_reducible apply State.Kept.modMail | with_reducible apply State.Kept.foldl | (intro _ _ _) | (intro _; rfl)

theorem State.lendBanks_kept {z s : State} (l : LeafId) (c : Cmd) (hk : State.Kept z s) :
    State.Kept z (State.lendBanks s l c) := by
  unfold State.lendBanks; (try dsimp only)
  repeat' first | with_reducible assumption | with_reducible apply State.Kept.modLeaf

theorem State.enterWeak_kept {z s : State} (l : LeafId) (w : Sys2Proof.TestWord) (hk : State.Kept z s) :
    State.Kept z (State.enterWeak s l w) := by
  unfold State.enterWeak; (try dsimp only)
  repeat' first | with_reducible assumption | with_reducible apply State.markWeak_kept | with_reducible apply State.modEcc_kept | with_reducible apply State.report_kept | with_reducible apply State.Kept.ite | split

/-! Twin. -/
theorem State.startEntry_kept {z s : State} (op : Nat) (src : LeafId) (copyStores : Bool) (at_ : Nat) (c : Cmd) (hk : State.Kept z s) :
    State.Kept z (State.startEntry s op src copyStores at_ c) := by
  unfold State.startEntry; (try dsimp only)
  repeat' first | with_reducible assumption | with_reducible apply State.setClaim_kept | split | with_reducible apply State.Kept.copRed

theorem State.homeClaims_kept {z s : State} (tag : Nat) (hk : State.Kept z s) :
    State.Kept z (State.homeClaims s tag) := by
  unfold State.homeClaims; (try dsimp only)
  repeat' first | with_reducible assumption | with_reducible apply State.moveClaims_kept

theorem State.toIndependent_kept {z s : State}  (hk : State.Kept z s) :
    State.Kept z (State.toIndependent s) := by
  unfold State.toIndependent; (try dsimp only)
  repeat' first | with_reducible assumption | with_reducible apply State.askLegs_kept | with_reducible apply State.loseFn_kept | with_reducible apply State.Kept.ite | with_reducible apply State.Kept.modLeaf | with_reducible apply State.Kept.modRed | with_reducible apply State.Kept.modFn | (intro _; rfl) | split | with_reducible apply State.Kept.copRed

theorem State.doLeave_kept {z s0 : State} (l : LeafId) (hk : State.Kept z s0) :
    State.Kept z (State.doLeave s0 l) := by
  unfold State.doLeave; (try dsimp only)
  repeat' first | with_reducible assumption | with_reducible apply State.toIndependent_kept | with_reducible apply State.notify_kept | with_reducible apply State.final_kept | with_reducible apply State.Kept.ite | split | with_reducible apply State.Kept.copRed

theorem State.doSwap_kept {z s0 : State}  (hk : State.Kept z s0) :
    State.Kept z (State.doSwap s0) := by
  unfold State.doSwap; (try dsimp only)
  repeat' first | with_reducible assumption | with_reducible apply State.final_kept | with_reducible apply State.claimEvent_kept | with_reducible apply State.notify_kept | with_reducible apply State.Kept.ite | with_reducible apply State.Kept.modRed | split | with_reducible apply State.Kept.copRed

/-! Render. -/
theorem State.solverReports_kept {z s : State} (l : LeafId) (reps : List (Nat × Nat × List Byte)) (hk : State.Kept z s) :
    State.Kept z (State.solverReports s l reps) := by
  unfold State.solverReports
  repeat' first | with_reducible assumption | with_reducible apply State.reportOn_kept | with_reducible apply State.Kept.foldl | (intro _ _ _)

end Sys2Proof.Machine
end

