-- ==== Sys2Proof/Laws/KeptSpecs.lean ====
section
/-! SUPPORT. What no operation disturbs (`State.Kept`): what each opcode's chapter stages, takes back and does. -/

namespace Sys2Proof.Machine

/-! Specs. -/
theorem specScnConfig_keeps : specScnConfig.Keeps := by
  constructor
  · intro c s0 s h; exact h
  · intro c s0 s h; exact h
  · intro c p d s0 s h; unfold specScnConfig; dsimp only
    repeat' first | with_reducible assumption | with_reducible apply onLeaves_kept

theorem specScnClear_keeps : specScnClear.Keeps := by
  constructor
  · intro c s0 s h; exact h
  · intro c s0 s h; exact h
  · intro c p d s0 s h; unfold specScnClear; dsimp only
    repeat' first | with_reducible assumption | with_reducible apply onLeaves_kept

theorem specObjConfig_keeps : specObjConfig.Keeps := by
  constructor
  · intro c s0 s h; exact h
  · intro c s0 s h; exact h
  · intro c p d s0 s h; unfold specObjConfig; dsimp only
    repeat' first | with_reducible assumption | with_reducible apply onLeaves_kept

theorem specObjEnable_keeps : specObjEnable.Keeps := by
  constructor
  · intro c s0 s h; exact h
  · intro c s0 s h; exact h
  · intro c p d s0 s h; unfold specObjEnable; dsimp only
    repeat' first | with_reducible assumption | with_reducible apply onLeaves_kept

theorem specObjSetPos_keeps : specObjSetPos.Keeps := by
  constructor
  · intro c s0 s h; exact h
  · intro c s0 s h; exact h
  · intro c p d s0 s h; unfold specObjSetPos; dsimp only
    repeat' first | with_reducible assumption | with_reducible apply onLeaves_kept

theorem specObjBed_keeps : specObjBed.Keeps := by
  constructor
  · intro c s0 s h; exact h
  · intro c s0 s h; exact h
  · intro c p d s0 s h; unfold specObjBed; dsimp only
    repeat' first | with_reducible assumption | with_reducible apply onLeaves_kept

theorem specObjAdmMap_keeps : specObjAdmMap.Keeps := by
  constructor
  · intro c s0 s h; exact h
  · intro c s0 s h; exact h
  · intro c p d s0 s h; unfold specObjAdmMap; dsimp only
    repeat' first | with_reducible assumption | with_reducible apply onLeaves_kept

theorem specObjQuery_keeps : specObjQuery.Keeps := by
  constructor
  · intro c s0 s h; exact h
  · intro c s0 s h; exact h
  · intro c p d s0 s h; unfold specObjQuery; dsimp only
    repeat' first | with_reducible assumption | with_reducible apply onLeaves_kept

theorem specLaySpeaker_keeps : specLaySpeaker.Keeps := by
  constructor
  · intro c s0 s h; exact h
  · intro c s0 s h; exact h
  · intro c p d s0 s h; unfold specLaySpeaker; dsimp only
    repeat' first | with_reducible assumption | with_reducible apply onLeaves_kept

theorem specLaySegment_keeps : specLaySegment.Keeps := by
  constructor
  · intro c s0 s h; exact h
  · intro c s0 s h; exact h
  · intro c p d s0 s h; unfold specLaySegment; dsimp only
    repeat' first | with_reducible assumption | with_reducible apply onLeaves_kept

theorem specLayCommit_keeps : specLayCommit.Keeps := by
  constructor
  · intro c s0 s h; unfold specLayCommit; dsimp only
    repeat' first | with_reducible assumption | with_reducible apply State.Kept.modLeaf | with_reducible apply State.Kept.foldl | (intro _ _ _)
  · intro c s0 s h; exact h
  · intro c p d s0 s h; unfold specLayCommit; dsimp only
    repeat' first | with_reducible assumption | with_reducible apply onLeaves_kept

theorem specLayQuery_keeps : specLayQuery.Keeps := by
  constructor
  · intro c s0 s h; exact h
  · intro c s0 s h; exact h
  · intro c p d s0 s h; unfold specLayQuery; dsimp only
    repeat' first | with_reducible assumption | with_reducible apply onLeaves_kept

theorem specObjConfigAll_keeps : specObjConfigAll.Keeps := by
  constructor
  · intro c s0 s h; exact specObjConfig_keeps.stage c s0 s h
  · intro c s0 s h; exact specObjConfig_keeps.undo c s0 s h
  · intro c p d s0 s h; unfold specObjConfigAll; dsimp only; with_reducible apply onLeaves_kept; exact h

theorem specRndConfig_keeps : specRndConfig.Keeps := by
  constructor
  · intro c s0 s h; exact h
  · intro c s0 s h; exact h
  · intro c p d s0 s h; unfold specRndConfig; dsimp only
    repeat' first | with_reducible assumption | with_reducible apply onLeaves_kept

theorem specRndObjQuery_keeps : specRndObjQuery.Keeps := by
  constructor
  · intro c s0 s h; exact h
  · intro c s0 s h; exact h
  · intro c p d s0 s h; unfold specRndObjQuery; dsimp only
    repeat' first | with_reducible assumption | with_reducible apply onLeaves_kept

theorem specOutFeedConfig_keeps : specOutFeedConfig.Keeps := by
  constructor
  · intro c s0 s h; exact h
  · intro c s0 s h; exact h
  · intro c p d s0 s h; exact withFeeds_kept _ _ (fun _ _ _ _ _ h => onLeaves_kept _ _ _ _ h) _ _ _ h

theorem specOutBankLoad_keeps : specOutBankLoad.Keeps := by
  constructor
  · intro c s0 s h; unfold specOutBankLoad; dsimp only
    repeat' first | with_reducible assumption | with_reducible apply onBank_kept | with_reducible apply State.Kept.ite
  · intro c s0 s h; unfold specOutBankLoad; dsimp only
    repeat' first | with_reducible assumption | with_reducible apply onBank_kept
  · intro c p d s0 s h; unfold specOutBankLoad; dsimp only
    repeat' first | with_reducible assumption | with_reducible apply onBank_kept | with_reducible apply onLeaves_kept | split

theorem specOutBankSwap_keeps : specOutBankSwap.Keeps := by
  constructor
  · intro c s0 s h; exact h
  · intro c s0 s h; exact h
  · intro c p d s0 s h; unfold specOutBankSwap; dsimp only
    repeat' first | with_reducible assumption | with_reducible apply onLeaves_kept

theorem specOutSwapReserve_keeps : specOutSwapReserve.Keeps := by
  constructor
  · intro c s0 s h; exact h
  · intro c s0 s h; exact h
  · intro c p d s0 s h; unfold specOutSwapReserve; dsimp only
    repeat' first | with_reducible assumption | with_reducible apply onLeaves_kept

theorem specOutSceneDelay_keeps : specOutSceneDelay.Keeps := by
  constructor
  · intro c s0 s h; exact h
  · intro c s0 s h; exact h
  · intro c p d s0 s h; unfold specOutSceneDelay; dsimp only
    repeat' first | with_reducible assumption | with_reducible apply onLeaves_kept

theorem specOutFeedQuery_keeps : specOutFeedQuery.Keeps := by
  constructor
  · intro c s0 s h; exact h
  · intro c s0 s h; exact h
  · intro c p d s0 s h; unfold specOutFeedQuery; dsimp only
    repeat' first | with_reducible assumption | with_reducible apply onLeaves_kept

theorem specOutBankQuery_keeps : specOutBankQuery.Keeps := by
  constructor
  · intro c s0 s h; exact h
  · intro c s0 s h; exact h
  · intro c p d s0 s h; unfold specOutBankQuery; dsimp only
    repeat' first | with_reducible assumption | with_reducible apply onLeaves_kept

theorem specRteSource_keeps : specRteSource.Keeps := by
  constructor
  · intro c s0 s h; exact h
  · intro c s0 s h; exact h
  · intro c p d s0 s h; unfold specRteSource; dsimp only
    repeat' first | with_reducible assumption | with_reducible apply onLeaves_kept

theorem specRteEgress_keeps : specRteEgress.Keeps := by
  constructor
  · intro c s0 s h; exact h
  · intro c s0 s h; exact h
  · intro c p d s0 s h; unfold specRteEgress; dsimp only
    repeat' first | with_reducible assumption | with_reducible apply onLeaves_kept

theorem specRteBus_keeps : specRteBus.Keeps := by
  constructor
  · intro c s0 s h; exact h
  · intro c s0 s h; exact h
  · intro c p d s0 s h; unfold specRteBus; dsimp only
    repeat' first | with_reducible assumption | with_reducible apply onLeaves_kept

theorem specRteBridge_keeps : specRteBridge.Keeps := by
  constructor
  · intro c s0 s h; exact h
  · intro c s0 s h; exact h
  · intro c p d s0 s h; unfold specRteBridge; dsimp only
    repeat' first | with_reducible assumption | with_reducible apply onLeaves_kept

theorem specRteQuery_keeps : specRteQuery.Keeps := by
  constructor
  · intro c s0 s h; exact h
  · intro c s0 s h; exact h
  · intro c p d s0 s h; unfold specRteQuery; dsimp only
    repeat' first | with_reducible assumption | with_reducible apply onLeaves_kept

theorem specMtrConfig_keeps : specMtrConfig.Keeps := by
  constructor
  · intro c s0 s h; exact h
  · intro c s0 s h; exact h
  · intro c p d s0 s h; unfold specMtrConfig; dsimp only
    repeat' first | with_reducible assumption | with_reducible apply onLeaves_kept

theorem specMtrRead_keeps : specMtrRead.Keeps := by
  constructor
  · intro c s0 s h; exact h
  · intro c s0 s h; exact h
  · intro c p d s0 s h; unfold specMtrRead; dsimp only
    repeat' first | with_reducible assumption | with_reducible apply onLeaves_kept

theorem specClipLoad_keeps : specClipLoad.Keeps := by
  constructor
  · intro c s0 s h; unfold specClipLoad; dsimp only
    repeat' first | with_reducible assumption | with_reducible apply onClip_kept | with_reducible apply State.Kept.ite
  · intro c s0 s h; unfold specClipLoad; dsimp only
    repeat' first | with_reducible assumption | with_reducible apply onClip_kept
  · intro c p d s0 s h; unfold specClipLoad; dsimp only
    repeat' first | with_reducible assumption | with_reducible apply onLeaves_kept

theorem specClipCue_keeps : specClipCue.Keeps := by
  constructor
  · intro c s0 s h; exact h
  · intro c s0 s h; exact h
  · intro c p d s0 s h; unfold specClipCue; dsimp only
    repeat' first | with_reducible assumption | with_reducible apply onLeaves_kept

theorem specClipPlay_keeps : specClipPlay.Keeps := by
  constructor
  · intro c s0 s h; exact h
  · intro c s0 s h; exact h
  · intro c p d s0 s h; unfold specClipPlay; dsimp only
    repeat' first | with_reducible assumption | with_reducible apply onLeaves_kept

theorem specClipPause_keeps : specClipPause.Keeps := by
  constructor
  · intro c s0 s h; exact h
  · intro c s0 s h; exact h
  · intro c p d s0 s h; unfold specClipPause; dsimp only
    repeat' first | with_reducible assumption | with_reducible apply onLeaves_kept

theorem specClipStop_keeps : specClipStop.Keeps := by
  constructor
  · intro c s0 s h; exact h
  · intro c s0 s h; exact h
  · intro c p d s0 s h; unfold specClipStop; dsimp only
    repeat' first | with_reducible assumption | with_reducible apply onLeaves_kept

theorem specClipQuery_keeps : specClipQuery.Keeps := by
  constructor
  · intro c s0 s h; exact h
  · intro c s0 s h; exact h
  · intro c p d s0 s h; unfold specClipQuery; dsimp only
    repeat' first | with_reducible assumption | with_reducible apply onLeaves_kept

theorem specVoxConfig_keeps : specVoxConfig.Keeps := by
  constructor
  · intro c s0 s h; exact h
  · intro c s0 s h; exact h
  · intro c p d s0 s h; unfold specVoxConfig; dsimp only
    repeat' first | with_reducible assumption | with_reducible apply onLeaves_kept

theorem specVoxPool_keeps : specVoxPool.Keeps := by
  constructor
  · intro c s0 s h; exact h
  · intro c s0 s h; exact h
  · intro c p d s0 s h; unfold specVoxPool; dsimp only
    repeat' first | with_reducible assumption | with_reducible apply onLeaves_kept

theorem specVoxGroup_keeps : specVoxGroup.Keeps := by
  constructor
  · intro c s0 s h; exact h
  · intro c s0 s h; exact h
  · intro c p d s0 s h; unfold specVoxGroup; dsimp only
    repeat' first | with_reducible assumption | with_reducible apply onLeaves_kept

theorem specScnClearAll_keeps : specScnClearAll.Keeps := by
  constructor
  · intro c s0 s h; exact specScnClear_keeps.stage c s0 s h
  · intro c s0 s h; exact specScnClear_keeps.undo c s0 s h
  · intro c p d s0 s h; unfold specScnClearAll; dsimp only; with_reducible apply onLeaves_kept; exact h

theorem specObjBedAll_keeps : specObjBedAll.Keeps := by
  constructor
  · intro c s0 s h; exact specObjBed_keeps.stage c s0 s h
  · intro c s0 s h; exact specObjBed_keeps.undo c s0 s h
  · intro c p d s0 s h; unfold specObjBedAll; dsimp only; with_reducible apply onLeaves_kept; exact h

theorem specVoxPatchLoad_keeps : specVoxPatchLoad.Keeps := by
  constructor
  · intro c s0 s h; exact h
  · intro c s0 s h; exact h
  · intro c p d s0 s h; unfold specVoxPatchLoad; dsimp only
    repeat' first | with_reducible assumption | with_reducible apply onLeaves_kept

theorem specVoxWaveLoad_keeps : specVoxWaveLoad.Keeps := by
  constructor
  · intro c s0 s h; unfold specVoxWaveLoad; dsimp only
    repeat' first | with_reducible assumption | with_reducible apply onWave_kept | with_reducible apply State.Kept.ite
  · intro c s0 s h; unfold specVoxWaveLoad; dsimp only
    repeat' first | with_reducible assumption | with_reducible apply onWave_kept
  · intro c p d s0 s h; unfold specVoxWaveLoad; dsimp only
    repeat' first | with_reducible assumption | with_reducible apply onWave_kept | with_reducible apply onLeaves_kept | split

theorem specNoteEvents_keeps : specNoteEvents.Keeps := by
  constructor
  · intro c s0 s h; exact h
  · intro c s0 s h; exact h
  · intro c p d s0 s h; unfold specNoteEvents; dsimp only
    repeat' first | with_reducible assumption | with_reducible apply onLeaves_kept

theorem specNoteUmp_keeps : specNoteUmp.Keeps := by
  constructor
  · intro c s0 s h; exact h
  · intro c s0 s h; exact h
  · intro c p d s0 s h; unfold specNoteUmp; dsimp only
    repeat' first | with_reducible assumption | with_reducible apply onLeaves_kept

theorem specVoxChannelMap_keeps : specVoxChannelMap.Keeps := by
  constructor
  · intro c s0 s h; exact h
  · intro c s0 s h; exact h
  · intro c p d s0 s h; unfold specVoxChannelMap; dsimp only
    repeat' first | with_reducible assumption | with_reducible apply onLeaves_kept

theorem specVoxQuery_keeps : specVoxQuery.Keeps := by
  constructor
  · intro c s0 s h; exact h
  · intro c s0 s h; exact h
  · intro c p d s0 s h; unfold specVoxQuery; dsimp only
    repeat' first | with_reducible assumption | with_reducible apply onLeaves_kept

theorem specMeasTarget_keeps : specMeasTarget.Keeps := by
  constructor
  · intro c s0 s h; exact h
  · intro c s0 s h; exact h
  · intro c p d s0 s h; unfold specMeasTarget; dsimp only
    repeat' first | with_reducible assumption | with_reducible apply onLeaves_kept

theorem specMeasStart_keeps : specMeasStart.Keeps := by
  constructor
  · intro c s0 s h; exact h
  · intro c s0 s h; exact h
  · intro c p d s0 s h; unfold specMeasStart; dsimp only
    repeat' first | with_reducible assumption | with_reducible apply onLeaves_kept | split

theorem specMeasAbort_keeps : specMeasAbort.Keeps := by
  constructor
  · intro c s0 s h; exact h
  · intro c s0 s h; exact h
  · intro c p d s0 s h; unfold specMeasAbort; dsimp only
    repeat' first | with_reducible assumption | with_reducible apply onLeaves_kept

theorem specMeasQuery_keeps : specMeasQuery.Keeps := by
  constructor
  · intro c s0 s h; exact h
  · intro c s0 s h; exact h
  · intro c p d s0 s h; unfold specMeasQuery; dsimp only
    repeat' first | with_reducible assumption | with_reducible apply onLeaves_kept

theorem specMeasResult_keeps : specMeasResult.Keeps := by
  constructor
  · intro c s0 s h; exact h
  · intro c s0 s h; exact h
  · intro c p d s0 s h; unfold specMeasResult; dsimp only
    repeat' first | with_reducible assumption | with_reducible apply onLeaves_kept

theorem specTrkConfig_keeps : specTrkConfig.Keeps := by
  constructor
  · intro c s0 s h; exact h
  · intro c s0 s h; exact h
  · intro c p d s0 s h; exact withFeeds_kept _ _ (fun _ _ _ _ _ h => onLeaves_kept _ _ _ _ h) _ _ _ h

theorem specTrkBaseline_keeps : specTrkBaseline.Keeps := by
  constructor
  · intro c s0 s h; exact h
  · intro c s0 s h; exact h
  · intro c p d s0 s h; unfold specTrkBaseline; dsimp only
    repeat' first | with_reducible assumption | with_reducible apply onLeaves_kept

theorem specTrkQuery_keeps : specTrkQuery.Keeps := by
  constructor
  · intro c s0 s h; exact h
  · intro c s0 s h; exact h
  · intro c p d s0 s h; unfold specTrkQuery; dsimp only
    repeat' first | with_reducible assumption | with_reducible apply onLeaves_kept

theorem specOutBankLoadAll_keeps : specOutBankLoadAll.Keeps := by
  constructor
  · intro c s0 s h; exact specOutBankLoad_keeps.stage c s0 s h
  · intro c s0 s h; exact specOutBankLoad_keeps.undo c s0 s h
  · intro c p d s0 s h; exact notRunBank_kept _ specOutBankLoad_keeps.run _ _ _ h

theorem specOutBankSwapAll_keeps : specOutBankSwapAll.Keeps := by
  constructor
  · intro c s0 s h; exact specOutBankSwap_keeps.stage c s0 s h
  · intro c s0 s h; exact specOutBankSwap_keeps.undo c s0 s h
  · intro c p d s0 s h; exact notRunBank_kept _ specOutBankSwap_keeps.run _ _ _ h

theorem specMicClock_keeps : specMicClock.Keeps := by
  constructor
  · intro c s0 s h; exact h
  · intro c s0 s h; exact h
  · intro c p d s0 s h; unfold specMicClock; dsimp only
    repeat' first | with_reducible assumption | with_reducible apply onLeaves_kept

theorem specMicEnable_keeps : specMicEnable.Keeps := by
  constructor
  · intro c s0 s h; exact h
  · intro c s0 s h; exact h
  · intro c p d s0 s h; unfold specMicEnable; dsimp only
    repeat' first | with_reducible assumption | with_reducible apply onLeaves_kept

theorem specMicConfig_keeps : specMicConfig.Keeps := by
  constructor
  · intro c s0 s h; exact h
  · intro c s0 s h; exact h
  · intro c p d s0 s h; unfold specMicConfig; dsimp only
    repeat' first | with_reducible assumption | with_reducible apply onLeaves_kept

theorem specMicRead_keeps : specMicRead.Keeps := by
  constructor
  · intro c s0 s h; exact h
  · intro c s0 s h; exact h
  · intro c p d s0 s h; unfold specMicRead; dsimp only
    repeat' first | with_reducible assumption | with_reducible apply onLeaves_kept

theorem specMicQuery_keeps : specMicQuery.Keeps := by
  constructor
  · intro c s0 s h; exact h
  · intro c s0 s h; exact h
  · intro c p d s0 s h; unfold specMicQuery; dsimp only
    repeat' first | with_reducible assumption | with_reducible apply onLeaves_kept

theorem specNetPort_keeps : specNetPort.Keeps := by
  constructor
  · intro c s0 s h; exact h
  · intro c s0 s h; exact h
  · intro c p d s0 s h; unfold specNetPort; dsimp only
    repeat' first | with_reducible assumption | with_reducible apply State.linkDown_kept | with_reducible apply State.modPort_kept | with_reducible apply onLeaves_kept | with_reducible apply State.Kept.ite | with_reducible apply State.Kept.foldl | (intro _ _ _) | split

theorem specNetRing_keeps : specNetRing.Keeps := by
  constructor
  · intro c s0 s h; exact h
  · intro c s0 s h; exact h
  · intro c p d s0 s h; unfold specNetRing; dsimp only
    repeat' first | with_reducible assumption | with_reducible apply onLeaves_kept

theorem specNetFilter_keeps : specNetFilter.Keeps := by
  constructor
  · intro c s0 s h; exact h
  · intro c s0 s h; exact h
  · intro c p d s0 s h; unfold specNetFilter; dsimp only
    repeat' first | with_reducible assumption | with_reducible apply onLeaves_kept

theorem specNetRxStream_keeps : specNetRxStream.Keeps := by
  constructor
  · intro c s0 s h; unfold specNetRxStream; dsimp only
    repeat' first | with_reducible assumption | with_reducible apply State.onServers_kept | with_reducible apply State.stageGroups_kept | with_reducible apply State.Kept.ite | (intro _ _ _)
  · intro c s0 s h; unfold specNetRxStream; dsimp only
    repeat' first | with_reducible assumption | with_reducible apply settleRx_kept
  · intro c p d s0 s h; unfold specNetRxStream; dsimp only
    repeat' first | with_reducible assumption | with_reducible apply settleRx_kept | with_reducible apply onLeaves_kept

theorem specNetTxStream_keeps : specNetTxStream.Keeps := by
  constructor
  · intro c s0 s h; unfold specNetTxStream; dsimp only
    repeat' first | with_reducible assumption | with_reducible apply State.askDests_kept | with_reducible apply State.onServers_kept | with_reducible apply State.Kept.ite | (intro _ _ _)
  · intro c s0 s h; exact h
  · intro c p d s0 s h; unfold specNetTxStream; dsimp only
    repeat' first | with_reducible assumption | with_reducible apply onLeaves_kept

theorem specNetQuery_keeps : specNetQuery.Keeps := by
  constructor
  · intro c s0 s h; exact h
  · intro c s0 s h; exact h
  · intro c p d s0 s h; unfold specNetQuery; dsimp only
    repeat' first | with_reducible assumption | with_reducible apply onLeaves_kept | split

theorem specNetStreamQuery_keeps : specNetStreamQuery.Keeps := by
  constructor
  · intro c s0 s h; exact h
  · intro c s0 s h; exact h
  · intro c p d s0 s h; unfold specNetStreamQuery; dsimp only
    repeat' first | with_reducible assumption | with_reducible apply onLeaves_kept

theorem specUcLoad_keeps : specUcLoad.Keeps := by
  constructor
  · intro c s0 s h; exact h
  · intro c s0 s h; exact h
  · intro c p d s0 s h; unfold specUcLoad; dsimp only
    repeat' first | with_reducible assumption | with_reducible apply onLeaves_kept

theorem specUcAttach_keeps : specUcAttach.Keeps := by
  constructor
  · intro c s0 s h; exact h
  · intro c s0 s h; exact h
  · intro c p d s0 s h; unfold specUcAttach; dsimp only
    repeat' first | with_reducible assumption | with_reducible apply onLeaves_kept

theorem specUcParam_keeps : specUcParam.Keeps := by
  constructor
  · intro c s0 s h; unfold specUcParam; dsimp only
    repeat' first | with_reducible assumption | with_reducible apply onAtt_kept
  · intro c s0 s h; unfold specUcParam; dsimp only
    repeat' first | with_reducible assumption | with_reducible apply onAtt_kept
  · intro c p d s0 s h; unfold specUcParam; dsimp only
    repeat' first | with_reducible assumption | with_reducible apply onLeaves_kept

theorem specUcQuery_keeps : specUcQuery.Keeps := by
  constructor
  · intro c s0 s h; exact h
  · intro c s0 s h; exact h
  · intro c p d s0 s h; unfold specUcQuery; dsimp only
    repeat' first | with_reducible assumption | with_reducible apply onLeaves_kept

theorem specClkTbSource_keeps : specClkTbSource.Keeps := by
  constructor
  · intro c s0 s h; exact h
  · intro c s0 s h; exact h
  · intro c p d s0 s h; unfold specClkTbSource; dsimp only
    repeat' first | with_reducible assumption | with_reducible apply onLeaves_kept

theorem specClkServo_keeps : specClkServo.Keeps := by
  constructor
  · intro c s0 s h; exact h
  · intro c s0 s h; exact h
  · intro c p d s0 s h; unfold specClkServo; dsimp only
    repeat' first | with_reducible assumption | with_reducible apply onLeaves_kept

theorem specClkTbAction_keeps : specClkTbAction.Keeps := by
  constructor
  · intro c s0 s h; exact h
  · intro c s0 s h; exact h
  · intro c p d s0 s h; unfold specClkTbAction; dsimp only
    repeat' first | with_reducible assumption | with_reducible apply onLeaves_kept

theorem specClkVcxo_keeps : specClkVcxo.Keeps := by
  constructor
  · intro c s0 s h; exact h
  · intro c s0 s h; exact h
  · intro c p d s0 s h; unfold specClkVcxo; dsimp only
    repeat' first | with_reducible assumption | with_reducible apply onLeaves_kept

theorem specClkPll_keeps : specClkPll.Keeps := by
  constructor
  · intro c s0 s h; exact h
  · intro c s0 s h; exact h
  · intro c p d s0 s h; unfold specClkPll; dsimp only
    repeat' first | with_reducible assumption | with_reducible apply onLeaves_kept

theorem specClkTbQuery_keeps : specClkTbQuery.Keeps := by
  constructor
  · intro c s0 s h; exact h
  · intro c s0 s h; exact h
  · intro c p d s0 s h; unfold specClkTbQuery; dsimp only
    repeat' first | with_reducible assumption | with_reducible apply onLeaves_kept

theorem specClkPllQuery_keeps : specClkPllQuery.Keeps := by
  constructor
  · intro c s0 s h; exact h
  · intro c s0 s h; exact h
  · intro c p d s0 s h; unfold specClkPllQuery; dsimp only
    repeat' first | with_reducible assumption | with_reducible apply onLeaves_kept

theorem specCopOutConfig_keeps : specCopOutConfig.Keeps := by
  constructor
  · intro c s0 s h; exact h
  · intro c s0 s h; exact h
  · intro c p d s0 s h; unfold specCopOutConfig; dsimp only
    repeat' first | with_reducible assumption | with_reducible apply copStage_kept

theorem specCopCvConfig_keeps : specCopCvConfig.Keeps := by
  constructor
  · intro c s0 s h; exact h
  · intro c s0 s h; exact h
  · intro c p d s0 s h; unfold specCopCvConfig; dsimp only
    repeat' first | with_reducible assumption | with_reducible apply copStage_kept

theorem specCopMute_keeps : specCopMute.Keeps := by
  constructor
  · intro c s0 s h; exact h
  · intro c s0 s h; exact h
  · intro c p d s0 s h; unfold specCopMute; dsimp only
    repeat' first | with_reducible assumption | with_reducible apply copStage_kept

theorem specCopQuery_keeps : specCopQuery.Keeps := by
  constructor
  · intro c s0 s h; exact h
  · intro c s0 s h; exact h
  · intro c p d s0 s h; unfold specCopQuery; dsimp only
    repeat' first | with_reducible assumption

theorem specRteDomain_keeps : specRteDomain.Keeps := by
  constructor
  · intro c s0 s h; exact h
  · intro c s0 s h; exact h
  · intro c p d s0 s h; unfold specRteDomain; dsimp only
    repeat' first | with_reducible assumption | with_reducible apply State.recount_kept | with_reducible apply onLeaves_kept | split

theorem specSysBootLoad_keeps : specSysBootLoad.Keeps := by
  constructor
  · intro c s0 s h; unfold specSysBootLoad; dsimp only
    repeat' first | with_reducible assumption | with_reducible apply State.Kept.modLeaf
  · intro c s0 s h; unfold specSysBootLoad; dsimp only
    repeat' first | with_reducible assumption | with_reducible apply State.Kept.modLeaf
  · intro c p d s0 s h; unfold specSysBootLoad; dsimp only
    repeat' first | with_reducible assumption | with_reducible apply State.Kept.modLeaf | split

theorem specSysFwUpdate_keeps : specSysFwUpdate.Keeps := by
  constructor
  · intro c s0 s h; unfold specSysFwUpdate; dsimp only
    repeat' first | with_reducible assumption | with_reducible apply State.Kept.modLeaf
  · intro c s0 s h; unfold specSysFwUpdate; dsimp only
    repeat' first | with_reducible assumption | with_reducible apply State.Kept.modLeaf
  · intro c p d s0 s h; unfold specSysFwUpdate; dsimp only
    repeat' first | with_reducible assumption | with_reducible apply State.Kept.modLeaf | split

theorem specSysCaps_keeps : specSysCaps.Keeps := by
  constructor
  · intro c s0 s h; exact h
  · intro c s0 s h; exact h
  · intro c p d s0 s h; unfold specSysCaps; dsimp only
    repeat' first | with_reducible assumption | with_reducible apply State.notify_kept | with_reducible apply State.Kept.modFn | (intro _; rfl)

theorem specSysCancel_keeps (undo : Cmd → State → State) (hu : ∀ c s0 s, State.Kept s0 s → State.Kept s0 (undo c s)) : (specSysCancel undo).Keeps := by
  constructor
  · intro _ _ _ h; exact h
  · intro _ _ _ h; exact h
  · intro c p d s0 s h; unfold specSysCancel; dsimp only
    repeat' first | with_reducible apply hu | with_reducible assumption | with_reducible apply State.final_kept | with_reducible apply State.Kept.modMail | with_reducible apply State.Kept.foldl | (intro _ _ _) | (intro _; rfl) | split

theorem specTstBist_keeps : specTstBist.Keeps := by
  constructor
  · intro c s0 s h; exact h
  · intro c s0 s h; exact h
  · intro c p d s0 s h; unfold specTstBist; dsimp only
    repeat' first | with_reducible assumption | with_reducible apply State.bistLose_kept | with_reducible apply startTest_kept | split

theorem specTstMarch_keeps : specTstMarch.Keeps := by
  constructor
  · intro c s0 s h; exact h
  · intro c s0 s h; exact h
  · intro c p d s0 s h; unfold specTstMarch; dsimp only
    repeat' first | with_reducible assumption | with_reducible apply State.lendBanks_kept | with_reducible apply startTest_kept | split

theorem specTstDramSweep_keeps : specTstDramSweep.Keeps := by
  constructor
  · intro c s0 s h; exact h
  · intro c s0 s h; exact h
  · intro c p d s0 s h; unfold specTstDramSweep; dsimp only
    repeat' first | with_reducible assumption | with_reducible apply startTest_kept

theorem specTstDramFreq_keeps : specTstDramFreq.Keeps := by
  constructor
  · intro c s0 s h; exact h
  · intro c s0 s h; exact h
  · intro c p d s0 s h; unfold specTstDramFreq; dsimp only
    repeat' first | with_reducible assumption | with_reducible apply startTest_kept | with_reducible apply State.Kept.modLeaf | split

theorem specDiagConfig_keeps : specDiagConfig.Keeps := by
  constructor
  · intro c s0 s h; exact h
  · intro c s0 s h; exact h
  · intro c p d s0 s h; unfold specDiagConfig; dsimp only
    repeat' first | with_reducible assumption | with_reducible apply State.Kept.modLeaf | with_reducible apply State.Kept.foldl | (intro _ _ _)

theorem specDiagRepair_keeps : specDiagRepair.Keeps := by
  constructor
  · intro c s0 s h; exact h
  · intro c s0 s h; exact h
  · intro c p d s0 s h; unfold specDiagRepair; dsimp only
    repeat' first | with_reducible assumption | with_reducible apply State.Kept.modLeaf | split

theorem specDiagTraceRead_keeps : specDiagTraceRead.Keeps := by
  constructor
  · intro c s0 s h; exact h
  · intro c s0 s h; exact h
  · intro c p d s0 s h; unfold specDiagTraceRead; dsimp only
    repeat' first | with_reducible assumption

theorem specDiagMemQuery_keeps : specDiagMemQuery.Keeps := by
  constructor
  · intro c s0 s h; exact h
  · intro c s0 s h; exact h
  · intro c p d s0 s h; unfold specDiagMemQuery; dsimp only
    repeat' first | with_reducible assumption

theorem specRedMode_keeps : specRedMode.Keeps := by
  constructor
  · intro c s0 s h; exact h
  · intro c s0 s h; exact h
  · intro c p d s0 s h; unfold specRedMode; dsimp only
    repeat' first | with_reducible assumption | with_reducible apply State.doLeave_kept | with_reducible apply State.homeClaims_kept | with_reducible apply State.startEntry_kept | with_reducible apply State.Kept.ite | with_reducible apply State.Kept.modRed | split | with_reducible apply State.Kept.copRed

theorem specRedRestore_keeps : specRedRestore.Keeps := by
  constructor
  · intro c s0 s h; exact h
  · intro c s0 s h; exact h
  · intro c p d s0 s h; unfold specRedRestore; dsimp only
    repeat' first | with_reducible assumption | with_reducible apply State.grant_kept | with_reducible apply State.startEntry_kept | with_reducible apply State.syncEvent_kept | split | with_reducible apply State.Kept.copRed

theorem specRedSwap_keeps : specRedSwap.Keeps := by
  constructor
  · intro c s0 s h; exact h
  · intro c s0 s h; exact h
  · intro c p d s0 s h; unfold specRedSwap; dsimp only
    repeat' first | with_reducible assumption | with_reducible apply State.doSwap_kept | with_reducible apply State.resetLeaf_kept | with_reducible apply State.Kept.ite | split | with_reducible apply State.Kept.copRed

theorem specRedConfig_keeps : specRedConfig.Keeps := by
  constructor
  · intro c s0 s h; exact h
  · intro c s0 s h; exact h
  · intro c p d s0 s h; unfold specRedConfig; dsimp only
    repeat' first | with_reducible assumption | with_reducible apply State.grant_kept | with_reducible apply State.Kept.ite | with_reducible apply State.Kept.copRed

theorem specRedQuery_keeps : specRedQuery.Keeps := by
  constructor
  · intro c s0 s h; exact h
  · intro c s0 s h; exact h
  · intro c p d s0 s h; unfold specRedQuery; dsimp only
    repeat' first | with_reducible assumption

end Sys2Proof.Machine
end

