-- ==== Sys2Proof/Laws/KeptStep.lean ====
section
/-! SUPPORT. What no operation disturbs (`State.Kept`): commands that come due, the bulk channel and the meridian. -/

namespace Sys2Proof.Machine

/-! Commands. -/
theorem specs0_keeps : ∀ sp ∈ specs0, sp.Keeps := by
  unfold specs0
  exact
    List.forall_mem_cons.2 ⟨specSysCaps_keeps,
    List.forall_mem_cons.2 ⟨specSysBootLoad_keeps,
    List.forall_mem_cons.2 ⟨specSysFwUpdate_keeps,
    List.forall_mem_cons.2 ⟨specScnConfig_keeps,
    List.forall_mem_cons.2 ⟨specScnClearAll_keeps,
    List.forall_mem_cons.2 ⟨specObjConfigAll_keeps,
    List.forall_mem_cons.2 ⟨specObjEnable_keeps,
    List.forall_mem_cons.2 ⟨specObjSetPos_keeps,
    List.forall_mem_cons.2 ⟨specObjBedAll_keeps,
    List.forall_mem_cons.2 ⟨specObjAdmMap_keeps,
    List.forall_mem_cons.2 ⟨specObjQuery_keeps,
    List.forall_mem_cons.2 ⟨specLaySpeaker_keeps,
    List.forall_mem_cons.2 ⟨specLaySegment_keeps,
    List.forall_mem_cons.2 ⟨specLayCommit_keeps,
    List.forall_mem_cons.2 ⟨specLayQuery_keeps,
    List.forall_mem_cons.2 ⟨specRndConfig_keeps,
    List.forall_mem_cons.2 ⟨specRndObjQuery_keeps,
    List.forall_mem_cons.2 ⟨specOutFeedConfig_keeps,
    List.forall_mem_cons.2 ⟨specOutBankLoadAll_keeps,
    List.forall_mem_cons.2 ⟨specOutBankSwapAll_keeps,
    List.forall_mem_cons.2 ⟨specOutSwapReserve_keeps,
    List.forall_mem_cons.2 ⟨specOutSceneDelay_keeps,
    List.forall_mem_cons.2 ⟨specOutFeedQuery_keeps,
    List.forall_mem_cons.2 ⟨specOutBankQuery_keeps,
    List.forall_mem_nil _⟩⟩⟩⟩⟩⟩⟩⟩⟩⟩⟩⟩⟩⟩⟩⟩⟩⟩⟩⟩⟩⟩⟩⟩

theorem specs1_keeps : ∀ sp ∈ specs1, sp.Keeps := by
  unfold specs1
  exact
    List.forall_mem_cons.2 ⟨specMeasTarget_keeps,
    List.forall_mem_cons.2 ⟨specMeasStart_keeps,
    List.forall_mem_cons.2 ⟨specMeasAbort_keeps,
    List.forall_mem_cons.2 ⟨specMeasQuery_keeps,
    List.forall_mem_cons.2 ⟨specMeasResult_keeps,
    List.forall_mem_cons.2 ⟨specTrkConfig_keeps,
    List.forall_mem_cons.2 ⟨specTrkBaseline_keeps,
    List.forall_mem_cons.2 ⟨specTrkQuery_keeps,
    List.forall_mem_cons.2 ⟨specVoxConfig_keeps,
    List.forall_mem_cons.2 ⟨specVoxPool_keeps,
    List.forall_mem_cons.2 ⟨specVoxGroup_keeps,
    List.forall_mem_cons.2 ⟨specVoxPatchLoad_keeps,
    List.forall_mem_cons.2 ⟨specVoxWaveLoad_keeps,
    List.forall_mem_cons.2 ⟨specNoteEvents_keeps,
    List.forall_mem_cons.2 ⟨specNoteUmp_keeps,
    List.forall_mem_cons.2 ⟨specVoxChannelMap_keeps,
    List.forall_mem_cons.2 ⟨specVoxQuery_keeps,
    List.forall_mem_cons.2 ⟨specClipLoad_keeps,
    List.forall_mem_cons.2 ⟨specClipCue_keeps,
    List.forall_mem_cons.2 ⟨specClipPlay_keeps,
    List.forall_mem_cons.2 ⟨specClipPause_keeps,
    List.forall_mem_cons.2 ⟨specClipStop_keeps,
    List.forall_mem_cons.2 ⟨specClipQuery_keeps,
    List.forall_mem_cons.2 ⟨specRteDomain_keeps,
    List.forall_mem_nil _⟩⟩⟩⟩⟩⟩⟩⟩⟩⟩⟩⟩⟩⟩⟩⟩⟩⟩⟩⟩⟩⟩⟩⟩

theorem specs2_keeps : ∀ sp ∈ specs2, sp.Keeps := by
  unfold specs2
  exact
    List.forall_mem_cons.2 ⟨specRteSource_keeps,
    List.forall_mem_cons.2 ⟨specRteEgress_keeps,
    List.forall_mem_cons.2 ⟨specRteBus_keeps,
    List.forall_mem_cons.2 ⟨specRteBridge_keeps,
    List.forall_mem_cons.2 ⟨specRteQuery_keeps,
    List.forall_mem_cons.2 ⟨specMtrConfig_keeps,
    List.forall_mem_cons.2 ⟨specMtrRead_keeps,
    List.forall_mem_cons.2 ⟨specUcLoad_keeps,
    List.forall_mem_cons.2 ⟨specUcAttach_keeps,
    List.forall_mem_cons.2 ⟨specUcParam_keeps,
    List.forall_mem_cons.2 ⟨specUcQuery_keeps,
    List.forall_mem_cons.2 ⟨specNetPort_keeps,
    List.forall_mem_cons.2 ⟨specNetRing_keeps,
    List.forall_mem_cons.2 ⟨specNetFilter_keeps,
    List.forall_mem_cons.2 ⟨specNetRxStream_keeps,
    List.forall_mem_cons.2 ⟨specNetTxStream_keeps,
    List.forall_mem_cons.2 ⟨specNetQuery_keeps,
    List.forall_mem_cons.2 ⟨specNetStreamQuery_keeps,
    List.forall_mem_cons.2 ⟨specClkTbSource_keeps,
    List.forall_mem_cons.2 ⟨specClkServo_keeps,
    List.forall_mem_cons.2 ⟨specClkTbAction_keeps,
    List.forall_mem_cons.2 ⟨specClkVcxo_keeps,
    List.forall_mem_cons.2 ⟨specClkPll_keeps,
    List.forall_mem_cons.2 ⟨specClkTbQuery_keeps,
    List.forall_mem_nil _⟩⟩⟩⟩⟩⟩⟩⟩⟩⟩⟩⟩⟩⟩⟩⟩⟩⟩⟩⟩⟩⟩⟩⟩

theorem specs3_keeps : ∀ sp ∈ specs3, sp.Keeps := by
  unfold specs3
  exact
    List.forall_mem_cons.2 ⟨specClkPllQuery_keeps,
    List.forall_mem_cons.2 ⟨specMicClock_keeps,
    List.forall_mem_cons.2 ⟨specMicEnable_keeps,
    List.forall_mem_cons.2 ⟨specMicConfig_keeps,
    List.forall_mem_cons.2 ⟨specMicRead_keeps,
    List.forall_mem_cons.2 ⟨specMicQuery_keeps,
    List.forall_mem_cons.2 ⟨specCopOutConfig_keeps,
    List.forall_mem_cons.2 ⟨specCopCvConfig_keeps,
    List.forall_mem_cons.2 ⟨specCopMute_keeps,
    List.forall_mem_cons.2 ⟨specCopQuery_keeps,
    List.forall_mem_cons.2 ⟨specRedMode_keeps,
    List.forall_mem_cons.2 ⟨specRedRestore_keeps,
    List.forall_mem_cons.2 ⟨specRedSwap_keeps,
    List.forall_mem_cons.2 ⟨specRedConfig_keeps,
    List.forall_mem_cons.2 ⟨specRedQuery_keeps,
    List.forall_mem_cons.2 ⟨specTstBist_keeps,
    List.forall_mem_cons.2 ⟨specTstMarch_keeps,
    List.forall_mem_cons.2 ⟨specTstDramSweep_keeps,
    List.forall_mem_cons.2 ⟨specTstDramFreq_keeps,
    List.forall_mem_cons.2 ⟨specDiagConfig_keeps,
    List.forall_mem_cons.2 ⟨specDiagRepair_keeps,
    List.forall_mem_cons.2 ⟨specDiagTraceRead_keeps,
    List.forall_mem_cons.2 ⟨specDiagMemQuery_keeps,
    List.forall_mem_nil _⟩⟩⟩⟩⟩⟩⟩⟩⟩⟩⟩⟩⟩⟩⟩⟩⟩⟩⟩⟩⟩⟩⟩

/-- Every opcode's chapter keeps the state. -/
theorem specTable_keeps : ∀ sp ∈ specTable, sp.Keeps := by
  intro sp h
  simp only [specTable, List.mem_append] at h
  obtain ((h | h) | h) | h := h
  · exact specs0_keeps sp h
  · exact specs1_keeps sp h
  · exact specs2_keeps sp h
  · exact specs3_keeps sp h

theorem undoCmd_kept {z s : State} (c : Cmd) (hk : State.Kept z s) : State.Kept z (undoCmd c s) := by
  unfold undoCmd
  split
  · exact hk
  · next sp h => exact (specTable_keeps sp (List.mem_of_find?_eq_some h)).undo c z s hk

theorem specOf_keeps (op : Nat) : ∀ sp, specOf op = some sp → sp.Keeps := by
  intro sp h
  unfold specOf at h
  split at h
  · cases h; exact specSysCancel_keeps _ fun c _ _ k => undoCmd_kept c k
  · exact specTable_keeps sp (List.mem_of_find?_eq_some h)

theorem applyPend_kept {z s : State} (p : Pend) (hk : State.Kept z s) : State.Kept z (applyPend p s) := by
  unfold applyPend
  dsimp only
  have hk := hk.modMail p.cmd.fn (fun m => { m with queued := m.queued.filter fun q => q.cmd.acc != p.cmd.acc }) fun _ => rfl
  generalize State.modMail s _ _ = t at hk
  split
  · exact State.final_kept _ _ _ _ _ _ hk
  · next sp h =>
    have k := specOf_keeps _ _ h
    split
    · exact State.final_kept _ _ _ _ _ _ (k.undo _ _ _ hk)
    · exact applyNow_kept _ k _ _ _ _ _ hk

theorem applyFirst_kept {z s : State} (bound : Option Nat) (f : FnId) (hk : State.Kept z s) :
    State.Kept z (applyFirst bound f s) := by
  unfold applyFirst
  repeat' first | exact hk | exact applyPend_kept _ hk | split

theorem drainAll_kept {z s : State} (f : FnId) (hk : State.Kept z s) : State.Kept z (drainAll f s) :=
  hk.foldl _ _ fun _ _ k => applyFirst_kept none f k

theorem drainDue_kept {z s : State} (c : Cmd) (hk : State.Kept z s) : State.Kept z (drainDue c s) :=
  hk.foldl _ _ fun _ _ k => applyFirst_kept (some c.acc) c.fn k

theorem validateNext_kept {z s : State} (f : FnId) (hk : State.Kept z s) : State.Kept z (validateNext f s) := by
  unfold validateNext
  dsimp only
  split
  · exact hk
  · split
    · exact hk
    · exact validate_kept _ (specOf_keeps _) _ (fun c _ _ k => drainDue_kept c k) _ (hk.modMail _ _ fun _ => rfl)

theorem State.haltDma_kept {z s : State} (f : FnId) (cause : Nat) (hk : State.Kept z s) :
    State.Kept z (State.haltDma f cause s) := by
  unfold State.haltDma; (try dsimp only)
  repeat' first | with_reducible assumption | with_reducible apply State.final_kept | with_reducible apply undoCmd_kept | with_reducible apply State.event_kept | with_reducible apply State.raise_kept | with_reducible apply State.Kept.ite | with_reducible apply State.Kept.modMail | with_reducible apply State.Kept.foldl | (intro _ _ _) | (intro _; rfl) | split

theorem State.flrFn_kept {z s : State} (f : FnId) (hk : State.Kept z s) : State.Kept z (State.flrFn s f) := by
  unfold State.flrFn
  exact State.flr_kept _ (((hk.foldl _ _ fun _ c k => undoCmd_kept c k).modLeaf .a _).modLeaf .b _)

theorem State.journalData_kept {z s : State} (c : Cmd) (data : List Byte) (hk : State.Kept z s) :
    State.Kept z (State.journalData s c data) := by
  unfold State.journalData
  split
  · exact hk
  · exact hk.foldl _ _ fun _ l k => k.modRed l _

theorem transferDone_kept {z s : State} (f : FnId) (data : List Byte) (hk : State.Kept z s) :
    State.Kept z (transferDone f data s) := by
  unfold transferDone
  dsimp only
  split
  · exact hk
  · next j rest _ =>
    split
    · exact hk
    · next r refs _ =>
      split
      · exact hk
      · have h1 : State.Kept z (if j.toHost = true then
            s.send { kind := 1, unit := f.num, a := r.addr, data := j.out.take r.len } else s) := by
          split
          · exact hk.send _
          · exact hk
        revert h1
        generalize (if j.toHost = true then
            s.send { kind := 1, unit := f.num, a := r.addr, data := j.out.take r.len } else s) = t
        intro h1
        split
        · exact h1.modMail _ _ fun _ => rfl
        · have h2 := h1.modMail f (fun m => { m with dma := rest }) fun _ => rfl
          revert h2
          generalize t.modMail f (fun m => { m with dma := rest }) = u
          intro h2
          split
          · exact State.final_kept _ _ _ _ _ _ h2
          · split
            · exact State.final_kept _ _ _ _ _ _ h2
            · next sp hs =>
              exact schedule_kept _ (specOf_keeps _ _ hs) _ (fun c _ _ k => drainDue_kept c k) _ _
                (State.journalData_kept _ _ h2)

theorem rerun_kept {z s : State} (c : Cmd) (data : List Byte) (hk : State.Kept z s) : State.Kept z (rerun c data s) := by
  unfold rerun
  split
  · exact hk
  · next sp h =>
    have k := specOf_keeps _ _ h
    split
    · exact hk
    · exact k.run _ _ _ _ _ (k.stage _ _ _ hk)

/-! Meridian. -/
theorem State.concealed_kept {z s : State} (l : LeafId) (reps : List (Nat × Nat)) (hk : State.Kept z s) :
    State.Kept z (State.concealed s l reps) := by
  unfold State.concealed
  repeat' first | with_reducible assumption | with_reducible apply State.report_kept | with_reducible apply State.Kept.foldl | (intro _ _ _)

theorem State.sideTicks_kept {z s : State} (l : LeafId) (n : Nat) (hk : State.Kept z s) :
    State.Kept z (State.sideTicks s l n) := by
  unfold State.sideTicks; (try dsimp only)
  repeat' first | with_reducible assumption | with_reducible apply State.eachScene_kept | with_reducible apply State.concealed_kept | with_reducible apply State.Kept.modLeaf | with_reducible apply State.Kept.setLeaf | with_reducible apply State.Kept.foldl | (intro _ _ _)

theorem State.commits_kept {z s : State} (f : FnId) (hk : State.Kept z s) :
    State.Kept z (State.commits s f) := by
  unfold State.commits
  repeat' first | with_reducible assumption | with_reducible apply applyCommit_kept | with_reducible apply State.Kept.foldl | (intro _ _ _)

theorem State.claims_kept {z s : State} (l : LeafId) (hk : State.Kept z s) :
    State.Kept z (State.claims s l) := by
  unfold State.claims; (try dsimp only)
  repeat' first | with_reducible assumption | with_reducible apply State.claimReturn_kept | with_reducible apply State.applyGrant_kept | with_reducible apply State.doLeave_kept | with_reducible apply State.doSwap_kept | with_reducible apply State.Kept.ite

theorem State.startSample_kept {z s : State} (l : LeafId) (hk : State.Kept z s) :
    State.Kept z (State.startSample s l) := by
  unfold State.startSample; (try dsimp only)
  repeat' first | with_reducible assumption | with_reducible apply State.claims_kept | with_reducible apply State.eachScene_kept | with_reducible apply State.sideTicks_kept | with_reducible apply State.leafStep_kept | with_reducible apply drainAll_kept | with_reducible apply State.noteStep_kept | with_reducible apply State.commits_kept | with_reducible apply State.measFinish_kept | with_reducible apply State.Kept.ite | with_reducible apply State.Kept.modLeaf | with_reducible apply State.Kept.foldl | (intro _ _ _)

theorem State.ucReports_kept {z s : State} (l : LeafId) (reps : List (Nat × Nat × List Nat)) (hk : State.Kept z s) :
    State.Kept z (State.ucReports s l reps) := by
  unfold State.ucReports
  repeat' first | with_reducible assumption | with_reducible apply State.report_kept | with_reducible apply State.Kept.ite | with_reducible apply State.Kept.foldl | (intro _ _ _)

theorem State.renderScene_kept {z s : State} (l : LeafId) (c : Nat) (same : List Nat) (hk : State.Kept z s) :
    State.Kept z (State.renderScene s l c same) := by
  unfold State.renderScene; (try dsimp only)
  repeat' first | with_reducible assumption | with_reducible apply State.solverReports_kept | with_reducible apply State.ucReports_kept | with_reducible apply State.concealed_kept | with_reducible apply State.report_kept | with_reducible apply State.Kept.setLeaf | with_reducible apply State.Kept.foldl | (intro _ _ _)

theorem State.faultReports_kept {z s : State} (l : LeafId) (n : Nat) (overruns : List (Nat × Nat)) (residues : List (Nat × Nat × Nat)) (hk : State.Kept z s) :
    State.Kept z (State.faultReports s l n overruns residues) := by
  unfold State.faultReports; (try dsimp only)
  repeat' first | with_reducible assumption | with_reducible apply State.leafEvent_kept | with_reducible apply State.reportOn_kept | with_reducible apply State.Kept.ite | with_reducible apply State.Kept.fresh | with_reducible apply State.Kept.foldl | (intro _ _ _)

theorem State.closeSample_kept {z s : State} (l : LeafId) (n : Nat) (c : Nat) (stamp : Nat) (overruns : List (Nat × Nat)) (residues : List (Nat × Nat × Nat)) (hk : State.Kept z s) :
    State.Kept z (State.closeSample s l n c stamp overruns residues) := by
  unfold State.closeSample; (try dsimp only)
  repeat' first | with_reducible assumption | with_reducible apply State.faultReports_kept | with_reducible apply State.eachScene_kept | with_reducible apply State.releaseAll_kept | with_reducible apply State.decideTb_kept | with_reducible apply State.planTb_kept | with_reducible apply State.Kept.ite | with_reducible apply State.Kept.modLeaf | with_reducible apply State.Kept.modRed | with_reducible apply State.Kept.foldl | (intro _ _ _)

theorem State.meridian_kept {z s0 : State} (l : LeafId) (overruns : List (Nat × Nat)) (residues : List (Nat × Nat × Nat)) (hk : State.Kept z s0) :
    State.Kept z (State.meridian s0 l overruns residues) := by
  unfold State.meridian; (try dsimp only)
  repeat' first | with_reducible assumption | with_reducible apply State.startSample_kept | with_reducible apply State.eachScene_kept | with_reducible apply State.renderScene_kept | with_reducible apply State.closeSample_kept | with_reducible apply State.Kept.ite | with_reducible apply State.Kept.modLeaf | (intro _ _ _)

theorem State.passPiece_kept {z s : State} (l : LeafId) (k : Nat) (hk : State.Kept z s) :
    State.Kept z (State.passPiece s l k) := by
  unfold State.passPiece
  repeat' first | with_reducible assumption | with_reducible apply State.eachScene_kept | with_reducible apply State.sideTicks_kept | with_reducible apply State.releaseAll_kept | with_reducible apply State.Kept.modLeaf | (intro _ _ _)

theorem State.passTime_kept {z s : State} (l : LeafId) (k : Nat) (hk : State.Kept z s) :
    State.Kept z (State.passTime s l k) := by
  unfold State.passTime
  repeat' first | with_reducible assumption | with_reducible apply State.passPiece_kept | with_reducible apply State.Kept.foldl | (intro _ _ _)

end Sys2Proof.Machine
end

