-- ==== Sys2Proof/Laws/Table.lean ====
section
/-! SUPPORT. Read after write in the sparse tables. -/

namespace Sys2Proof.Machine

variable {α : Type}

theorem tget_tdel (t : List (Nat × α)) (k j : Nat) (d : α) : tget (tdel t k) j d = if j = k then d else tget t j d := by
  induction t with
  | nil => simp [tdel, tget]
  | cons p r ih =>
    obtain ⟨i, v⟩ := p
    simp only [tdel]
    by_cases hi : i = k
    · rw [if_pos hi, ih]
      by_cases hj : j = k
      · simp [hj]
      · simp only [hj, if_false, tget]
        rw [if_neg (by omega)]
    · rw [if_neg hi]
      simp only [tget]
      by_cases hj : i = j
      · rw [if_pos hj, if_neg (by omega), if_pos hj]
      · rw [if_neg hj, ih, if_neg hj]

theorem tget_tins (t : List (Nat × α)) (k j : Nat) (v d : α) : tget (tins t k v) j d = if j = k then v else tget t j d := by
  induction t with
  | nil =>
    simp only [tins, tget]
    by_cases hj : j = k
    · simp [hj]
    · rw [if_neg (by omega), if_neg hj]
  | cons p r ih =>
    obtain ⟨i, w⟩ := p
    simp only [tins]
    by_cases h1 : k < i
    · rw [if_pos h1]
      simp only [tget]
      by_cases hj : j = k
      · simp [hj]
      · rw [if_neg (by omega), if_neg hj]
    · rw [if_neg h1]
      by_cases h2 : i = k
      · rw [if_pos h2]
        simp only [tget]
        by_cases hj : j = k
        · simp [hj]
        · rw [if_neg (by omega), if_neg hj, if_neg (by omega)]
      · rw [if_neg h2]
        simp only [tget]
        by_cases hj : i = j
        · rw [if_pos hj, if_pos hj, if_neg (by omega)]
        · rw [if_neg hj, if_neg hj, ih]

theorem tget_tset [DecidableEq α] (t : List (Nat × α)) (k j : Nat) (v d : α) :
    tget (tset t k v d) j d = if j = k then v else tget t j d := by
  unfold tset
  split
  · next h => rw [tget_tdel, h]
  · exact tget_tins t k j v d

theorem tget_tmod [DecidableEq α] (t : List (Nat × α)) (k j : Nat) (d : α) (f : α → α) :
    tget (tmod t k d f) j d = if j = k then f (tget t k d) else tget t j d := tget_tset t k j _ d

theorem tfind_tdel (t : List (Nat × α)) (k j : Nat) : tfind (tdel t k) j = if j = k then none else tfind t j := by
  induction t with
  | nil => simp [tdel, tfind]
  | cons p r ih =>
    obtain ⟨i, v⟩ := p
    simp only [tdel]
    by_cases hi : i = k
    · rw [if_pos hi, ih]
      by_cases hj : j = k
      · simp [hj]
      · simp only [hj, if_false, tfind]
        rw [if_neg (by omega)]
    · rw [if_neg hi]
      simp only [tfind]
      by_cases hj : i = j
      · rw [if_pos hj, if_neg (by omega), if_pos hj]
      · rw [if_neg hj, ih, if_neg hj]

theorem tfind_tins (t : List (Nat × α)) (k j : Nat) (v : α) : tfind (tins t k v) j = if j = k then some v else tfind t j := by
  induction t with
  | nil =>
    simp only [tins, tfind]
    by_cases hj : j = k
    · simp [hj]
    · rw [if_neg (by omega), if_neg hj]
  | cons p r ih =>
    obtain ⟨i, w⟩ := p
    simp only [tins]
    by_cases h1 : k < i
    · rw [if_pos h1]
      simp only [tfind]
      by_cases hj : j = k
      · simp [hj]
      · rw [if_neg (by omega), if_neg hj]
    · rw [if_neg h1]
      by_cases h2 : i = k
      · rw [if_pos h2]
        simp only [tfind]
        by_cases hj : j = k
        · simp [hj]
        · rw [if_neg (by omega), if_neg hj, if_neg (by omega)]
      · rw [if_neg h2]
        simp only [tfind]
        by_cases hj : i = j
        · rw [if_pos hj, if_pos hj, if_neg (by omega)]
        · rw [if_neg hj, if_neg hj, ih]

/-- The entry of a table is its listed entry, or the default. -/
theorem tget_eq_tfind (t : List (Nat × α)) (j : Nat) (d : α) : tget t j d = (tfind t j).getD d := by
  induction t with
  | nil => rfl
  | cons p r ih =>
    obtain ⟨i, v⟩ := p
    simp only [tget, tfind]
    split
    · rfl
    · exact ih

end Sys2Proof.Machine
end

