-- ==== Sys2Proof/Laws/Scene.lean ====
section
/-! SUPPORT. Objects of a scene after a change, and what folding leaves alone. -/

namespace Sys2Proof.Machine

@[simp] theorem Scene.obj_modObj (x : Scene) (k i : Nat) (f : Obj → Obj) :
    (x.modObj k f).obj i = if i = k then f (x.obj k) else x.obj i := tget_tmod _ _ _ _ _

/-- A change of objects touches the table of objects alone. -/
theorem Scene.modObjs_eq (x : Scene) (is : List Nat) (f : Nat → Obj → Obj) :
    x.modObjs is f = { x with objs := { x.objs with objs := (x.modObjs is f).objs.objs } } := by
  induction is generalizing x with
  | nil => rfl
  | cons k r ih => exact ih (x.modObj k (f k))

/-- An object outside a change keeps its value. -/
theorem Scene.obj_modObjs_ne (x : Scene) (is : List Nat) (f : Nat → Obj → Obj) (i : Nat) (h : i ∉ is) :
    (x.modObjs is f).obj i = x.obj i := by
  induction is generalizing x with
  | nil => rfl
  | cons k r ih =>
    simp only [List.mem_cons, not_or] at h
    show ((x.modObj k (f k)).modObjs r f).obj i = _
    rw [ih _ h.2, Scene.obj_modObj, if_neg h.1]

/-- What a change keeps of every object stays. -/
theorem Scene.obj_modObjs_keep {β : Type} (g : Obj → β) (x : Scene) (is : List Nat) (f : Nat → Obj → Obj)
    (h : ∀ k o, g (f k o) = g o) (i : Nat) : g ((x.modObjs is f).obj i) = g (x.obj i) := by
  induction is generalizing x with
  | nil => rfl
  | cons k r ih =>
    show g (((x.modObj k (f k)).modObjs r f).obj i) = _
    rw [ih, Scene.obj_modObj]
    split
    · next e => rw [h, e]
    · rfl

/-- What a change gives every object it reaches holds of each of them. -/
theorem Scene.obj_modObjs_of (p : Obj → Prop) (x : Scene) (is : List Nat) (f : Nat → Obj → Obj) (i : Nat)
    (h : ∀ o, p (f i o)) (hi : i ∈ is) : p ((x.modObjs is f).obj i) := by
  induction is generalizing x with
  | nil => cases hi
  | cons k r ih =>
    show p (((x.modObj k (f k)).modObjs r f).obj i)
    by_cases hr : i ∈ r
    · exact ih _ hr
    · have e : i = k := by simpa [hr] using hi
      subst e
      rw [Scene.obj_modObjs_ne _ _ _ _ hr, Scene.obj_modObj, if_pos rfl]
      exact h _

theorem mem_span {a n i : Nat} : i ∈ span a n ↔ a ≤ i ∧ i < a + n := by
  simp only [span, List.mem_map, List.mem_range]
  constructor
  · rintro ⟨j, h, rfl⟩
    omega
  · rintro ⟨h, k⟩
    exact ⟨i - a, by omega, by omega⟩

/-! Folding. -/

/-- An object without what folding may give it: its placements, and the mute of a takeover with the fade-in
that ends it (R137). -/
def Obj.unplaced (o : Obj) : Obj := { o with run := { o.run with places := [], muted := false, fade := {} } }

/-- How an object sounds but for its placements. -/
def Obj.voiced (o : Obj) : Bool × Ramp := (o.run.muted, o.run.fade)

theorem ObjRun.moveTo_eq (r : ObjRun) (n fade cid : Nat) :
    r.moveTo n fade cid = { r with places := (r.moveTo n fade cid).places } := by
  unfold ObjRun.moveTo
  split <;> rfl

/-- What folding may change of a scene: placements, clusters and their numbers, and the mute of objects that
find their place again. -/
structure Scene.Folded (x y : Scene) : Prop where
  rest : y = { x with objs := { x.objs with objs := y.objs.objs, clusters := y.objs.clusters, nextCid := y.objs.nextCid } }
  obj : ∀ i, (y.obj i).unplaced = (x.obj i).unplaced
  voiced : ∀ i, (x.obj i).run.muted = false → (y.obj i).voiced = (x.obj i).voiced

theorem Scene.Folded.refl (x : Scene) : x.Folded x := ⟨rfl, fun _ => rfl, fun _ _ => rfl⟩

theorem Scene.Folded.trans {x y z : Scene} (h : x.Folded y) (k : y.Folded z) : x.Folded z := by
  refine ⟨?_, fun i => (k.obj i).trans (h.obj i), fun i w => ?_⟩
  · rw [k.rest, h.rest]
  · have v := h.voiced i w
    exact (k.voiced i ((congrArg Prod.fst v).trans w)).trans v

/-- A change of objects that leaves them as they are but for placements. -/
theorem Scene.modObjs_folded (x : Scene) (is : List Nat) (f : Nat → Obj → Obj)
    (hu : ∀ k o, (f k o).unplaced = o.unplaced) (hv : ∀ k o, (f k o).voiced = o.voiced) : x.Folded (x.modObjs is f) := by
  refine ⟨?_, fun i => Scene.obj_modObjs_keep Obj.unplaced x is f hu i,
    fun i _ => Scene.obj_modObjs_keep Obj.voiced x is f hv i⟩
  rw [Scene.modObjs_eq]

theorem Scene.applyFold_folded (x : Scene) (t n : Nat) (folds : List Fold) (newly : List Nat) :
    x.Folded (x.applyFold t n folds newly) := by
  unfold Scene.applyFold
  dsimp only
  generalize hst : (fun (acc : Scene × List (Nat × Nat)) (f : Fold) => _ : Scene × List (Nat × Nat) → Fold → Scene × List (Nat × Nat)) = st
  have key : ∀ (l : List Fold) (a : Scene × List (Nat × Nat)),
      a.1 = { x with objs := { x.objs with clusters := a.1.objs.clusters, nextCid := a.1.objs.nextCid } } →
      (l.foldl st a).1 = { x with objs := { x.objs with clusters := (l.foldl st a).1.objs.clusters, nextCid := (l.foldl st a).1.objs.nextCid } } := by
    intro l
    induction l with
    | nil => intro a h; exact h
    | cons f r ih =>
      intro a h
      refine ih _ ?_
      subst hst
      dsimp only
      split
      · rw [h]
      · rw [h]
  have k := key folds (x, []) rfl
  generalize folds.foldl st (x, []) = q at k
  obtain ⟨y, ms⟩ := q
  dsimp only at k ⊢
  refine Scene.Folded.trans (y := { y with objs := { y.objs with clusters := y.objs.clusters.map (fun c =>
    if (ms.map Prod.snd).contains c.cid = true then c else { c with live := false }) } }) ?_ ?_
  · rw [k]
    exact ⟨rfl, fun _ => rfl, fun _ _ => rfl⟩
  · refine Scene.modObjs_folded _ _ _ (fun k o => ?_) fun k o => ?_
    · split
      · rfl
      · rw [ObjRun.moveTo_eq]; rfl
    · split
      · rfl
      · rw [ObjRun.moveTo_eq]; rfl

/-- A membership that can be met (R132, R133, R136, R137). -/
theorem Leaf.place_folded {x : Leaf} {c : Ctx} {newly en : List Nat} {y : Scene} {b : Bool}
    (h : x.place c newly en = some (y, b)) : x.scene.Folded y := by
  unfold Leaf.place at h
  dsimp only at h
  generalize hup : Scene.modObjs x.scene _ _ = up at h
  have hu : x.scene.Folded up := by
    subst hup
    refine ⟨?_, fun i => ?_, fun i w => ?_⟩
    · rw [Scene.modObjs_eq]
    · rw [Scene.obj_modObjs_keep Obj.unplaced _ _ _ fun _ _ => ?_]
      rfl
    · rw [Scene.obj_modObjs_ne]
      simp [w]
  repeat' split at h
  all_goals first
    | cases h; done
    | simp only [Option.some.injEq, Prod.mk.injEq] at h
      rw [← h.1]
      exact hu.trans (Scene.applyFold_folded _ _ _ _ _)
    | simp only [Option.some.injEq, Prod.mk.injEq] at h
      rw [← h.1]
      exact hu.trans (Scene.modObjs_folded _ _ _ (fun _ _ => rfl) fun _ _ => rfl)

/-- What a change of membership gives, when it can be satisfied (R132, R135, R136, R137). -/
theorem refold_folded {c : Ctx} {x z : Leaf} {tr : Nat} {newly : List Nat} {evs : List Ev}
    (h : refold c x tr newly = (some z, evs)) : ∃ y, z = { x with scene := y } ∧ x.scene.Folded y := by
  unfold refold at h
  dsimp only at h
  split at h
  · next r hr =>
    simp only [Prod.mk.injEq, Option.some.injEq] at h
    exact ⟨r.1, h.1.symm, Leaf.place_folded hr⟩
  · split at h
    · next r hr =>
      simp only [Prod.mk.injEq, Option.some.injEq] at h
      exact ⟨r.1, h.1.symm, Leaf.place_folded hr⟩
    · simp at h

end Sys2Proof.Machine
end

