-- ==== Sys2Proof/WellFormed.lean ====
section
/-! DEFINITION. Well-formed commands: operands that the host, the network or a device can present. The
meanings do not ask for it: an operand outside these ranges is answered as the spec answers a field, a
register or an index that does not exist. -/

namespace Sys2Proof

/-- A mailbox command as a slot can hold it (R48). -/
def Cmd.wf (c : Cmd) : Bool :=
  decide (c.slot < 32) && decide (c.op < 65536) && decide (c.tag < 4294967296) && decide (c.flags < 65536) &&
    decide (c.bodyLen < 65536) && decide (c.hdrVer < 256) && decide (c.target < 256) &&
    decide (c.rsv12 < 4294967296) && decide (c.when_ < 18446744073709551616) &&
    decide (c.rsv24 < 18446744073709551616) && decide (c.body.length ≤ 480)

/-- A command whose operands are in range. -/
def Instr.wf : Instr → Bool
  | .doorbell _ _ => true
  | .tbSnapLo _ _ => true
  | .cqCons _ _ => true
  | .eqCons _ _ => true
  | .posCommit _ _ => true
  | .clearHalt _ _ => true
  | .modResetModule _ => true
  | .modResetLeaf _ => true
  | .modResetCoping _ => true
  | .registerWrite _ _ off bytes => decide (off % 4 = 0) && decide (bytes.length = 4 ∨ bytes.length = 8)
  | .sysCaps c => c.wf
  | .sysCancel c => c.wf
  | .sysBootLoad c => c.wf
  | .sysFwUpdate c => c.wf
  | .scnConfig c => c.wf
  | .scnClear c => c.wf
  | .objConfig c => c.wf
  | .objEnable c => c.wf
  | .objSetPos c => c.wf
  | .objBed c => c.wf
  | .objAdmMap c => c.wf
  | .objQuery c => c.wf
  | .laySpeaker c => c.wf
  | .laySegment c => c.wf
  | .layCommit c => c.wf
  | .layQuery c => c.wf
  | .rndConfig c => c.wf
  | .rndObjQuery c => c.wf
  | .outFeedConfig c => c.wf
  | .outBankLoad c => c.wf
  | .outBankSwap c => c.wf
  | .outSwapReserve c => c.wf
  | .outSceneDelay c => c.wf
  | .outFeedQuery c => c.wf
  | .outBankQuery c => c.wf
  | .measTarget c => c.wf
  | .measStart c => c.wf
  | .measAbort c => c.wf
  | .measQuery c => c.wf
  | .measResult c => c.wf
  | .trkConfig c => c.wf
  | .trkBaseline c => c.wf
  | .trkQuery c => c.wf
  | .voxConfig c => c.wf
  | .voxPool c => c.wf
  | .voxGroup c => c.wf
  | .voxPatchLoad c => c.wf
  | .voxWaveLoad c => c.wf
  | .noteEvents c => c.wf
  | .noteUmp c => c.wf
  | .voxChannelMap c => c.wf
  | .voxQuery c => c.wf
  | .clipLoad c => c.wf
  | .clipCue c => c.wf
  | .clipPlay c => c.wf
  | .clipPause c => c.wf
  | .clipStop c => c.wf
  | .clipQuery c => c.wf
  | .rteDomain c => c.wf
  | .rteSource c => c.wf
  | .rteEgress c => c.wf
  | .rteBus c => c.wf
  | .rteBridge c => c.wf
  | .rteQuery c => c.wf
  | .mtrConfig c => c.wf
  | .mtrRead c => c.wf
  | .ucLoad c => c.wf
  | .ucAttach c => c.wf
  | .ucParam c => c.wf
  | .ucQuery c => c.wf
  | .netPort c => c.wf
  | .netRing c => c.wf
  | .netFilter c => c.wf
  | .netRxStream c => c.wf
  | .netTxStream c => c.wf
  | .netQuery c => c.wf
  | .netStreamQuery c => c.wf
  | .clkTbSource c => c.wf
  | .clkServo c => c.wf
  | .clkTbAction c => c.wf
  | .clkVcxo c => c.wf
  | .clkPll c => c.wf
  | .clkTbQuery c => c.wf
  | .clkPllQuery c => c.wf
  | .micClock c => c.wf
  | .micEnable c => c.wf
  | .micConfig c => c.wf
  | .micRead c => c.wf
  | .micQuery c => c.wf
  | .copOutConfig c => c.wf
  | .copCvConfig c => c.wf
  | .copMute c => c.wf
  | .copQuery c => c.wf
  | .redMode c => c.wf
  | .redRestore c => c.wf
  | .redSwap c => c.wf
  | .redConfig c => c.wf
  | .redQuery c => c.wf
  | .tstBist c => c.wf
  | .tstMarch c => c.wf
  | .tstDramSweep c => c.wf
  | .tstDramFreq c => c.wf
  | .diagConfig c => c.wf
  | .diagRepair c => c.wf
  | .diagTraceRead c => c.wf
  | .diagMemQuery c => c.wf
  | .commandValidated _ => true
  | .timedCommandApply _ => true
  | .noteEventApply _ => true
  | .completionPost _ => true
  | .eventsLost _ => true
  | .intModerationTimer _ => true
  | .rateLimitedReport _ _ _ _ => true
  | .functionLevelReset _ => true
  | .linkHotReset => true
  | .busMasterDisable _ => true
  | .powerStateChange _ _ => true
  | .dmaTransferDone _ _ => true
  | .dmaHalt _ cause => decide (cause < 2)
  | .meridian _ _ _ => true
  | .posCommitApply _ => true
  | .gainSolverBlock _ => true
  | .objXfadeEnd _ obj => decide (obj < 512)
  | .scnClearReturn _ => true
  | .bedRemoveEnd _ base => decide (base < 512)
  | .admFrame _ map _ => decide (map < 16)
  | .swapFadeEnd _ bank => decide (bank < 64)
  | .delayFadeEnd _ feed => decide (feed < 1024)
  | .feedSlewUpdate _ feed _ => decide (feed < 1024)
  | .selectionFadeEnd _ kind _ => decide (kind < 5)
  | .meterFrameEnd _ => true
  | .renderSilenceStart _ => true
  | .renderRestart _ _ => true
  | .bridgeRatioWindow _ ch _ _ => decide (ch < 256)
  | .clipLoopEnd _ player => decide (player < 256)
  | .clipEndPassed _ player => decide (player < 256)
  | .clipFadeEnd _ player => decide (player < 256)
  | .voiceMatrixEval _ => true
  | .voiceEnd _ voice => decide (voice < 1024)
  | .stealMigrate _ shadow => decide (shadow < 64)
  | .ucFadeEnd _ att => decide (att < 16)
  | .ucPassAbandon _ att course _ => decide (att < 16) && decide (course < 8)
  | .measSlotEnd _ => true
  | .measAnalysisDone _ => true
  | .measReturnEnd _ => true
  | .measDesignDone _ => true
  | .measInstallSwap _ => true
  | .trackingUpdate _ _ => true
  | .trkStarved _ => true
  | .netRxFrame _ port _ _ _ _ => decide (port < 2)
  | .hostRingPoll _ ring _ => decide (ring < 32)
  | .netTxFrame _ ring _ => decide (ring < 32)
  | .netRingPending _ ring => decide (ring < 32)
  | .netLinkChange _ port _ => decide (port < 2)
  | .sfpLos _ port => decide (port < 2)
  | .sfpModabs _ port _ => decide (port < 2)
  | .netFecFallback _ port => decide (port < 2)
  | .netLegLost _ stream leg => decide (stream < 64) && decide (leg < 2)
  | .arpResolved _ stream leg _ => decide (stream < 64) && decide (leg < 2)
  | .mediaTxDiscard _ port => decide (port < 2)
  | .egressPacketComplete _ stream => decide (stream < 64)
  | .heartbeatRx _ => true
  | .twinVerdict _ => true
  | .gateDeadline _ => true
  | .tieFlitCrcFail _ => true
  | .heartbeatMissing _ => true
  | .tieLinkUp => true
  | .livenessMissing _ => true
  | .claimGrant _ => true
  | .checkpointSend _ => true
  | .journalEntry _ => true
  | .splitTakeoverRestore _ => true
  | .twinCopyDone => true
  | .twinRestart _ => true
  | .servoSample _ tb _ => decide (tb < 4)
  | .ptpAnnounceTimeout _ tb => decide (tb < 4)
  | .ptpSyncTimeout _ tb => decide (tb < 4)
  | .clkDiscontinuityDecision _ tb => decide (tb < 4)
  | .wclkSample _ tb _ => decide (tb < 4)
  | .wclkStop _ tb => decide (tb < 4)
  | .wclkRateWindow _ tb _ => decide (tb < 4)
  | .vcxoUpdate _ family _ => decide (family < 2)
  | .pllLockWindow _ pll _ _ => decide (pll < 5)
  | .pllGateEnd _ pll => decide (pll < 5)
  | .micFrameEnd _ ch _ => decide (ch < 128)
  | .copingLoadStrobe => true
  | .copSlewUpdate out => decide (out < 32)
  | .copSpanFadeEnd out => decide (out < 32)
  | .copStrobeLoss => true
  | .copMonitorWindow out _ _ ohms _ => decide (out < 36) && decide (ohms < 4294967296)
  | .supplyGood => true
  | .supplyFail => true
  | .leafRailFault _ cause => decide (cause < 3)
  | .plinthOvertemp => true
  | .leafResetRelease _ => true
  | .bootReady _ _ _ => true
  | .sysBootFail _ _ _ => true
  | .eccCorrection _ bank row slot _ => decide (bank < 57) && decide (row < 4096) && decide (slot < 64)
  | .eccScrub _ => true
  | .eccUncorrectable _ access course bank row slot _ _ => decide (access < 6) && decide (course < 8) && decide (bank < 48) && decide (row < 4096) && decide (slot < 64)
  | .courseRestart _ course => decide (course < 8)
  | .repeatEntryExpire _ i => decide (i < 16)
  | .fieldRepairWrite _ => true
  | .bankHandover _ bank owner => decide (bank < 48) && decide (owner < 3)
  | .aliasWrite _ bank row slot _ _ _ _ => decide (bank < 48) && decide (row < 4096) && decide (slot < 64)
  | .mergeEntryFlush _ bank i _ _ => decide (bank < 48) && decide (i < 4)
  | .busDecerr _ _ _ _ => true
  | .dramRefresh _ ch _ => decide (ch < 8)
  | .dramTempPoll _ ch _ _ _ => decide (ch < 8)
  | .dramWriteDrain _ ch reqs _ => decide (ch < 8) && reqs.all fun r => decide (r.bank < 16) && decide (r.qos < 16)
  | .dramThrottle _ ch bank _ _ _ => decide (ch < 8) && decide (bank < 16)
  | .dramEcc _ _ _ ch _ _ => decide (ch < 8)
  | .threadReady _ thread prio _ _ _ => decide (thread < 256) && decide (prio < 32)
  | .timesliceExpire _ core => decide (core < 8)
  | .delayTick _ _ => true
  | .eventPost _ queue _ _ _ => decide (queue < 128)
  | .schedQueueFull _ queue => decide (queue < 128)
  | .busMasterEnable _ => true
  | .pcieLinkDown => true
  | .copingRailFault => true
  | .copingResetRelease => true
  | .copingFoldBack _ => true
  | .ptpAnnounceRx _ tb _ => decide (tb < 4)
  | .ptpDelayRespRx _ tb _ => decide (tb < 4)
  | .ptpMessageInterval _ tb => decide (tb < 4)
  | .wclkReturn _ tb => decide (tb < 4)
  | .pauseQuantaExpire _ port => decide (port < 2)
  | .checkpointReceived _ => true
  | .dramActivateWindowEnd _ ch => decide (ch < 8)
  | .eccOperandRewrite _ bank row slot _ => decide (bank < 48) && decide (row < 4096) && decide (slot < 64)
  | .testComplete _ _ => true
  | .fwSlotVerified _ => true
  | .sfpModabsHigh _ port => decide (port < 2)

end Sys2Proof
end

