-- ==== Sys2Proof/Tests/Slice0.lean ====
section
/-! SUPPORT. Tests: ill-formed commands are refused, the hypotheses of the statements are met by concrete
states, and single commands give what the spec says of them. -/

open Sys2Proof Sys2Proof.Machine

namespace Sys2Proof.Tests

set_option Elab.async false

/-- A body of `n` zero bytes with numbers written into it, each as its offset, its bytes and its value. -/
def fill (n : Nat) (fs : List (Nat × Nat × Nat)) : List Byte :=
  fs.foldl (fun b f => b.take f.1 ++ leBytes f.2.1 f.2.2 ++ b.drop (f.1 + f.2.1)) (zeros n)

/-- A command of a function with a body so written. -/
def cmd (f : FnId) (n : Nat) (fs : List (Nat × Nat × Nat)) : Cmd := { fn := f, body := fill n fs, bodyLen := n, slot := 3, tag := 7 }

/-- binary32 codes of 1/10, 1, 10, 100, 340 and 440. -/
def fTenth : Nat := 0x3DCCCCCD
def fOne : Nat := 0x3F800000
def f10 : Nat := 0x41200000
def f100 : Nat := 0x42C80000
def f340 : Nat := 0x43AA0000
def f440 : Nat := 0x43DC0000

/-- A leaf that is ready and renders at 48 kHz. -/
def upLeaf : Leaf := { pwr := 2, run := 2, wasReady := true, clk := { dom := { rate := 2 } } }

/-- The module with both leaves ready, rendering at 48 kHz in the independent mode. -/
def up : State :=
  { State.reset with
    f0 := { capsDone := true, mail := { bme := true } }
    f1 := { capsDone := true, mail := { bme := true } }
    f2 := { capsDone := true, mail := { bme := true } }
    la := upLeaf
    lb := upLeaf
    red := { a := { claim := 12 }, b := { claim := 8 }, tieUp := true }
    plinth := { supply := true, link := true, copingPg := true, enabled := true } }

/-- The module as `up`, with a changed leaf A. -/
def withA (f : Leaf → Leaf) : State := { up with la := f up.la }

/-- The module as `up`, with a changed scene on leaf A. -/
def withScene (f : Scene → Scene) : State := withA fun x => { x with scene := f x.scene }

/-- The module in the twin mode, leaf A active. -/
def twinUp : State := { up with red := { up.red with mode := 1 } }

/-- The module in the split mode. -/
def splitUp : State := { up with red := { up.red with mode := 2, splitFeed := 64, splitTx := 32, splitRx := 32 } }

/-- As `State.Clear`, as a Boolean. -/
def clear (s : State) (sp : Spec) (c : Cmd) : Bool :=
  s.reachable c.fn && !s.roView c.fn && !bit (s.fn c.fn).busy.toNat (c.slot % 32) && !s.unserved c.fn && !s.takingOver c.fn &&
    (s.fn c.fn).mail.fence.isNone && (s.fn c.fn).mail.accepted.isEmpty && ((s.fn c.fn).capsDone || sp.op == 0x0101) &&
    (c.fn != .f1 || s.red.mode == 1 || s.red.entry.isNone) && c.flags == 0

theorem clear_meets {s : State} {sp : Spec} {c : Cmd} (h : clear s sp c = true) : s.Clear sp c := by
  simp only [clear, Bool.and_eq_true, Bool.not_eq_true', Bool.or_eq_true, bne_iff_ne, beq_iff_eq, Option.isNone_iff_eq_none,
    List.isEmpty_iff] at h
  obtain ⟨⟨⟨⟨⟨⟨⟨⟨⟨h1, h2⟩, h3⟩, h4⟩, h5⟩, h6⟩, h7⟩, h8⟩, h9⟩, h10⟩ := h
  exact ⟨h1, h2, h3, h4, h5, h6, h7, h8, fun a b => by
    rcases h9 with (h | h) | h
    · exact absurd a h
    · exact absurd h b
    · exact h, h10⟩

/-- As `State.Ready`, as a Boolean. -/
def ready (s : State) (sp : Spec) (c : Cmd) : Bool :=
  clear s sp c && (s.fn c.fn).mail.queued.isEmpty && !(s.fn c.fn).mail.holds ((s.fn c.fn).mail.accNo + 1) && c.when_ == 0 &&
    decide (checkCommand sp (s.takes sp c) (taken sp s c) = (sOk, 0)) && decide ((sp.pre (s.takes sp c) (taken sp s c)).1 = sOk)

theorem ready_meets {s : State} {sp : Spec} {c : Cmd} (h : ready s sp c = true) : s.Ready sp c := by
  simp only [ready, Bool.and_eq_true, Bool.not_eq_true', beq_iff_eq, List.isEmpty_iff, decide_eq_true_eq] at h
  obtain ⟨⟨⟨⟨⟨h1, h2⟩, ht⟩, h3⟩, h4⟩, h5⟩ := h
  exact ⟨clear_meets h1, h2, ht, h3, h4, h5⟩

/-- A command is ready and its chapter carries it out. -/
def runs (s : State) (sp : Spec) (c : Cmd) : Bool := ready s sp c && (s.effect sp c).status == sOk

/-- A command meets the hypotheses of `Acts` and `Answers` on the leaf that answers: `P` is asked of it. -/
def meets (s : State) (sp : Spec) (c : Cmd) (P : Ctx → Cmd → Leaf → Bool) : Bool :=
  match s.server c.fn with
  | none => false
  | some p => runs s sp c && P (s.ctx c.fn p) c (s.meets sp c p)

/-- A layout of two loudspeakers, in front and to the right. -/
def twoSpeakers : Layout :=
  { speakers := [(0, { kind := 1, pos := { y := 2 }, orient := { y := -1 } }), (1, { kind := 1, pos := { x := 2 }, orient := { x := -1 } })] }

/-- Ready scene, object and layout commands that are carried out. -/
def sceneRows : List (Spec × State × Cmd) :=
  [(specSysCaps, up, cmd .f0 4 []),
   (specScnConfig, up, cmd .f0 28 [(0, 2, 64), (4, 2, 16), (8, 4, fOne), (12, 4, fOne), (16, 4, fOne), (20, 4, fOne), (24, 4, fOne)]),
   (specScnClearAll, up, cmd .f0 4 [(0, 2, 4096)]),
   (specObjConfigAll, up, cmd .f0 24 [(0, 2, 511), (12, 2, 16), (16, 2, 100), (18, 2, 10), (20, 2, 5)]),
   (specObjEnable, up, cmd .f0 8 [(0, 2, 511), (2, 2, 1), (4, 1, 1)]),
   (specObjSetPos, up, cmd .f0 72 [(8, 1, 3), (12, 4, fOne), (16, 4, f10), (32, 2, 65036)]),
   (specObjBedAll, up, cmd .f0 8 [(2, 1, 2)]),
   (specObjAdmMap, up, cmd .f0 16 [(1, 1, 1), (8, 2, 4), (12, 2, 16)]),
   (specObjQuery, up, cmd .f1 4 [(0, 2, 5)]),
   (specLaySpeaker, up, cmd .f0 40 [(2, 2, 1), (12, 4, fOne), (24, 4, fOne), (32, 1, 1)]),
   (specLaySegment, up, cmd .f0 22 [(1, 1, 1), (2, 2, 1), (6, 2, 1), (14, 2, 1)]),
   (specLayCommit, withScene fun q => { q with rend := { q.rend with edit := twoSpeakers } }, cmd .f0 8 [(0, 1, 1)]),
   (specLayQuery, up, cmd .f0 4 [(0, 1, 255)]),
   (specRndConfig, up, cmd .f0 24 [(0, 4, f340), (4, 4, fOne), (8, 4, fOne), (12, 4, fOne), (16, 4, f10)]),
   (specRndObjQuery, up, cmd .f0 4 [])]

/-- A scene whose bank 5 is ready for feeds 0 and 1. -/
def banked : State := withScene fun q => { q with out := { q.out with q := 100, banks := [(5, { state := 2, n := 1, feeds := [0, 1] })] } }

/-- A run that captures its first feed. -/
def running : MeasRun := { cmd := cmd .f0 72 [(6, 2, 1), (28, 2, 16)], feeds := [0], phase := 1, n0 := 1 }

/-- The run after its analysis, with a result for feed 0. -/
def analysed : MeasRun :=
  { running with phase := 5, captured := 1, analysed := 1, results := [{ feed := 0 }], pairs := [{ feed := 0, mic := 0, arrival := 10 }],
                 returned := true, fade := { start := 1, target := 1 } }

def withRun (r : MeasRun) : State := withScene fun q => { q with meas := { q.meas with run := some r } }

/-- Ready commands of the output chain, of measurement and of tracking that are carried out. -/
def outputRows : List (Spec × State × Cmd) :=
  [(specOutFeedConfig, up, cmd .f0 40 [(2, 2, 1), (4, 2, 1), (8, 4, 67107840)]),
   (specOutBankLoadAll, up, cmd .f0 32 [(0, 1, 63)]),
   (specOutBankSwapAll, banked, cmd .f0 8 [(0, 1, 5), (4, 2, 64)]),
   (specOutSwapReserve, up, cmd .f0 8 [(0, 4, 1)]),
   (specOutSceneDelay, up, cmd .f0 8 [(0, 4, 1024)]),
   (specOutFeedQuery, up, cmd .f0 4 []),
   (specOutBankQuery, up, cmd .f0 4 [(0, 1, 63)]),
   (specMeasTarget, up, cmd .f0 20 [(1, 1, 2), (4, 4, f10), (12, 4, f100)]),
   (specMeasStart, withA fun x => { x with
     scene := { x.scene with rend := { x.scene.rend with lay := twoSpeakers } }
     mics := { x.mics with clocks := [(0, { on := true, ratio := 64, n := 64, mask := 1 })] } },
     cmd .f0 72 [(2, 1, 1), (6, 2, 1), (8, 4, 4096), (12, 2, 1), (14, 2, 64936), (16, 4, 1024), (24, 2, 10), (26, 2, 1000), (28, 2, 16), (30, 2, 1),
       (32, 1, 1), (52, 2, 64), (64, 2, 20), (68, 2, 64)]),
   (specMeasAbort, withRun running, cmd .f0 4 []),
   (specMeasQuery, up, cmd .f0 4 []),
   (specMeasResult, withRun analysed, cmd .f0 32 [(24, 4, 32)]),
   (specTrkConfig, up, cmd .f0 40 [(0, 1, 1), (2, 2, 1), (4, 2, 250), (6, 2, 63536), (8, 2, 1), (10, 2, 1), (16, 1, 1), (32, 4, fOne), (36, 2, 10)]),
   (specTrkBaseline, withScene fun q => { q with meas := { q.meas with run := some analysed, track := { q.meas.track with
      set := { q.meas.track.set with mask := [1], count := 1 } } } }, cmd .f0 8 []),
   (specTrkQuery, up, cmd .f0 4 [])]

/-- A scene with a loaded clip 0 and its player 0 in a state. -/
def playing (k : Nat) : State := withScene fun q => { q with clips := { q.clips with
  clips := [(0, { channels := 1, frames := 4, rate := 2, data := zeros 8, sent := 4 })], players := [(0, { state := k, clip := 0 })] } }

/-- Ready commands of the voices and the clips that are carried out. -/
def voiceRows : List (Spec × State × Cmd) :=
  [(specVoxConfig, up, cmd .f0 8 [(0, 4, f440)]),
   (specVoxPool, up, cmd .f0 8 [(4, 2, 1024), (6, 2, 5)]),
   (specVoxGroup, up, cmd .f0 16 [(0, 2, 511), (2, 1, 1)]),
   (specVoxPatchLoad, up, cmd .f0 32 [(2, 2, 1), (24, 4, 512)]),
   (specVoxWaveLoad, up, cmd .f0 48 []),
   (specNoteEvents, up, cmd .f0 32 [(0, 2, 1), (18, 1, 1)]),
   (specNoteUmp, up, cmd .f0 24 [(0, 2, 1), (16, 4, 0x40903C00), (20, 4, 0xFFFF0000)]),
   (specVoxChannelMap, up, cmd .f0 8 [(2, 2, 65535)]),
   (specVoxQuery, up, cmd .f0 4 []),
   (specClipLoad, up, cmd .f0 32 []),
   (specClipCue, playing 1, cmd .f0 24 [(4, 4, 3)]),
   (specClipPlay, playing 1, cmd .f0 8 []),
   (specClipPause, playing 2, cmd .f0 8 []),
   (specClipStop, playing 2, cmd .f0 8 []),
   (specClipQuery, up, cmd .f0 4 [(0, 2, 255)])]

/-- A microcode program with one word, attached at an attachment in state `k`. -/
def coded (k : Nat) : State := withScene fun q => { q with uc := { q.uc with
  progs := [(0, { code := [0], params := 1, rows := [1] })], atts := if k = 0 then [] else [(0, { state := k, count := 1 })] } }

/-- Ready commands of routing, metering and microcode that are carried out. -/
def routingRows : List (Spec × State × Cmd) :=
  [(specRteDomain, up, cmd .f0 8 [(1, 1, 4)]),
   (specRteSource, up, cmd .f0 12 [(2, 2, 1)]),
   (specRteEgress, up, cmd .f0 12 [(4, 2, 64)]),
   (specRteBus, up, cmd .f0 16 [(3, 1, 2)]),
   (specRteBridge, withA fun x => { x with clk := { x.clk with side1 := { rate := 4 } } }, cmd .f0 16 [(2, 2, 1), (4, 1, 1), (5, 1, 1)]),
   (specRteQuery, up, cmd .f0 8 [(0, 1, 5), (2, 2, 2)]),
   (specMtrConfig, up, cmd .f0 12 [(0, 2, 20), (4, 2, 10)]),
   (specMtrRead, up, cmd .f0 32 [(24, 4, meterSize 2)]),
   (specUcLoad, up, cmd .f0 32 [(0, 1, 7)]),
   (specUcAttach, coded 2, cmd .f0 32 []),
   (specUcParam, coded 2, cmd .f0 32 [(24, 4, 4096)]),
   (specUcQuery, up, cmd .f0 4 [(0, 1, 15)])]

/-- Ready commands of the network, the clocks and the microphones that are carried out. -/
def portRows : List (Spec × State × Cmd) :=
  [(specNetPort, up, cmd .f0 24 [(0, 1, 1), (1, 1, 1), (14, 1, 24)]),
   (specNetRing, up, cmd .f0 16 [(0, 1, 4), (3, 1, 1), (4, 2, 64), (6, 2, 100)]),
   (specNetFilter, up, cmd .f0 16 [(1, 1, 255)]),
   (specNetRxStream, up, cmd .f0 40 [(1, 1, 1), (5, 1, 1), (6, 1, 1), (8, 2, 48), (10, 2, 96), (12, 1, 96), (13, 1, 1)]),
   (specNetTxStream, up, cmd .f0 40 [(4, 1, 1), (7, 1, 1), (8, 2, 48), (12, 1, 96), (13, 1, 1)]),
   (specNetQuery, up, cmd .f0 4 [(0, 1, 1)]),
   (specNetStreamQuery, up, cmd .f0 4 [(0, 1, 1), (1, 1, 63)]),
   (specClkTbSource, up, cmd .f0 32 [(0, 1, 3), (1, 1, 1), (10, 1, 6), (11, 1, 127), (12, 1, 127), (13, 1, 127), (14, 1, 127)]),
   (specClkServo, up, cmd .f0 24 [(4, 4, fOne), (8, 4, 1000), (12, 4, 50), (16, 4, 100)]),
   (specClkTbAction, withA fun x => x.modTb 1 fun t => { t with pending := true, theta := 20000 }, cmd .f0 8 [(0, 1, 1), (1, 1, 1)]),
   (specClkVcxo, up, cmd .f0 24 [(0, 1, 1), (4, 4, f10), (8, 4, fOne), (12, 2, 1)]),
   (specClkPll, up, cmd .f0 8 [(0, 1, 1)]),
   (specClkTbQuery, up, cmd .f0 4 [(0, 1, 3)]),
   (specClkPllQuery, up, cmd .f0 4 [(0, 1, 1)]),
   (specMicClock, up, cmd .f0 8 [(0, 1, 7), (1, 1, 1), (2, 2, 64), (4, 2, 64)]),
   (specMicEnable, up, cmd .f0 8 [(2, 2, 65535)]),
   (specMicConfig, up, cmd .f0 12 [(1, 1, 128), (2, 1, 1), (4, 1, 255)]),
   (specMicRead, withA fun x => { x with mics := { x.mics with chans := [(0, { ring := [{}] })] } }, cmd .f0 32 [(2, 2, 1), (24, 4, 272)]),
   (specMicQuery, up, cmd .f0 4 [(0, 1, 127)])]

/-- The module with leaf A ready and not rendering. -/
def silentA : State := withA fun x => { x with clk := {} }

/-- The test thread's command to leaf A through function 2. -/
def toA (c : Cmd) : Cmd := { c with target := 1 }

/-- Ready commands of the coping, of redundancy, of tests and of diagnosis that are carried out. -/
def moduleRows : List (Spec × State × Cmd) :=
  [(specSysFwUpdate, up, toA (cmd .f2 32 [(24, 4, 4)])),
   (specCopOutConfig, up, cmd .f2 16 [(1, 1, 32), (2, 1, 1), (3, 1, 2)]),
   (specCopCvConfig, up, cmd .f2 12 [(0, 1, 3)]),
   (specCopMute, up, cmd .f2 8 [(4, 1, 1), (6, 2, 1)]),
   (specCopQuery, up, cmd .f2 4 [(0, 1, 35)]),
   (specRedMode, twinUp, cmd .f2 24 []),
   (specRedMode, up, cmd .f2 24 [(0, 1, 1)]),
   (specRedMode, up, cmd .f2 24 [(0, 1, 2), (2, 2, 64), (4, 1, 32), (5, 1, 32)]),
   (specRedRestore, { twinUp with red := { twinUp.red with b := { claim := 0 } } }, cmd .f2 16 [(0, 1, 1)]),
   (specRedRestore, { splitUp with red := { splitUp.red with b := { claim := 0 } } }, cmd .f2 16 [(0, 1, 1)]),
   (specRedRestore, { splitUp with red := { splitUp.red with b := { claim := 0 } }, la := { upLeaf with guest := some {} } },
     cmd .f2 16 [(0, 1, 1), (1, 1, 1)]),
   (specRedSwap, { twinUp with red := { twinUp.red with agreed := 9600 } }, cmd .f2 8 []),
   (specRedSwap, splitUp, cmd .f2 8 [(0, 1, 1), (1, 1, 1)]),
   (specRedConfig, up, cmd .f2 8 [(0, 1, 15), (1, 1, 14)]),
   (specRedQuery, up, cmd .f2 4 []),
   (specTstBist, silentA, cmd .f0 8 []),
   (specTstMarch, silentA, cmd .f0 24 [(0, 1, 1)]),
   (specTstDramSweep, silentA, cmd .f0 4 []),
   (specTstDramFreq, silentA, cmd .f0 8 [(0, 1, 1)]),
   (specDiagConfig, up, cmd .f0 8 [(0, 1, 2)]),
   (specDiagRepair, withA fun x => { x with ecc := { x.ecc with table := [{ weak := true }] } }, cmd .f0 8 []),
   (specDiagTraceRead, up, cmd .f0 32 [(4, 4, 1), (24, 4, 32)]),
   (specDiagMemQuery, up, cmd .f0 4 [])]

theorem test_scene_rows : ∀ x ∈ sceneRows, runs x.2.1 x.1 x.2.2 = true := by decide +kernel
theorem test_output_rows : ∀ x ∈ outputRows, runs x.2.1 x.1 x.2.2 = true := by decide +kernel
theorem test_voice_rows : ∀ x ∈ voiceRows, runs x.2.1 x.1 x.2.2 = true := by decide +kernel
theorem test_routing_rows : ∀ x ∈ routingRows, runs x.2.1 x.1 x.2.2 = true := by decide +kernel
theorem test_port_rows : ∀ x ∈ portRows, runs x.2.1 x.1 x.2.2 = true := by decide +kernel
theorem test_module_rows : ∀ x ∈ moduleRows, runs x.2.1 x.1 x.2.2 = true := by decide +kernel

/-! The hypotheses of the statements, met. -/

/-- A query to function 0. -/
def ask : Cmd := { cmd .f0 4 [] with slot := 35 }

theorem test_open : up.Open .f0 ∧ up.Open .f1 ∧ up.Open .f2 :=
  ⟨⟨by decide, by decide, by decide, by decide, by decide⟩, ⟨by decide, by decide, by decide, by decide, by decide⟩, ⟨by decide, by decide, by decide, by decide, by decide⟩⟩

theorem test_channel : up.Channel .f0 ∧ up.Channel .f1 ∧ up.Channel .f2 :=
  ⟨⟨by decide, by decide, by decide⟩, ⟨by decide, by decide, by decide⟩, ⟨by decide, by decide, by decide⟩⟩

/-- The module as `up`, with a changed function 0. -/
def withF0 (f : Fn → Fn) : State := { up with f0 := f up.f0 }

/-- The module as `up`, with a changed mailbox of function 0. -/
def withMail (f : Mail → Mail) : State := withF0 fun x => { x with mail := f x.mail }

/-- The module as `up`, with leaf A failed. -/
def failedA : State := withA fun x => { x with run := 3 }

theorem test_row_refusals :
    { State.reset with variant := .zl4824s }.reachable .f1 = false ∧
    (twinUp.reachable .f1 = true ∧ twinUp.roView .f1 = true) ∧
    (up.reachable .f0 = true ∧ up.roView .f0 = false ∧ bit (withF0 fun x => { x with busy := 8 }).f0.busy.toNat (ask.slot % 32) = true) ∧
    (failedA.reachable .f0 = true ∧ failedA.unserved .f0 = true) ∧
    (clear up specObjQuery { ask with body := fill 4 [(0, 2, 512)] } = true ∧
      (checkCommand specObjQuery up { ask with body := fill 4 [(0, 2, 512)] }).1 ≠ sOk) ∧
    (let s := withScene fun q => { q with out := { q.out with banks := [(0, { state := 1 })] } }
     let c := cmd .f0 32 [(1, 1, 1), (2, 2, 1), (6, 2, 1), (24, 4, 328)]
     clear s specOutBankLoadAll c = true ∧ checkCommand specOutBankLoadAll s c = (sOk, 0) ∧ (specOutBankLoadAll.pre s c).1 ≠ sOk) ∧
    (let s := withMail fun m => { m with halted := true }
     let c := cmd .f0 32 [(24, 4, meterSize 2)]
     clear s specMtrRead c = true ∧ checkCommand specMtrRead s c = (sOk, 0) ∧ (specMtrRead.pre s c).1 = sOk ∧
       specMtrRead.refs c ≠ []) ∧
    (let s := withMail fun m => { m with accepted := [ask] }
     s.reachable .f0 = true ∧ s.unserved .f0 = false ∧ s.f0.mail.accepted ≠ []) := by decide +kernel

theorem test_completion_posted :
    let c := { ask with slot := 31, acc := 1 }
    ((up.fn c.fn).mail.floor < c.acc ∧ (up.fn c.fn).mail.replay < c.acc ∧ (up.fn c.fn).mail.waiting = [] ∧ 0 < (up.fn c.fn).cqFree) ∧
    ¬(0 < (withF0 fun x => { x with cqProd := 64 }).f0.cqFree) := by decide

/-- A command timed for nanosecond `t`. -/
def timed (t : Nat) : Cmd := { cmd .f0 4 [] with when_ := t }

theorem test_timed :
    (∀ t ∈ [1, 62500, 62501], clear up specScnClearAll (timed t) = true ∧
      checkCommand specScnClearAll (up.takes specScnClearAll (timed t)) (taken specScnClearAll up (timed t)) = (sOk, 0)) ∧
    (rateHz silentA.la.clk.dom.rate = 0 ∧ clear silentA specScnClearAll (timed 1) = true) ∧
    (let s := withA fun x => { x with clk := { x.clk with dom := { x.clk.dom with count := 5 } } }
     countOf (rateHz 2) 62500 < s.la.clk.dom.nextCount) ∧
    (up.la.clk.dom.nextCount = countOf (rateHz 2) 20834 ∧ up.la.clk.dom.nextCount < countOf (rateHz 2) 62500) := by decide +kernel

theorem test_timed_applies :
    let p : Pend := { cmd := { timed 1 with op := 0x0202, acc := 1 }, count := 1, released := true }
    let q : Pend := { p with cmd := { p.cmd with acc := 2 }, count := 2 }
    let s := withMail fun m => { m with queued := [q, p] }
    s.takingOver .f0 = false ∧ p ∈ s.f0.mail.queued ∧ p.cmd.fn = .f0 ∧ p.count ≤ (s.fnDom .f0).nextCount ∧
      (∀ r ∈ s.f0.mail.queued, r.count ≤ (s.fnDom .f0).nextCount → r = p ∨ p.cmd.acc < r.cmd.acc) ∧ (specOf p.cmd.op).isSome = true ∧
      (∀ r ∈ [q], (s.fnDom .f0).nextCount < r.count) := by decide +kernel

theorem test_ring_indices :
    up.reachable .f0 = true ∧ ringUsed up.f0.cqProd (65472 % 65536) = 64 ∧ ringUsed up.f0.cqProd (65471 % 65536) = 65 ∧
    ringUsed up.f0.eqProd (64512 % 65536) = 1024 ∧ ringUsed up.f0.eqProd (64511 % 65536) = 1025 ∧
    ringUsed up.f0.cqProd (1 % 65536) = 65535 := by decide

theorem test_doorbells :
    (twinUp.reachable .f1 = true ∧ twinUp.roView .f1 = true) ∧ (up.roView .f1 = false ∧ up.unserved .f1 = false) ∧
    bit up.f0.busy.toNat 31 = false ∧ bit (withF0 fun x => { x with busy := 0x80000000 }).f0.busy.toNat 31 = true := by decide +kernel

theorem test_register_commands :
    (up.server .f0 = some (.a, false) ∧ up.la.fs = 48000) ∧ (silentA.server .f0 = some (.a, false) ∧ silentA.la.fs = 0) ∧
    up.f0.mail.posPending 1 = false ∧ (withMail fun m => { m with posQ := [{ buf := 1 }] }).f0.mail.posPending 1 = true ∧
    (0x3FFF < 0x4000 ∧ bit up.f0.busy.toNat (0x3FFF / 512) = false ∧ 0x3FFF % 512 + 1 ≤ 512) ∧
    up.f0.mail.posPending ((0x2FFFF - 0x20000) / 0x8000) = false := by decide +kernel

theorem test_mailbox_steps :
    (let s := withMail fun m => { m with accepted := [ask] }
     s.f0.mail.accepted = [ask] ∧ s.takingOver .f0 = false ∧ s.f0.mail.fence = none) ∧
    (let s := withMail fun m => { m with waiting := [{ release := true }] }
     s.f0.mail.waiting = [{ release := true }] ∧ 0 < s.f0.cqFree) ∧
    (withF0 fun x => { x with cqProd := 64 }).f0.cqFree = 0 ∧
    (let s := withMail fun m => { m with lostDue := true, lostSince := 1 }
     s.f0.mail.lostDue = true ∧ 0 < s.f0.mail.lostSince ∧ 0 < s.f0.eqFree) ∧
    (withMail fun m => { m with modRun := true }).f0.mail.modRun = true ∧
    (let r : Rep := { code := 1, count := 2 }
     ((withMail fun m => { m with reps := [r] }).f0.mail.reps.find? fun q => q.code == 1 && q.subject == 0 && q.key == 0) = some r) := by
  decide

theorem test_events_posted :
    (∀ n ∈ [0, 1, 7, 8], ({ eqProd := 1024 - n } : Fn).eqFree = n) ∧
    (let x : Fn := { eqProd := 1024, mail := { lostSince := 3 } }
     ringUsed x.eqProd 1 ≤ 1024 ∧ 0 < x.mail.lostSince ∧ x.eqFree < ({ x with eqCons := 1 } : Fn).eqFree) := by decide

theorem test_function_resets :
    up.f0.mail.halted = false ∧ (withMail fun m => { m with halted := true }).f0.mail.halted = true ∧ up.roView .f1 = false := by decide

theorem test_bulk_joins :
    let c := cmd .f0 32 [(0, 1, 7), (24, 4, 4)]
    clear up specUcLoad c = true ∧ checkCommand specUcLoad (up.takes specUcLoad c) (taken specUcLoad up c) = (sOk, 0) ∧
      (specUcLoad.pre (up.takes specUcLoad c) (taken specUcLoad up c)).1 = sOk ∧ specUcLoad.refs c = [16] ∧ specUcLoad.toHost = false ∧
      up.f0.mail.bme = true ∧ up.f0.mail.halted = false ∧ up.f0.mail.refCount + 1 ≤ 64 := by decide +kernel

/-- A bulk job at the front of function 0's channel. -/
def withJob (j : DmaJob) : State := withMail fun m => { m with dma := [j] }

theorem test_bulk_steps :
    (∀ toHost ∈ [false, true], ∀ refs ∈ [[], [{ addr := 0, len := 4 }]],
      let j : DmaJob := { cmd := { op := 0x0901 }, refs := { addr := 0, len := 4 } :: refs, toHost := toHost }
      (withJob j).f0.mail.dma = [j] ∧ (withJob j).takingOver .f0 = false) ∧ (specOf 0x0901).isSome = true ∧ (zeros 4).length = 4 := by
  decide +kernel

/-- A state with a command of function 0 whose one reference, of `n` bytes, is in transfer. -/
def arriving (c : Cmd) (n : Nat) (s : State) : State :=
  { s with f0 := { s.f0 with mail := { s.f0.mail with dma := [{ cmd := c, refs := [{ len := n }] }] } } }

theorem arriving_meets {c : Cmd} {s : State} {d : List Byte} (hf : c.fn = .f0) (h : c.when_ = 0) (hq : s.f0.mail.queued = [])
    (ht : s.takingOver .f0 = false) : (arriving c d.length s).Arrives c d := by
  refine ⟨⟨{ cmd := c, refs := [{ len := d.length }] }, [], { len := d.length }, ?_, rfl, rfl, rfl, rfl, rfl⟩, h, ?_, ?_, ?_⟩
  · rw [hf]; rfl
  · rw [hf]; exact hq
  · rw [hf]; simp [arriving, State.fn, Mail.holds]
  · rw [hf]; exact ht

theorem test_arrives : (arriving (cmd .f0 32 []) 2 up).Arrives (cmd .f0 32 []) [1, 2] :=
  arriving_meets (d := [1, 2]) rfl rfl (by decide) (by decide)

/-- An object set as `o` on leaf A. -/
def withObj (i : Nat) (o : Obj) : State := withScene fun q => { q with objs := { q.objs with objs := [(i, o)] } }

theorem test_scene_meets :
    (meets up specScnClearAll (cmd .f0 4 []) fun c _ x => !x.scene.clearingNow c.n) = true ∧
    (meets up specObjSetPos (cmd .f0 72 [(8, 1, 9), (12, 4, fOne), (16, 4, f10)]) fun g c x => !x.scene.clearingNow g.n &&
      (x.scene.obj (u16 c.body 0)).run.bed.isNone && (x.scene.obj (u16 c.body 0)).run.adm.isNone &&
      bit (u8 c.body 8) 0 && u64 c.body 24 == 0) = true ∧
    (meets up specObjSetPos (cmd .f0 72 [(8, 1, 1), (24, 8, 20835)]) fun _ c x =>
      bit (u8 c.body 8) 0 && decide (x.nextTns < u64 c.body 24)) = true ∧
    (meets up specObjSetPos (cmd .f0 72 [(8, 1, 2)]) fun _ c _ => !bit (u8 c.body 8) 0) = true ∧
    (meets (withScene fun q => { q with objs := { q.objs with beds := [{ base := 4, system := 2 }] } }) specObjBedAll
      (cmd .f0 8 [(0, 2, 4)]) fun _ c _ => u8 c.body 2 == 0) = true := by decide +kernel

theorem test_position_commits :
    (up.f0.mail.posQ = [] ∧ rateHz (silentA.fnDom .f0).rate = 0) ∧
    (let s := withMail fun m => { m with posQ := [{ buf := 1 }], win := mwrite winDefault [] (0x28000) [1] }
     s.f0.mail.posQ = [{ buf := 1 }] ∧ s.server .f0 = some (.a, false) ∧ rateHz (s.fnDom .f0).rate ≠ 0 ∧
     u64 (mread winDefault s.f0.mail.win (0x30000 + 64) 64) 0 = 0 ∧
     (let b := s.f0.posRecord 1 0
      u8 b 0 ≠ 0 ∧ lowestBad (recordChecks b 0 (countTns 48000 1)) = none ∧ (s.la.scene.obj 0).run.adm = none ∧
      0 < objCap s.la.clk.dom.rate ∧ s.la.scene.clearingNow s.la.next = false) ∧ u8 (s.f0.posRecord 1 1) 0 = 0) ∧
    (let s := withMail fun m => { m with posQ := [{ buf := 0 }], win := mwrite winDefault [] (0x30002) [1] }
     let want := u64 (mread winDefault s.f0.mail.win 0x30000 64) 0
     want ≠ 0 ∧ (s.fnDom .f0).nextCount < countOf 48000 want) := by decide +kernel

theorem test_scene_steps :
    (∀ n ∈ [1, 2],
      let s := withObj 3 { enabled := true, run := { xf := some { level := { first := 0, len := n, target := 1 } }, change := some { mode := 2 } } }
      ((s.la.scene.obj 3).run.xf.map fun f => f.level.busy (s.la.next - 1)) = some (n == 2) ∧
        (s.la.scene.obj 3).run.change = some { mode := 2 } ∧ (s.la.scene.obj 3).enabled = true ∧ 2 ≠ (s.la.scene.obj 3).rend.mode) ∧
    (∀ stop ∈ [1, 2], let s := withScene fun q => { q with objs := { q.objs with clearing := some (0, stop) } }
      s.la.scene.objs.clearing = some (0, stop) ∧ (stop ≤ s.la.next ↔ stop = 1) ∧ (s.la.scene.objs.objs.map Prod.fst).Nodup) ∧
    (∀ stop ∈ [1, 2], let s := withScene fun q => { q with objs := { q.objs with beds := [{ base := 4, system := 2, removing := some stop }] } }
      (s.la.scene.objs.beds.find? fun d => d.base == 4) = some { base := 4, system := 2, removing := some stop } ∧
        (stop ≤ s.la.next ↔ stop = 1)) ∧
    (let m : AdmMap := { count := 4, assigned := [(9, 0)] }
     let s := withScene fun q => { q with objs := { q.objs with maps := [(0, m)] }, net := { q.net with rx := [(0, { on := true, set := { kind := 1 } })] } }
     tfind s.la.scene.objs.maps 0 = some m ∧ tfind s.la.scene.objs.maps 1 = none ∧
      (tget s.la.scene.net.rx m.metaS ({} : RxStream)).on = true ∧ (tget s.la.scene.net.rx m.metaS ({} : RxStream)).set.kind = 1) ∧
    (up.la.fs ≠ 0 ∧ up.la.next % 16 ≠ 0 ∧ silentA.la.fs = 0 ∧
      (withA fun x => { x with clk := { x.clk with dom := { x.clk.dom with sample := 15 } } }).la.next % 16 = 0) := by decide +kernel

theorem test_layout_meets :
    let s := withScene fun q => { q with rend := { q.rend with edit := twoSpeakers, staged := [(0, {})] } }
    let c := cmd .f0 8 [(0, 1, 1)]
    (meets s specLayCommit c fun _ c x =>
      (match commitCheck x x.scene.rend.edit (u8 c.body 0) (u8 c.body 1) with
        | .ok _ => true
        | .error _ => false) &&
      decide ((x.modScene fun q => { q with rend := { q.rend with lay := q.rend.edit } }).pairUse ≤ pairCap x.clk.dom.rate)) = true ∧
    (∀ q ∈ s.la.scene.rend.staged, q.1 ≤ s.f0.mail.accNo) ∧
    (up.la.scene.obj 0).enabled = false ∧ (up.la.scene.obj 0).run.fade.busy up.la.clk.dom.sample = false := by decide +kernel

theorem test_output_meets :
    (∀ i, (511 : Nat) ≤ i → i < 511 + 1 → up.ownsFeed .f0 i = true) ∧
    (meets up specOutBankLoadAll (cmd .f0 32 [(0, 1, 63)]) fun _ c x => u16 c.body 6 == 0 && (x.scene.bank (u8 c.body 0)).state == 0) = true ∧
    (meets banked specOutBankSwapAll (cmd .f0 8 [(0, 1, 5), (4, 2, 64)]) fun _ _ x => x.scene.activeRun.isNone && x.scene.out.fades.isEmpty) = true ∧
    (let s := withScene fun q => { q with out := { q.out with
      banks := [(5, { state := 4, n := 1, feeds := [0] })], feeds := [(0, { run := { path := { bank := 5 } } })] } }
     meets s specOutBankSwapAll (cmd .f0 8 [(0, 1, 5), (1, 1, 1), (4, 2, 65535)]) fun _ c x =>
      x.scene.activeRun.isNone && (x.scene.inForce (u8 c.body 0)) == [0]) = true ∧
    (meets up specOutSwapReserve (cmd .f0 8 []) fun _ c x => decide (x.scene.reserveUsed ≤ u32 c.body 0) &&
      decide (x.scene.installed + u32 c.body 0 ≤ x.tapBudget)) = true := by
  refine ⟨fun i h1 h2 => ?_, by decide +kernel⟩
  obtain rfl : i = 511 := by omega
  decide +kernel

/-- A bank image of one feed, feed 0, with one tap. -/
def bankImage : List Byte := fill 328 [(2, 2, 65535)]

theorem test_bank_loads :
    (let s := withScene fun q => { q with out := { q.out with q := 1 } }
     let c := cmd .f0 32 [(1, 1, 1), (2, 2, 1), (6, 2, 1), (24, 4, 328)]
     ready s specOutBankLoadAll c = true ∧ s.server .f0 = some (.a, false) ∧ u16 c.body 6 ≠ 0 ∧ s.la.scene.activeRun = none ∧
      imageFault bankImage (feedCap s.la.clk.dom.rate) 1 1 1 = none) := by decide +kernel

theorem test_feed_steps :
    (∀ first ∈ [0, 1], let f : SwapFade := { bank := 5, first := first, len := 1, feeds := [0] }
      let s := withScene fun q => { q with out := { q.out with fades := [f], banks := [(5, { state := 3 })] } }
      (first = 1 → ∀ g ∈ s.la.scene.out.fades, g.bank = 5 → s.la.next < g.stop) ∧
      (first = 0 → (s.la.scene.out.fades.find? fun f => f.bank == 5 && decide (f.stop ≤ s.la.next)) = some f) ∧ f.waiting = none) ∧
    (∀ len ∈ [1, 2], ∀ w ∈ [false, true],
      let q : DelayFade := { level := { first := 0, len := len, target := 1 }, waiting := w }
      let s := withScene fun r => { r with out := { r.out with feeds := [(0, { set := { align := 5 }, run := { delayF := some q } })] } }
      (s.la.scene.feed 0).run.delayF = some q ∧ (q.level.busy (s.la.next - 1) = true ↔ len = 2) ∧
      (s.la.scene.feed 0).run.path.d ≠ (s.la.scene.feed 0).run.path.pad + (s.la.scene.feed 0).set.align) ∧
    (∀ step ∈ [0, 1], ∀ n ∈ [1, 2],
      let s := withScene fun r => { r with out := { r.out with feeds := [(0, { set := { slewStep := step, slewInt := n } })] } }
      0 < feedCap s.la.clk.dom.rate ∧ (s.la.scene.feed 0).run.slewedAt ≠ some s.la.next ∧ (s.la.next % (s.la.scene.feed 0).set.slewInt = 0 ↔ n = 1)) := by
  decide +kernel

theorem test_measurement_meets :
    (let s := withRun { running with phase := 1 }
     meets s specMeasAbort (cmd .f0 4 []) fun _ _ x => (x.scene.activeRun.map MeasRun.aborted) == some false) = true ∧
    (let s := withRun analysed
     let c := cmd .f0 32 [(24, 4, 32)]
     ready s specMeasResult c = true ∧ s.server .f0 = some (.a, false) ∧
      (measResult (s.meets specMeasResult c (.a, false)) c.body).map List.length = some (u32 c.body 24)) ∧
    (let c := cmd .f0 40 [(0, 1, 1), (2, 2, 1), (4, 2, 250), (6, 2, 63536), (8, 2, 1), (10, 2, 1), (32, 4, fOne), (36, 2, 10)]
     (List.range 128).all (fun i => !maskBit c.body 16 i || !up.la.micFree i) = true ∧ ¬(0 < u16 c.body 14)) ∧
    up.red.mode ≠ 2 := by decide +kernel

/-- A run with its first slot captured at the coming sample. -/
def slotDone : MeasRun := { running with n0 := 0, captured := 0, cmd := cmd .f0 72 [(6, 2, 1), (28, 2, 16)], fade := { target := 0 } }

theorem test_measurement_steps :
    up.la.scene.activeRun = none ∧
    (let s := withRun { slotDone with n0 := 0 }
     ∃ r, s.la.scene.activeRun = some r ∧ r.aborted = false ∧ r.captured < r.feeds.length ∧ s.la.next < r.slotAt (r.captured + 1)) ∧
    (let s := withA fun x => { x with
       scene := { x.scene with meas := { x.scene.meas with run := some slotDone } }
       clk := { x.clk with dom := { x.clk.dom with sample := slotDone.slotAt 1 - 1 } } }
     ∃ r, s.la.scene.activeRun = some r ∧ r.aborted = false ∧ r.captured < r.feeds.length ∧ r.slotAt (r.captured + 1) ≤ s.la.next) ∧
    (let sl : MeasSlot := { feed := 0, due := 1 }
     let s := withRun { running with captured := 1, phase := 2, slots := [sl] }
     ∃ r, s.la.scene.activeRun = some r ∧ r.slots = [sl] ∧ sl.due ≤ s.la.next) ∧
    (let s := withRun { running with captured := 1, analysed := 1, phase := 3, designDue := 1, results := [{ feed := 0 }] }
     ∃ r, s.la.scene.activeRun = some r ∧ r.phase = 3 ∧ r.designDue ≤ s.la.next ∧ r.aborted = false ∧ r.designable ≠ [] ∧
      r.results.Pairwise (fun a b => a.feed ≠ b.feed)) ∧
    (let s := withRun { running with captured := 1, analysed := 1, phase := 4, cmd := cmd .f0 72 [(3, 1, 2), (6, 2, 1)] }
     ∃ r, s.la.scene.activeRun = some r ∧ r.phase = 4 ∧ u8 r.cmd.body 3 = 2 ∧ r.swap = 0 ∧ r.aborted = false) ∧
    (∀ stop ∈ [none, some 1],
      let s := withRun { running with captured := 1, stop := stop, fade := { target := 1, first := 0, len := 1 }, phase := 2 }
      ∃ r, s.la.scene.activeRun = some r ∧ (r.aborted = true ∨ r.feeds.length ≤ r.captured) ∧ r.fade.target ≠ 0 ∧
        r.fade.first + r.fade.len ≤ s.la.next) := by
  refine ⟨by decide +kernel, ⟨_, rfl, by decide +kernel⟩, ⟨_, rfl, by decide +kernel⟩, ⟨_, rfl, by decide +kernel⟩,
    ⟨_, rfl, by decide +kernel⟩, ⟨_, rfl, by decide +kernel⟩, ?_⟩
  intro stop h
  simp only [List.mem_cons, List.not_mem_nil, or_false] at h
  rcases h with rfl | rfl
  · exact ⟨_, rfl, by decide +kernel⟩
  · exact ⟨_, rfl, by decide +kernel⟩

theorem test_tracking_steps :
    (∀ n ∈ [47998, 47999], ∀ m ∈ [0, 1],
      let s := withA fun x => { x with
        scene := { x.scene with meas := { x.scene.meas with track := { x.scene.meas.track with mode := m } } }
        clk := { x.clk with dom := { x.clk.dom with sample := n } } }
      let t := s.la.scene.meas.track
      s.la.fs ≠ 0 ∧ s.la.scene.activeRun = none ∧ (s.la.next % ((t.next.getD t.set).period * s.la.fs) = 0 ↔ n = 47999) ∧ t.clearing = false) ∧
    (∀ n ∈ [2879998, 2879999], let s := withA fun x => { x with
        scene := { x.scene with meas := { x.scene.meas with track := { x.scene.meas.track with mode := 1 } } }
        clk := { x.clk with dom := { x.clk.dom with sample := n } } }
      let t := s.la.scene.meas.track
      t.starved = false ∧ t.mode ≠ 0 ∧ s.la.fs ≠ 0 ∧ s.la.scene.activeRun = none ∧ (t.lastValid + 60 * s.la.fs ≤ s.la.next ↔ n = 2879999)) := by
  decide +kernel

theorem test_voice_meets :
    (meets up specVoxPool (cmd .f0 8 [(4, 2, 1024), (6, 2, 5)]) fun _ c x =>
      decide (x.scene.poolBase 16 - (x.scene.pool (u8 c.body 0)).size + u16 c.body 4 ≤ 1024)) = true ∧
    (meets up specVoxWaveLoad (cmd .f0 48 []) fun _ c x => u8 c.body 2 == 0 && !x.scene.waveRead (u16 c.body 0)) = true ∧
    (meets up specNoteEvents (cmd .f0 32 [(0, 2, 1), (18, 1, 1)]) fun _ c x =>
      decide (x.scene.vox.pending.length + u16 c.body 0 ≤ 4096)) = true ∧
    (meets up specNoteUmp (cmd .f0 24 [(0, 2, 1), (16, 4, 0x40903C00), (20, 4, 0xFFFF0000)]) fun _ c x =>
      decide (x.scene.vox.pending.length + u16 c.body 0 ≤ 4096)) = true := by decide +kernel

/-- A scene with one event that is due and a bound group. -/
def noted (e : NoteEv) : State := withScene fun q => { q with vox := { q.vox with
  groups := [(0, { bound := true })], patches := [(0, zeros 512)], pending := [e] } }

theorem test_note_steps :
    ∀ ty ∈ [1, 2, 6, 11], let e : NoteEv := { type := ty, count := 1, prepared := true }
      let s := noted e
      let g := s.la.scene.vgroup e.group
      (s.la.scene.vox.pending.filter fun e => decide (e.count ≤ s.la.clk.dom.nextCount)) = [e] ∧ e.noteId = 0 ∧ g.bound = true ∧
        g.limit = 0 ∧ g.sustain = false ∧ (s.la.scene.pool g.pool).size ≠ 0 ∧ (tfind s.la.scene.vox.patches g.patch).isSome = true ∧
        s.la.scene.freeVoice g.pool = some 0 := by decide +kernel

theorem test_voice_steps :
    (let s := withScene fun q => { q with vox := { q.vox with voices := [(0, { start := 2 })], shadows := [(1024, { into := some 0, at_ := 2 }), (1025, { into := some 1, at_ := 1 })] } }
     tfind s.la.scene.vox.voices 0 = some { start := 2 } ∧ s.la.next < 2 ∧
      tfind s.la.scene.vox.shadows 1024 = some { into := some 0, at_ := 2 } ∧ tfind s.la.scene.vox.shadows 1025 = some { into := some 1, at_ := 1 }) ∧
    up.la.next % 16 ≠ 0 ∧
    (let s := withA fun x => { x with
       scene := { x.scene with vox := { x.scene.vox with voices := [(0, { start := 16 })] } }
       clk := { x.clk with dom := { x.clk.dom with sample := 15 } } }
     s.la.next % 16 = 0 ∧ tfind s.la.scene.vox.voices 0 = some { start := 16 } ∧ 16 ≤ s.la.next) := by decide +kernel

theorem test_clip_meets :
    (meets (playing 1) specClipCue (cmd .f0 24 [(4, 4, 3), (12, 4, 4)]) fun _ c x =>
      let p := x.scene.player (u16 c.body 0)
      !p.active && p.state != 6 && (x.scene.clip (u16 c.body 2)).loaded && decide (u32 c.body 4 < (x.scene.clip (u16 c.body 2)).frames) &&
        decide (u32 c.body 12 ≤ (x.scene.clip (u16 c.body 2)).frames)) = true ∧
    (meets up specClipCue (cmd .f0 24 [(2, 2, 65535)]) fun _ c x =>
      let p := x.scene.player (u16 c.body 0)
      !p.active && p.state != 6) = true ∧
    (∀ k ∈ [1, 3, 4], (meets (playing k) specClipPlay (cmd .f0 8 []) fun _ _ x =>
      (x.scene.player 0).state == k && (x.scene.clip (x.scene.player 0).clip).rate == x.clk.dom.rate) = true) ∧
    (meets (playing 2) specClipPause (cmd .f0 8 []) fun _ _ x => (x.scene.player 0).state == 2) = true ∧
    (∀ k ∈ [1, 2, 3, 4], (meets (playing k) specClipStop (cmd .f0 8 []) fun _ _ x => (x.scene.player 0).state == k) = true) ∧
    (meets up specClipLoad (cmd .f0 32 []) fun _ c x => u8 c.body 2 == 0 && !x.scene.clipCued (u16 c.body 0)) = true := by
  decide +kernel

theorem test_clip_steps :
    (∀ b ∈ [false, true], let s := withScene fun q => { q with clips := { q.clips with
       clips := [(0, { channels := 1, frames := 4, rate := 2, data := zeros 8, sent := 4 })]
       players := [(0, { state := 2, clip := 0, arrived := b, pos := if b then 2 else 4 })] } }
     (s.la.scene.player 0).arrived = b ∧ (s.la.scene.player 0).ended (s.la.scene.clip 0) = !b) ∧
    (∀ k ∈ [3, 5], ∀ n ∈ [1, 2], let s := withScene fun q => { q with clips := { q.clips with
       players := [(0, { state := k, level := { first := 0, len := n } })] } }
     (s.la.scene.player 0).state = k ∧ ((s.la.scene.player 0).level.first + (s.la.scene.player 0).level.len ≤ s.la.next ↔ n = 1)) := by
  decide +kernel

theorem test_store_loads :
    ready up specVoxPatchLoad (cmd .f0 32 [(2, 2, 1), (24, 4, 512)]) = true ∧
    ready up specVoxWaveLoad (cmd .f0 48 [(2, 1, 1), (3, 1, 2), (4, 4, 1), (40, 4, 8192)]) = true ∧
    ready up specClipLoad (cmd .f0 32 [(2, 1, 1), (4, 4, 2), (8, 1, 2), (24, 4, 4)]) = true ∧
    (∀ k, k < 1 → lowestBad (patchChecks (zeros 512) (512 * k)) = none) ∧ up.la.scene.waveRead 0 = false ∧
    (let s := withScene fun q => { q with clips := { q.clips with clips := [(0, { channels := 1, frames := 2, rate := 2, parts := [9], sent := 2 })] } }
     (s.la.scene.clip 0).parts.contains 9 = true) := by
  refine ⟨by decide +kernel, by decide +kernel, by decide +kernel, fun k h => ?_, by decide +kernel⟩
  obtain rfl : k = 0 := by omega
  decide +kernel

/-- Meets the hypotheses of a routing statement: ready, served, carried out. -/
def routed (s : State) (sp : Spec) (c : Cmd) : Bool := runs s sp c && (s.server c.fn).isSome

theorem test_routing_meets :
    (∀ r ∈ routingRows, (r.1.op ∈ [0x0801, 0x0802, 0x0803, 0x0804, 0x0805, 0x0902] → routed r.2.1 r.1 r.2.2 = true)) ∧
    (∀ b ∈ [0, 1], let c := cmd .f0 12 [(2, 2, 1)]
      let s := withObj 0 { sel := { first := 1, len := b, eff := some 0 } }
      routed s specRteSource c = true ∧ (((s.meets specRteSource c (.a, false)).scene.sel 0 0).busy s.la.next = true ↔ b = 1) ∧
        ((s.meets specRteSource c (.a, false)).scene.sel 0 0).eff ≠ some s.la.next) ∧
    routed up specRteEgress (cmd .f0 12 [(0, 1, 1), (4, 2, 32)]) = true ∧
    routed up specRteBus (cmd .f0 16 [(0, 1, 15), (1, 1, 63), (2, 1, 1), (3, 1, 3)]) = true ∧
    routed up specRteBridge (cmd .f0 16 [(0, 2, 255), (2, 2, 1), (5, 1, 1)]) = true ∧
    routed silentA specRteDomain (cmd .f0 8 [(1, 1, 2)]) = true ∧
    routed up specRteDomain (cmd .f0 8 [(0, 1, 2), (1, 1, 2)]) = true := by decide +kernel

theorem test_routing_steps :
    (∀ len ∈ [1, 2], let s := withObj 0 { sel := { first := 0, len := len, eff := some 0, waiting := some { src := 1 } } }
      (s.la.scene.sel 0 0).waiting = some { src := 1 } ∧ ((s.la.scene.sel 0 0).busy s.la.next = true ↔ len = 2)) ∧
    (∀ n ∈ [958, 959], let s := withA fun x => { x with clk := { x.clk with dom := { x.clk.dom with sample := n, count := n } } }
      s.la.fs ≠ 0 ∧ (s.la.next % (s.la.fs / 50) = 0 ↔ n = 959) ∧ s.la.scene.route.meters.endAt ≠ s.la.nextTns) ∧
    (let b : Bridge := { op := 1, domain := 1 }
     let s := withScene fun q => { q with route := { q.route with bridges := [(255, b)] } }
     (s.la.scene.bridge 255).op ≠ 0 ∧ (s.la.scene.bridge 255).ratio = 0 ∧ (s.la.scene.bridge 255).adopt = none ∧ (up.la.scene.bridge 255).op = 0 ∧
      (196608 : Int).natAbs ≤ 4 * s.la.fs * 1024 / 1000 ∧ ¬((196609 : Int).natAbs ≤ 4 * s.la.fs * 1024 / 1000)) ∧
    (∀ n ∈ [63, 64], ∀ silent ∈ [false, true],
      let r : Restart := { first := 0, rate := 4, silent := silent }
      let s := withA fun x => { x with clk := { x.clk with restart := some r, dom := { x.clk.dom with sample := n - 1 } } }
      s.la.clk.restart = some r ∧ r.joint = false ∧ (r.first + 64 ≤ s.la.next ↔ n = 64)) := by decide +kernel

/-- A microcode image of one `NOP` word, and the state with an attachment that a page is on its way to. -/
def staged : State := withScene fun q => { q with uc := { q.uc with
  progs := [(0, { code := [0], params := 1, rows := [1] })], atts := [(0, { state := 2, count := 1, staged := [9] })] } }

theorem test_microcode_meets :
    (meets up specUcLoad (cmd .f0 32 [(0, 1, 7)]) fun _ c x => allZero c.body 16 16 && !x.scene.progUsed (u8 c.body 0)) = true ∧
    (let c := cmd .f0 32 []
     runs (coded 2) specUcAttach c = true ∧ u8 c.body 1 = 0) ∧
    (let c := cmd .f0 32 [(1, 1, 1), (6, 2, 1)]
     let s := withScene fun q => { q with uc := { q.uc with progs := [(0, { points := 15, code := [0], cycles := 1 })] } }
     ready s specUcAttach c = true ∧ allZero c.body 16 16 = true) ∧
    (ready (coded 2) specUcParam (cmd .f0 32 [(24, 4, 4096)]) = true ∧ ((coded 2).la.scene.att 0).state ≠ 0) ∧
    ((staged.la.scene.att 0).state ≠ 0 ∧ (up.la.scene.progUsed 7) = false) := by decide +kernel

theorem test_microcode_steps :
    (∀ k ∈ [1, 3], ∀ n ∈ [1, 2], let s := withScene fun q => { q with uc := { q.uc with atts := [(15, { state := k, level := { first := 0, len := n } })] } }
      let a := s.la.scene.att 15
      a.state = k ∧ a.level.first < s.la.next ∧ (a.level.first + a.level.len ≤ s.la.next ↔ n = 1)) ∧
    (let s := withScene fun q => { q with uc := { q.uc with atts := [(15, { state := 2, count := 1 })] } }
     let a := s.la.scene.att 15
     a.state ≠ 0 ∧ (a.passes s.la.clk.dom.rate) ≠ [] ∧ a.drop = []) := by decide +kernel

theorem test_network_meets :
    (ready up specNetPort (cmd .f0 24 [(0, 1, 1), (1, 1, 1), (14, 1, 24)]) = true ∧
      ((up.servers .f0).any fun q => q.1 == LeafId.a) = true ∧ (up.la.port 1).mode ≠ 1) ∧
    (ready twinUp specNetPort (cmd .f0 24 [(0, 1, 3), (14, 1, 24)]) = true ∧ ((twinUp.servers .f0).any fun q => q.1 == LeafId.b) = true) ∧
    (up.ownsRx .f0 63 = true ∧ up.ownsTx .f0 63 = true) ∧
    (let c := cmd .f0 40 [(5, 1, 1), (6, 1, 1), (8, 2, 48), (10, 2, 96), (12, 1, 96), (13, 1, 1)]
     let s := withScene fun q => { q with net := { q.net with rx := [(0, { on := true, set := rxSetOf c.body })] } }
     runs s specNetRxStream c = true ∧ (s.la.scene.rx 0).on = true) ∧
    (let c := cmd .f0 40 [(4, 1, 1), (7, 1, 1), (8, 2, 48), (12, 1, 96), (13, 1, 1)]
     let s := withScene fun q => { q with net := { q.net with tx := [(0, { on := true, sending := true, set := txSetOf c.body })] } }
     runs s specNetTxStream c = true ∧ (s.la.scene.tx 0).sending = true) := by
  decide +kernel

/-- A port of leaf A as `q`. -/
def withPort (q : Port) : State := withA fun x => { x with port0 := q }

theorem test_port_steps :
    ((withPort { link := true }).la.port 0).link = true ∧
    (let q := (withPort { lineMode := 1 }).la.port 0
     q.link = false ∧ q.lineMode ≠ 0 ∧ q.los = false ∧ up.alive .a = true) ∧
    (∀ w ∈ [0, 1], let s := withA fun x => { x with port0 := { mode := 4, waitLock := w }, clk := { x.clk with tbs := [(0, { t := 400000000 * 2 ^ 51 })] } }
     (s.la.port 0).mode = 4 ∧ (s.la.port 0).link = false ∧ ((s.la.port 0).waitLock + 2000000000 ≤ s.la.now ↔ w = 0)) ∧
    ((withPort { stopped := 255 }).la.port 0).stopped ≠ 0 ∧
    (let m : MediaOut := {}
     let q := (withPort { stopped := 64, media := [m] }).la.port 0
     q.media = [m] ∧ bit q.stopped 6 = true) := by decide +kernel

theorem test_stream_steps :
    (∀ at_ ∈ [0, 1], let s := withA fun x => { x with
       scene := { x.scene with net := { x.scene.net with rx := [(63, { on := true, set := { flags := 1, samples := 48 }, leg0 := { at_ := at_ } })] } } }
     let q := s.la.scene.rx 63
     q.on = true ∧ q.set.hasLeg 0 = true ∧ (q.leg 0).lost = false) ∧
    (let s := withScene fun q => { q with net := { q.net with tx := [(63, { on := true, set := { dest0 := 0x0A000001 } })] } }
     let q := s.la.scene.tx 63
     q.on = true ∧ isGroup ((q.next.getD q.set).dest 0) = false) ∧
    (let p : TxPacket := { count := 0, last := 1, set := { flags := 1, dest0 := 0xEF000001 } }
     let s := withScene fun q => { q with net := { q.net with tx := [(63, { ready := [p] })] } }
     (s.la.scene.tx 63).ready = [p] ∧ s.gateHolds .a p.last = false ∧ s.twin = false ∧ (s.red.of .a).claim ≠ 0 ∧
      ((s.la.scene.tx 63).destMac p.set 0).isSome = true) := by decide +kernel

/-- A host descriptor of `n` bytes with flags. -/
def desc (n flags : Nat) : List Byte := fill 32 [(8, 2, n), (10, 2, flags)]

/-- Leaf A with a host ring. -/
def withRing (k : Nat) (r : HostRing) : State := withA fun x => { x with
  scene := { x.scene with net := { x.scene.net with rings := [(k, r)] } }, port0 := { link := true } }

theorem test_ring_steps :
    (let s := withRing 4 { on := true, size := 64 }
     let r := s.la.scene.ring 4
     r.on = true ∧ s.ringsRun .a = true ∧ r.polled ≤ s.la.now ∧ r.ready.length + 8 ≤ r.size) ∧
    (let s := withRing 4 { on := true, event := true, returned := 1, interval := 100, reported := some 0 }
     let r := s.la.scene.ring 4
     r.on = true ∧ r.event = true ∧ 0 < r.returned ∧ s.la.now < 0 + r.interval * 1000) ∧
    (∀ n ∈ [60, 9212], let s := withRing 0 { on := true, size := 64, ready := [desc n 7] }
     let r := s.la.scene.ring 0
     r.on = true ∧ s.ringsRun .a = true ∧ s.alive .a = true ∧ txGroup false 0 r.ready = some (1, true) ∧
      ((r.ready.take 1).map fun d => u16 d 8) = [n] ∧ (s.la.port 0).link = true ∧ bit (s.la.port 0).stopped 0 = false) := by decide +kernel

/-- A frame of `n` bytes to an address, with an EtherType and the first bytes of its data. -/
def frame (n dst ethertype : Nat) (front : List Byte) : List Byte :=
  beBytes 6 dst ++ zeros 6 ++ beBytes 2 ethertype ++ front ++ zeros (n - 14 - front.length)

/-- An RTP packet to group 239.0.0.1 port 5004: IPv4 and UDP without a checksum, one sample of three bytes at the coming count. -/
def rtpFrame : List Byte := frame 64 0x01005E000001 0x0800
  ([0x45, 0, 0, 43, 0, 0, 0, 0, 1, 17, 0x0A, 0x18] ++ [0xC0, 0xA8, 0, 1, 0xEF, 0, 0, 1] ++ [0x13, 0x8C, 0x13, 0x8C, 0, 23, 0, 0] ++
    [0x80, 0x60, 0, 5, 0, 0, 0, 1, 0, 0, 0, 0] ++ [0x12, 0x34, 0x56])

/-- Leaf A with a linked port, one receive stream and one filter to ring 4. -/
def linked : State := withA fun x => { x with
  port0 := { link := true, pause := 1, useMac := true, mac := 0x020000000001 }
  scene := { x.scene with net := { x.scene.net with
    rx := [(0, { on := true, set := { flags := 1, samples := 1, channels := 1, link := 8, ptype := 96, group0 := 0xEF000001, port0 := 5004 } })]
    filters := [(0, { ring := 4, ports := 1, tests := 2, etherType := 0x88B5 })]
    rings := [(4, { on := true, size := 64, ready := [desc 2048 1] })] } } }

theorem test_frames :
    (let f := rtpFrame ++ zeros 4
     let p := parseRtp (parseFrame rtpFrame).data 1
     linked.la.classify .a 0 (parseFrame (f.take (f.length - 4))) = .media false 0 ∧ 64 ≤ f.length ∧ f.length ≤ 9216 ∧
      (linked.la.streamClock 0).1 ≠ 0 ∧ (linked.la.scene.rx 0).set.conforms p = true ∧ (linked.la.scene.rx 0).set.kind ≠ 1 ∧
      (linked.la.scene.rx 0).buf = [] ∧ countDiff ((linked.la.scene.rx 0).wanted (linked.la.streamClock 0).2) ((p.ts + 4294967296 - 0) % 4294967296) ≤ 0) ∧
    linked.la.classify .a 0 (parseFrame (frame 60 2 0x0800 [])) = .filtered ∧
    (let f := parseFrame (frame 60 0x0180C2000001 0x8808 [0, 1, 0, 255])
     linked.la.classify .a 0 f = .pause ∧ (linked.la.port 0).pause = 1 ∧ beAt f.body 0 2 = 1 ∧ beAt f.body 2 2 = 255) ∧
    (linked.la.classify .a 0 (parseFrame (frame 60 0xFFFFFFFFFFFF 0x88B5 [])) = .host 0 4 ∧ (linked.la.scene.ring 4).on = true ∧
      linked.ringsRun .a = true ∧ (64 + 2047) / 2048 ≤ (linked.la.scene.ring 4).ready.length) ∧
    (∀ k, (linked.la.scene.ring k).deliverBad = false) := by
  refine ⟨by decide +kernel, by decide +kernel, by decide +kernel, by decide +kernel, fun k => ?_⟩
  by_cases h : k = 4
  · subst h; decide
  · have e : linked.la.scene.ring k = if 4 = k then { on := true, size := 64, ready := [desc 2048 1] } else ring0 := rfl
    rw [e, if_neg (Ne.symm h)]
    rfl

/-- Leaf A with a time base 1. -/
def withTb (t : TimeBase) : State := withA fun x => { x with clk := { x.clk with tbs := [(1, t)] } }

theorem test_clock_meets :
    (∀ a ∈ [0, 1, 2], let s := withTb { pending := true, theta := 20000 }
      runs s specClkTbAction (cmd .f0 8 [(0, 1, 1), (1, 1, a)]) = true ∧ s.la.fs ≠ 0) ∧
    (let s := withTb { source := 0, y := 5 }
     runs s specClkTbSource (cmd .f0 32 [(0, 1, 1), (1, 1, 2), (15, 1, 1), (16, 1, 255)]) = true ∧ (s.la.tb 1).source ≠ 2) ∧
    runs up specClkTbSource (cmd .f0 32 []) = true ∧
    runs silentA specClkPll (cmd .f0 8 [(0, 1, 1), (1, 1, 1)]) = true := by decide +kernel

theorem test_servo_steps :
    (∀ src ∈ [1, 2], ∀ theta ∈ [10000, 10001],
      let t : TimeBase := { source := src, portState := 9, hasPath := true, acquiring := false, state := 2, jump := 10000 }
      let s := withTb t
      s.la.tb 1 = t ∧ s.twin = false ∧ t.slewing = false ∧ t.rem = 0 ∧ t.rateChange = false ∧ t.acquiring = false ∧ t.stopped = false ∧
        t.pending = false ∧ (absQ ((theta : Int) : Rat) ≤ t.threshold ↔ theta = 10000)) ∧
    (let t : TimeBase := { source := 2, stopped := true }
     (withTb t).la.tb 1 = t) ∧
    (∀ edges ∈ [4775, 4776, 4824, 4825],
      (rateHz 2 < 200 * ((edges * 10 : Nat) - (rateHz 2 : Nat) : Int).natAbs ↔ edges = 4775 ∨ edges = 4825)) ∧
    (∀ pol ∈ [0, 2], let t : TimeBase := { due := true, pending := true, policy := pol, theta := 20000 }
      (withTb t).la.tb 1 = t ∧ (withTb t).la.tbIdle 1 = true) ∧
    (let s := withA fun x => { x with clk := { x.clk with tbs := [(0, { due := true, pending := true })] }, scene := { net := { rx := [(0, { on := true })] } } }
     s.la.tbIdle 0 = false) := by decide +kernel

theorem test_ptp_steps :
    (∀ role ∈ [0, 1], ∀ had ∈ [false, true],
      let t : TimeBase := { source := 1, portState := 9, role := role, hadLock := had, state := 0, clockClass := 248 }
      (withTb t).la.tb 1 = t ∧ t.portState ≠ 6) ∧
    (∀ p ∈ [127, 129], let m : PtpAnnounce := { prio1 := p }
      (m.prio1 < ({ clockClass := 128 } : TimeBase).prio1 ↔ p = 127) ∧ (({ clockClass := 128 } : TimeBase).prio1 < m.prio1 ↔ p = 129)) ∧
    (up.la.clk.vcxo 0).fitted = true ∧ up.la.clk.dom.rate ≠ 0 ∧ rateFamily up.la.clk.dom.rate = 0 ∧ (up.la.clk.vcxo 0).code ≠ 0 ∧
    (∀ c ∈ [0, 1048575], ((withA fun x => { x with clk := { x.clk with v48 := { code := c } } }).la.clk.vcxo 0).code = c) ∧
    (∀ good ∈ [2, 3], let p : Pll := { good := good }
      ((withA fun x => { x with clk := { x.clk with tie := p } }).la.clk.pll 4) = p) ∧
    (let p : Pll := { locked := true, gated := true }
     (withA fun x => { x with clk := { x.clk with tie := p } }).la.clk.pll 4 = p) ∧
    (let p : Pll := { locked := true, gated := false }
     (withA fun x => { x with clk := { x.clk with tie := p } }).la.clk.pll 4 = p) := by decide +kernel

theorem test_microphone_meets :
    (let s := withA fun x => { x with mics := { x.mics with clocks := [(0, { on := true, ratio := 64, n := 64, mask := 1 })] } }
     runs s specMicClock (cmd .f0 8 [(2, 2, 64), (4, 2, 64)]) = true ∧ (s.la.micClock 0).mask ≠ 0) ∧
    runs up specMicClock (cmd .f0 8 [(2, 2, 64), (4, 2, 64)]) = true ∧
    (∀ sel ∈ [0, 1, 2, 3, 4, 7], runs up specMicConfig (cmd .f0 12 [(0, 1, 127), (1, 1, 1), (2, 1, sel), (4, 1, 9), (5, 1, 12), (6, 2, 10)]) = true) ∧
    (let s := withA fun x => { x with mics := { x.mics with chans := [(0, { ring := [{}] })] } }
     ready s specMicRead (cmd .f0 32 [(2, 2, 1), (24, 4, 272)]) = true ∧ 1 ≤ (s.la.mic 0).ring.length) := by decide +kernel

theorem test_mic_frames :
    (∀ g ∈ [false, true], let s := withA fun x => { x with
       mics := { x.mics with clocks := [(7, { on := true, ratio := 64, n := 64, mask := 0x8000 })], chans := [(127, { settle := 1 })] }
       clk := { x.clk with audio := { gated := g, locked := !g } } }
      s.la.micMasked 127 = true ∧ (s.la.micClock 7).newMask = none ∧ s.la.clk.audio.gated = g ∧
        0 < ((s.la.mic 127).next s.la.clk.dom.sample).settle) ∧ up.la.micMasked 127 = false := by decide +kernel

/-- The module with its coping at work. -/
def coped (f : Coping → Coping) : State := { up with cop := f { up.cop with held := false, clamped := false } }

theorem test_coping_steps :
    (∀ r ∈ moduleRows, r.1.op ∈ [0x0D01, 0x0D02, 0x0D03, 0x0D04] → ready r.2.1 r.1 r.2.2 = true) ∧
    (let s := { coped id with la := { upLeaf with clk := { upLeaf.clk with audio := { gated := false, locked := true } } } }
     s.variant.hasCoping = true ∧ s.cop.held = false ∧ s.copSource = some .a ∧
      ¬(s.la.fs = 0 ∨ s.la.clk.audio.gated = true ∨ s.alive .a = false ∨ s.cop.loaded = some (some .a, s.la.copPrev.sample)) ∧
      s.cop.staged = [] ∧ (let o := s.cop.out 31
        o.phase = 0 ∧ o.mute.at_ s.cop.tick = 1 ∧ o.fade.at_ s.cop.tick = 1 ∧ o.resume.at_ s.cop.tick = 1 ∧ o.fallFrom = 0 ∧ o.sigma = 0 ∧
          o.slewedAt = none)) ∧
    (State.reset.cop.held = true ∧ up.la.clk.audio.gated = true) ∧
    (∀ sigma ∈ [0, 4], let s := coped fun c => { c with outs := [(31, { sigma := sigma })] }
      s.cop.lost = false ∧ ¬(s.cop.loaded = some (some .a, s.la.copPrev.sample) ∨ (s.cop.out 31).slewedAt = some s.la.copPrev.sample ∨
        s.la.copPrev.sample % (s.cop.out 31).interval ≠ 0)) ∧
    (∀ n ∈ [63, 64], ∀ ph ∈ [1, 2], let s := coped fun c => { c with tick := n, outs := [(31, { phase := ph, fade := { len := 64 } })] }
      (s.cop.out 31).phase = ph ∧ (s.cop.out 31).spanNext = none ∧ ((s.cop.out 31).fade.first + 64 ≤ s.cop.tick ↔ n = 64)) ∧
    (coped id).cop.source = some .a := by decide +kernel

theorem test_coping_supervision :
    (∀ f ∈ [0, 15], let s := coped fun c => { c with outs := [(31, { faults := f, ok := [9, 8, 9, 8], bad := [1, 2, 1, 2] })], cvs := [(3, { mon := { faults := f } })] }
      s.variant.hasCoping = true ∧ s.cop.held = false ∧ (s.cop.out 31).faults = f ∧ (s.cop.cv 3).mon.faults = f) ∧
    ({ up with cop := copReset }).plinth.supply = true ∧ copReset.held = true ∧ State.reset.plinth.supply = false ∧
    { State.reset with variant := .zl4824tn }.variant.hasCoping = false := by decide +kernel

theorem test_redundancy_meets :
    (∀ r ∈ moduleRows, r.1.op ∈ [0x0E01, 0x0E02, 0x0E03, 0x0E04, 0x0E05] → runs r.2.1 r.1 r.2.2 = true) ∧
    (let s := { twinUp with red := { twinUp.red with agreed := 9600 }, la := { upLeaf with clk := {} }, lb := { upLeaf with clk := {} } }
     runs s specRedSwap (cmd .f2 8 []) = true ∧ s.la.fs = 0) ∧
    (let s := { splitUp with red := { splitUp.red with a := { claim := 8 }, b := { claim := 0 } } }
     runs s specRedRestore (cmd .f2 16 [(0, 1, 1)]) = true ∧ s.red.standbyClaim = s.red.a.claim) ∧
    (up.red.a.grant = none ∧ up.red.a.claim = up.red.activeClaim ∧ up.red.b.claim = up.red.standbyClaim ∧ up.red.b.claim ≠ up.red.activeClaim) := by
  decide +kernel

theorem test_pair_steps :
    up.red.a.grant = none ∧
    (∀ k ∈ [0, 8, 9], let g : Grant := { claim := k, cause := 7 }
      let s := { twinUp with red := { twinUp.red with a := { claim := 12, grant := some g } } }
      s.red.a.grant = some g ∧ (g.claim = 0 ∨ g.claim ≠ s.red.b.claim ↔ k ≠ 8)) ∧
    (failedA.alive .a = false ∧ up.alive .a = true) ∧
    (twinUp.red.mode = 1 ∧ twinUp.red.active = .a ∧ twinUp.alive .b = true ∧ twinUp.red.b.claim ≠ 0 ∧ twinUp.red.b.grant = none) ∧
    ¬(twinUp.variant.hasB = false ∨ twinUp.red.tieUp = false ∨ twinUp.alive .a = false ∨ twinUp.alive .b = false ∨
        (twinUp.leaf .a).stopped = true ∨ (twinUp.leaf .b).stopped = true) ∧
    State.reset.red.tieUp = false ∧
    (let s := { up with red := { up.red with tieUp := false } }
     s.variant.hasB = true ∧ s.red.tieUp = false ∧ s.alive .a = true ∧ s.alive .b = true) ∧
    (∀ demote ∈ [0, 2], ∀ crc ∈ [1, 2],
      let own : Msg := { sample := 1, crcs := [1, 1, 1, 1, 1, 1, 1, 1] }
      let peer : Msg := { own with crcs := [crc, 1, 1, 1, 1, 1, 1, 1] }
      let s := { twinUp with red := { twinUp.red with demote := demote, a := { claim := 12, own := some own, peer := some peer }, b := { claim := 8 } } }
      s.red.a.own = some own ∧ s.red.a.peer = some peer ∧ s.guarded = true ∧
        ¬(s.twin = false ∨ s.alive .a = false ∨ s.red.tieUp = false ∨ own.sample ≠ peer.sample ∨ own.sample ≤ s.red.a.judged) ∧
        (s.verdict own peer .a = none ↔ crc = 1) ∧ s.red.b.judged < own.sample) ∧
    (let own : Msg := { sample := 1, flag := true }
     let s := { twinUp with red := { twinUp.red with a := { claim := 12, own := some own }, b := { claim := 8 } } }
     s.red.a.own = some own ∧ s.guarded = true ∧ ¬(own.sample ≤ s.red.a.judged) ∧ s.red.a.peer = none ∧ s.red.demote ≠ 0) := by
  decide +kernel

theorem test_checkpoint_steps :
    (splitUp.red.mode = 2 ∧ splitUp.red.tieUp = true ∧ splitUp.alive .a = true ∧ splitUp.alive .b = true ∧ splitUp.red.a.lost = false) ∧
    (let j : Journal := { acked := true }
     let s := { splitUp with red := { splitUp.red with a := { claim := 12, journal := [j, ({} : Journal)] } } }
     s.red.a.journal[1]? = some ({} : Journal) ∧ (s.red.a.journal.takeWhile Journal.acked).length = 1) ∧
    (∀ half ∈ [(none : Option Scene), some {}], let s := { up with red := { up.red with split := some ({} : Cmd), a := { claim := 12, transit := some (({} : Scene), none) }, b := { claim := 8, ckpt := half } } }
      s.red.a.transit = some (({} : Scene), none) ∧ s.red.entry = none ∧ s.red.split ≠ none ∧ (s.red.b.ckpt = none ↔ half = none)) ∧
    (let k : Takeover := { lost := .b }
     let s := { splitUp with red := { splitUp.red with takeover := some k } }
     s.red.takeover = some k ∧ s.red.mode = 2 ∧ s.alive .a = true ∧ k.lost = LeafId.a.other ∧ k.both = false ∧ s.red.a.journal = []) ∧
    (∀ at_ ∈ [0, 1, 20834], let e : Entry := { at_ := at_ }
      let s := { up with red := { up.red with entry := some e } }
      s.red.entry = some e ∧ e.copied = false ∧ e.op ≠ 2 ∧ (s.leaf e.source).fs ≠ 0 ∧ (s.leaf e.source).now < 1) ∧
    (let e : Entry := { copied := true }
     let s := { silentA with red := { up.red with entry := some e, b := {} } }
     s.red.entry = some e ∧ (s.leaf e.source).clk.restart = none ∧ (s.leaf e.source).clk.dom.rate = 0 ∧ (s.red.of e.source.other).claim = 0 ∧
      0 < s.red.standbyClaim ∧ s.red.standbyClaim < s.red.activeClaim) ∧
    (let e : Entry := { copied := true }
     let r : Restart := { rate := 2, silent := true, joint := true }
     let s := { (withA fun x => { x with clk := { x.clk with restart := some r } }) with red := { up.red with entry := some e, b := {} } }
     s.red.entry = some e ∧ (s.leaf e.source).clk.restart = some r ∧ s.red.b.claim = 0) := by decide +kernel

theorem test_system_meets :
    ready up specSysCaps (cmd .f0 4 []) = true ∧ ready up specSysCaps (cmd .f2 4 []) = true ∧
    (let p : Pend := { cmd := { fn := .f0, op := 0x0202, tag := 9, acc := 1 }, count := 2, released := true }
     let s := withMail fun m => { m with queued := [p], accNo := 1 }
     let c := cmd .f0 8 [(0, 4, 9)]
     clear s (specSysCancel undoCmd) c = true ∧ c.when_ = 0 ∧
      checkCommand (specSysCancel undoCmd) (s.takes (specSysCancel undoCmd) c) (taken (specSysCancel undoCmd) s c) = (sOk, 0) ∧
      (∀ q ∈ (s.fn c.fn).mail.queued, (s.fnDom c.fn).nextCount < q.count) ∧
      (∃ q ∈ (s.fn c.fn).mail.queued, (q.released && q.cmd.tag == u32 c.body 0 && decide ((s.fnDom c.fn).nextCount < q.count)) = true)) ∧
    (let s := withA fun x => { x with run := 1, boot := { x.boot with waitHost := true } }
     ready s specSysBootLoad (toA (cmd .f2 48 [(24, 4, 4), (40, 4, 4)])) = true ∧ s.f2.mail.refCount ≤ 62) ∧
    ready up specSysFwUpdate (toA (cmd .f2 32 [(24, 4, 4)])) = true ∧
    (let c := toA { cmd .f2 32 [(24, 4, 4)] with op := 0x0104 }
     let j : DmaJob := { cmd := c, refs := [{ len := 4 }] }
     let s : State := { up with f2 := { up.f2 with mail := { up.f2.mail with dma := [j] } }, la := { upLeaf with boot := { update := some { cmd := c } } } }
     (s.fn c.fn).mail.dma = [j] ∧ c.when_ = 0 ∧ (s.fn c.fn).mail.queued = [] ∧ s.takingOver c.fn = false ∧ (s.leaf (targetLeaf c)).boot.update ≠ none ∧
      (s.leaf (targetLeaf c)).boot.spareSlot = 1) ∧
    (let s : State := { twinUp with lb := upLeaf }
     runs s specTstDramFreq { cmd .f2 8 [(0, 1, 1)] with target := 2 } = true ∧ s.standbyUp .b = true ∧ s.lb.testing = false) ∧
    runs up specDiagConfig { cmd .f2 8 [] with target := 2 } = true := by decide +kernel

theorem test_power_steps :
    State.reset.plinth.supply = false ∧ up.plinth.supply = true ∧
    ({ up with f2 := { up.f2 with mail := { up.f2.mail with d3 := true } } }.reachable .f2 = false ∧ up.reachable .f2 = true) ∧
    (∀ v ∈ [0xA5C30000, 0xA5C30008, 0xA5C30006, 0xA5C30010, 0xA5C20002],
      ((bits (BitVec.ofNat 32 v).toNat 31 16 ≠ 0xA5C3 ∨ bits (BitVec.ofNat 32 v).toNat 15 4 ≠ 0) ↔ v = 0xA5C30010 ∨ v = 0xA5C20002) ∧
        bit (BitVec.ofNat 32 v).toNat 0 = false) ∧
    (up.la.pwr ≠ 0 ∧ State.reset.la.pwr = 0) ∧
    (let s := withA fun x => { x with run := 0 }
     s.la.pwr = 2 ∧ s.la.run = 0) ∧
    (∀ src ∈ [false, true], let s := withA fun x => { x with run := 1, boot := { x.boot with src := src } }
      s.la.run = 1 ∧ s.la.boot.waitHost = false ∧ (if s.la.boot.src then some 255 else s.la.boot.choose) = some (if src then 255 else 0)) ∧
    (let s := withA fun x => { x with run := 1, boot := { x.boot with valid0 := false } }
     s.la.boot.src = false ∧ s.la.boot.choose = none) := by decide +kernel

theorem test_test_steps :
    (∀ op ∈ [0x0F01, 0x0F02, 0x0F03, 0x0F04], let k : Test := { op := op, cmd := cmd .f0 24 [(0, 1, 1)] }
      let s := withA fun x => { x with boot := { x.boot with tests := [k] } }
      (s.la.boot.tests.find? fun t => !t.field) = some k) ∧ (up.la.boot.tests.find? fun t => !t.field) = none ∧
    (let u : Load := { cmd := cmd .f2 32 [(0, 1, 3)], data := [1], update := true }
     let s := withA fun x => { x with boot := { x.boot with update := some u } }
     s.la.boot.update = some u ∧ u.data ≠ []) := by decide +kernel

theorem test_memory_steps :
    (∀ hits ∈ [1, 15], let h : EccHit := { bank := 47, row := 4095, slot := 63, hits := hits, rewritten := true }
      let s := withA fun x => { x with ecc := { x.ecc with table := [h] } }
      (s.la.ecc.table.find? fun h => h.same 47 4095 63) = some h) ∧
    (up.la.ecc.table.find? fun h => h.same 47 4095 63) = none ∧
    (∀ at_ ∈ [0, 1], let h : EccHit := { at_ := at_ }
      let s := withA fun x => { x with ecc := { x.ecc with table := [h] }, clk := { x.clk with tbs := [(0, { t := 12000000000 * 2 ^ 51 })] } }
      s.la.ecc.table[0]? = some h ∧ h.hits = 1 ∧ h.weak = false ∧ (h.at_ + 60000000000 ≤ s.la.now ↔ at_ = 0)) ∧
    (let h : EccHit := { weak := true, repair := 1 }
     let s := withA fun x => { x with ecc := { x.ecc with table := [h] } }
     (s.la.ecc.table.find? fun h => h.weak && decide (h.repair ≠ 0)) = some h ∧ s.la.ecc.field.length < 256 ∧ (s.la.ecc.chooseSpare h).isSome = true) ∧
    (let w : PoisonWord := { bank := 47, row := 4095, slot := 63 }
     let s := withA fun x => { x with ecc := { x.ecc with poison := [w], halted := [7] } }
     (s.la.ecc.poison.any fun w => w.bank == 47 && w.row == 4095 && w.slot == 63) = true ∧ s.la.ecc.halted.contains 7 = true ∧
      s.la.ecc.halted.contains 0 = false) ∧
    (let m : MergeEntry := { row := 4095, slot := 63, strobes := 15 }
     let s := withA fun x => { x with ecc := { x.ecc with banks := [(47, { merge := [m] })] } }
     (s.la.ecc.bank 47).merge = [m] ∧ (s.la.ecc.bank 47).merge[0]? = some m ∧ (s.la.ecc.bank 47).merge[1]? = none ∧
      ((s.la.ecc.bank 47).merge.filter fun q => q.at_ m.row m.slot) = [m] ∧ m.strobes ≠ 255) ∧
    wordOk 47 4095 63 = true ∧ wordOk 47 4096 63 = false ∧ (up.la.ecc.bank 47).merge = [] := by decide +kernel

theorem test_dram_steps :
    (∀ k ∈ [7, 8], ((withA fun x => { x with dramc := { x.dramc with chans := [(7, { postponed := k })] } }).la.dch 7).postponed = k) ∧
    (∀ k ∈ [14, 15], ((withA fun x => { x with dramc := { x.dramc with chans := [(7, { doubled := true, run := k })] } }).la.dch 7).run = k) ∧
    (∀ k ∈ [22, 23], ((withA fun x => { x with dramc := { x.dramc with chans := [(7, { queues := [(15, List.replicate k { bank := 15, write := true })] })] } }).la.dch 7).writes = k) := by decide +kernel

theorem test_scheduler_steps :
    ((up.la.sched.thread 255).state ≠ 1 ∧ (up.la.sched.thread 255).state ≠ 2) ∧
    (let s := withA fun x => { x with sched := { x.sched with
       threads := [(0, { state := 2, prio := 5 }), (1, { state := 1, prio := 5 })], ready := [(5, [1])], cores := [(0, { run := some 0 })] } }
     ((s.la.sched.core 0).run.bind fun k => (s.la.sched.list (s.la.sched.thread k).prio).find? fun u => s.la.sched.mayRun u 0) = some 1) ∧
    ((up.la.sched.core 0).run.bind fun k => (up.la.sched.list (up.la.sched.thread k).prio).find? fun u => up.la.sched.mayRun u 0) = none ∧
    (let s := withA fun x => { x with sched := { x.sched with threads := [(9, { state := 3, queue := 127 })] } }
     (s.la.sched.threads.find? fun p => p.2.state == 3 && p.2.queue == 127) = some (9, { state := 3, queue := 127 })) ∧
    (∀ n ∈ [63, 64], let s := withA fun x => { x with sched := { x.sched with queues := [(127, { entries := List.replicate n 0, refused := 1 })] } }
      (s.la.sched.threads.find? fun p => p.2.state == 3 && p.2.queue == 127) = none ∧ (s.la.sched.que 127).entries.length = n ∧
        (s.la.sched.que 127).refused ≠ 0) := by decide +kernel

theorem test_meridian :
    (up.renders .a = true ∧ up.la.clk.restart = none) ∧ silentA.renders .a = false ∧
    (twinUp.renders .b = true ∧ twinUp.red.mode = 1) ∧
    (let r : Restart := { rate := 4, silent := true }
     (withA fun x => { x with clk := { x.clk with restart := some r } }).la.clk.restart = some r) := by decide +kernel


theorem test_scene_commands_run :
    (meets up specScnConfig (cmd .f0 28 [(0, 2, 64), (4, 2, 16), (8, 4, fOne), (12, 4, fOne), (16, 4, fOne), (20, 4, fOne), (24, 4, fOne)])
      fun g c x => (runScnConfig g c [] x).status == sOk) = true ∧
    (meets up specObjConfigAll (cmd .f0 24 [(0, 2, 511), (12, 2, 16), (16, 2, 100), (18, 2, 10), (20, 2, 5)])
      fun g c x => (runObjConfig g c [] x).status == sOk) = true ∧
    (∀ on ∈ [0, 1], (meets up specObjEnable (cmd .f0 8 [(0, 2, 511), (2, 2, 1), (4, 1, on)])
      fun g c x => (runObjEnable g c [] x).status == sOk) = true) ∧
    (meets up specObjBedAll (cmd .f0 8 [(2, 1, 2)]) fun g c x => (runObjBed g c [] x).status == sOk) = true ∧
    (∀ op ∈ [0, 1], (meets (withScene fun q => { q with objs := { q.objs with maps := if op = 0 then [(0, { count := 4 })] else [] } }) specObjAdmMap
      (cmd .f0 16 (if op = 0 then [] else [(1, 1, 1), (8, 2, 4), (12, 2, 16)])) fun g c x => (runObjAdmMap g c [] x).status == sOk) = true) := by
  decide +kernel

theorem test_output_commands_run :
    (meets up specOutFeedConfig (cmd .f0 40 [(0, 2, 511), (2, 2, 1), (4, 2, 1), (8, 4, 67107840)])
      fun g c x => (runFeedConfig g c [] x).status == sOk) = true ∧
    (∀ m ∈ [0, 1], (meets up specOutSceneDelay (cmd .f0 8 [(0, 4, 1024), (4, 1, m)]) fun g c x => (runSceneDelay g c [] x).status == sOk) = true) ∧
    (meets banked specOutBankSwapAll (cmd .f0 8 [(0, 1, 5), (4, 2, 64)]) fun g c x =>
      (startSwap g { cmd := c, released := true } false x).status == sOk) = true ∧
    (let s := withScene fun q => { q with meas := { q.meas with run := some analysed, track := { q.meas.track with
       set := { q.meas.track.set with mask := [1], count := 1 } } } }
     meets s specTrkBaseline (cmd .f0 8 []) fun g c x => (runTrkBaseline g c [] x).status == sOk) = true ∧
    (∀ op ∈ [0, 1], (meets up specVoxGroup (cmd .f0 16 [(0, 2, 511), (2, 1, op)]) fun g c x => (runVoxGroup g c [] x).status == sOk) = true) := by
  decide +kernel

theorem test_run_starts :
    let s := withA fun x => { x with
      scene := { x.scene with rend := { x.scene.rend with lay := twoSpeakers } }
      mics := { x.mics with clocks := [(0, { on := true, ratio := 64, n := 64, mask := 1 })] } }
    let c := cmd .f0 72 [(2, 1, 1), (6, 2, 1), (8, 4, 4096), (12, 2, 1), (14, 2, 64936), (16, 4, 1024), (24, 2, 10), (26, 2, 1000), (28, 2, 16), (30, 2, 1),
      (32, 1, 1), (52, 2, 64), (64, 2, 20), (68, 2, 64)]
    s.twin = false ∧ s.ownsFeed c.fn 0 = true ∧ span (u16 c.body 4) (u16 c.body 6) = [0] ∧
    (meets s specMeasStart c fun g c x =>
      (runMeasStart false s.variant.hasVoice ((s.takes specMeasStart c).firstLive c.body) g c [] x).status == sOk) = true := by
  decide +kernel

theorem test_stream_commands_run :
    (∀ op ∈ [0, 1], let c := cmd .f0 40 [(1, 1, op), (5, 1, 1), (6, 1, 1), (8, 2, 48), (10, 2, 96), (12, 1, 96), (13, 1, 1)]
      (meets up specNetRxStream c fun g c x => (runRxStream true g c [] x).status == sOk) = true ∧ up.ownsRx .f0 0 = true) ∧
    (∀ op ∈ [0, 1], let c := cmd .f0 40 [(1, 1, op), (4, 1, 1), (7, 1, 1), (8, 2, 48), (12, 1, 96), (13, 1, 1)]
      (meets up specNetTxStream c fun g c x => (runTxStream true g c [] x).status == sOk) = true ∧ up.ownsTx .f0 0 = true) := by
  decide +kernel

/-- The module as `up`, with one report kept on function 0. -/
def reported (r : Rep) (cycles : Nat) : State :=
  { up with
    f0 := { up.f0 with mail := { up.f0.mail with reps := [r] } }
    la := { up.la with clk := { up.la.clk with cycles := cycles } } }

theorem test_reports :
    (∀ n ∈ [0, 3], ∀ at_ ∈ [9, 10], let r : Rep := { code := 1, count := n, every := 10 }
      let s := reported r at_
      s.repDue r = decide (at_ = 10) ∧ s.f0.mail.reps.find? r.same = some r ∧ s.f0.mail.lostDue = false ∧ 8 ≤ s.f0.eqFree ∧
        (s.f0.mail.reps.find? fun q => q.code == 1 && q.subject == 0 && q.key == 0 && s.repDue q) = if at_ = 10 then some r else none) ∧
    (let r : Rep := { code := 1, every := 10 }
     r.sev ≤ 3 ∧ up.f0.mail.reps.find? r.same = none ∧ up.f0.mail.lostDue = false ∧ 8 ≤ up.f0.eqFree) := by decide +kernel

theorem test_commit_follows_commands :
    let s := withMail fun m => { m with posQ := [{ buf := 1 }], queued := [{ cmd := { cmd .f0 4 [] with when_ := 1, op := 0x0202, acc := 1 }, count := 0 }] }
    let u := drainAll .f0 s
    u.f0.mail.queued = [] ∧ u.f0.mail.posQ = [{ buf := 1 }] ∧ u.commitDue .f0 = true ∧ s.server .f0 = some (.a, false) ∧
      u.server .f0 = some (.a, false) := by decide +kernel

theorem test_turns :
    let p : Pend := { cmd := { timed 1 with op := 0x0202, acc := 5 }, count := 1, released := true }
    let s := withMail fun m => { m with queued := [p], dma := [{ cmd := { ask with acc := 4 } }] }
    (p.count ≤ (s.fnDom .f0).nextCount ∧ ¬(p.cmd.when_ = 0 ∧ s.f0.mail.holds p.cmd.acc = true)) ∧
    (let q : Pend := { p with cmd := { p.cmd with when_ := 0 } }
     s.f0.mail.holds q.cmd.acc = true ∧ q.count ≤ (s.fnDom .f0).nextCount) := by decide +kernel

theorem test_run_leader :
    (∀ a ∈ [true, false], let s := { (withRun slotDone) with red := { up.red with mode := 1, active := if a then .a else .b } }
      s.leadsRun .a = a ∧ s.la.scene.activeRun = some slotDone) ∧
    (∀ tie ∈ [true, false], ∀ m ∈ [0, 1],
      let s := { (withA fun x => { x with
        scene := { x.scene with meas := { x.scene.meas with track := { x.scene.meas.track with mode := m, clearing := m == 0 } } }
        clk := { x.clk with dom := { x.clk.dom with sample := 47999 } } }) with red := { up.red with mode := 1, tieUp := tie } }
      let t := s.la.scene.meas.track
      s.la.fs ≠ 0 ∧ s.la.next % (t.set.period * s.la.fs) = 0 ∧ s.la.scene.activeRun = none ∧ s.leadsRun .a = true ∧
        (t.mode ≠ 0 ∨ t.clearing = true) ∧ s.twin = true ∧ s.la.guest = none ∧ s.red.tieUp = tie) := by decide +kernel

theorem test_accepted_samples :
    (let t : TimeBase := { source := 1, portState := 9, hasPath := true, acquiring := false, fresh := false, state := 1 }
     let s := withTb t
     s.la.tb 1 = t ∧ s.twin = false ∧ t.slewing = false ∧ t.rem = 0 ∧ t.rateChange = false ∧ absQ 0 ≤ t.threshold) ∧
    (let p : Pll := { locked := true, gated := false, good := 4 }
     let s := withA fun x => { x with clk := { x.clk with serdes1 := p } }
     s.la.clk.pll 5 = p ∧ p.gated = false) ∧
    (let s := withA fun x => { x with clk := {}, boot := { x.boot with tests := [{ op := 0x0F03 }] } }
     (runs s specClkPll (cmd .f0 8 [(0, 1, 1), (1, 1, 1)]) = true ∧ (s.la.boot.tests.any fun q => q.op == 0x0F03) = true)) ∧
    (∀ at_ ∈ [(none : Option Nat), some 0], let k : MicClock := { on := true, ratio := 64, n := 64, mask := 1, slipAt := at_ }
      let s := withA fun x => { x with mics := { x.mics with clocks := [(0, k)] }, clk := { x.clk with audio := { locked := true, gated := false } } }
      s.la.micMasked 0 = true ∧ (s.la.micClock 0).locked s.la.clk.dom.rate = true ∧ s.la.clk.dom.sample = 0 ∧
        ((s.la.micClock 0).slipAt ≠ some 0 ↔ at_ = none)) := by decide +kernel

theorem test_coping_without_source :
    (∀ lost ∈ [false, true], let s := { (coped fun c => { c with lost := lost, source := none }) with red := { up.red with a := {}, b := {} } }
      s.copSource = none ∧ s.cop.lost = lost ∧ s.cop.clamped = false ∧ s.cop.held = false ∧ s.variant.hasCoping = true) := by decide +kernel

theorem test_pair_meets :
    (runs splitUp specRedMode (cmd .f2 24 []) = true ∧ splitUp.alive splitUp.leaveLeaf = true ∧ (splitUp.leaf splitUp.leaveLeaf).fs ≠ 0) ∧
    (let s := { splitUp with la := { upLeaf with clk := {} }, lb := { upLeaf with clk := {} } }
     runs s specRedMode (cmd .f2 24 []) = true ∧ ¬(s.alive s.leaveLeaf = true ∧ (s.leaf s.leaveLeaf).fs ≠ 0)) ∧
    (let g : Grant := { claim := 12, cause := 7 }
     let s := { twinUp with red := { twinUp.red with a := {}, b := { claim := 8, grant := some g }, takeover := some { lost := .a } } }
     s.red.b.grant = some g ∧ g.claim ≠ s.red.a.claim ∧ s.red.mode = 1) ∧
    (let g : Grant := { claim := 12, cause := 7 }
     let s := { twinUp with red := { twinUp.red with b := { claim := 8, grant := some g } } }
     (s.red.of s.red.active.other).grant.map Grant.cause = some 7 ∧ s.red.tieUp = true) ∧
    (let s := { up with red := { up.red with b := { claim := 8, transit := some (({} : Scene), none) } } }
     s.red.b.transit ≠ none ∧ s.red.tieUp = true ∧ s.red.entry = none ∧ s.red.split = none) := by decide +kernel

theorem test_queue_steps :
    let r : DramReq := { bank := 3, write := true, col := 9 }
    let q : DramReq := { bank := 3, col := 9 }
    let d : DramCh := { queues := [(3, [r]), (5, [{ bank := 5 }])] }
    let s := withA fun x => { x with dramc := { x.dramc with chans := [(7, d)] } }
    s.la.dch 7 = d ∧ d.held = [] ∧ (d.queues.map Prod.fst).Pairwise (· < ·) ∧ (∀ k ∈ d.queues, k.1 < 16) ∧ d.writes < 23 ∧
      sameBurst r q = true ∧ readWaits (d.queue 3 ++ [q]) 1 = true ∧ wanted (d.queue 3 ++ [q]) 0 = true ∧
      (let full : DramCh := { queues := [(3, List.replicate 8 q)] }
       8 ≤ (full.queue 3).length ∧ full.held = [] ∧ full.writes < 23) := by decide +kernel

theorem test_guest_steps :
    let s := withA fun x => { x with guest := some {} }
    s.la.guest ≠ none ∧ up.la.guest = none ∧ s.twin = false := by decide +kernel
/-! Ill-formed commands. -/

/-- A slot that a host cannot hold, for each of its fields in turn. -/
def illCmds : List Cmd :=
  [{ ask with slot := 32 }, { ask with slot := 0, op := 65536 }, { ask with slot := 0, tag := 4294967296 }, { ask with slot := 0, flags := 65536 },
   { ask with slot := 0, bodyLen := 65536 }, { ask with slot := 0, hdrVer := 256 }, { ask with slot := 0, target := 256 },
   { ask with slot := 0, rsv12 := 4294967296 }, { ask with slot := 0, when_ := 18446744073709551616 },
   { ask with slot := 0, rsv24 := 18446744073709551616 }, { ask with slot := 0, body := zeros 481 }]

theorem test_ill_formed_slots : (illCmds.all fun c => !c.wf && !(Instr.objQuery c).wf && !(Instr.redMode c).wf) = true ∧
    ({ ask with slot := 31, body := zeros 480 }.wf) = true := by decide +kernel

/-- Commands with an index or an offset just beyond its range. -/
def illRest : List Instr :=
  [.registerWrite .f0 false 2 (zeros 4), .registerWrite .f0 false 0 (zeros 3), .dmaHalt .f0 2, .objXfadeEnd .a 512, .bedRemoveEnd .a 512,
   .admFrame .a 16 {}, .swapFadeEnd .a 64, .delayFadeEnd .a 1024, .feedSlewUpdate .a 1024 0, .selectionFadeEnd .a 5 0,
   .bridgeRatioWindow .a 256 0 0, .clipLoopEnd .a 256, .clipEndPassed .a 256, .clipFadeEnd .a 256, .voiceEnd .a 1024, .stealMigrate .a 64,
   .ucFadeEnd .a 16, .ucPassAbandon .a 16 0 0, .ucPassAbandon .a 0 8 0, .netRxFrame .a 2 [] true false 0, .hostRingPoll .a 32 [],
   .netTxFrame .a 32 [], .netRingPending .a 32, .netLinkChange .a 2 true, .sfpLos .a 2, .sfpModabs .a 2 [], .sfpModabsHigh .a 2,
   .netFecFallback .a 2, .netLegLost .a 64 0, .netLegLost .a 0 2, .arpResolved .a 64 0 0, .arpResolved .a 0 2 0, .mediaTxDiscard .a 2,
   .pauseQuantaExpire .a 2, .egressPacketComplete .a 64, .servoSample .a 4 0, .ptpAnnounceTimeout .a 4, .ptpSyncTimeout .a 4,
   .ptpAnnounceRx .a 4 {}, .ptpDelayRespRx .a 4 0, .ptpMessageInterval .a 4, .clkDiscontinuityDecision .a 4, .wclkSample .a 4 0, .wclkStop .a 4,
   .wclkReturn .a 4, .wclkRateWindow .a 4 0, .vcxoUpdate .a 2 0, .pllLockWindow .a 6 0 true, .pllGateEnd .a 6, .micFrameEnd .a 128 []]

/-- As `illRest`, of the coping, the memories and the scheduler. -/
def illMemory : List Instr :=
  [.copSlewUpdate 32, .copSpanFadeEnd 32, .copMonitorWindow 36 0 0 0 false, .copMonitorWindow 0 0 0 4294967296 false, .leafRailFault .a 3,
   .eccCorrection .a 57 0 0 0, .eccCorrection .a 0 4096 0 0, .eccCorrection .a 0 0 64 0, .eccUncorrectable .a 6 0 0 0 0 [] false,
   .eccUncorrectable .a 0 8 0 0 0 [] false, .eccUncorrectable .a 0 0 48 0 0 [] false, .eccUncorrectable .a 0 0 0 4096 0 [] false,
   .eccUncorrectable .a 0 0 0 0 64 [] false, .courseRestart .a 8, .repeatEntryExpire .a 16, .bankHandover .a 48 0, .bankHandover .a 0 3,
   .aliasWrite .a 48 0 0 true 0 0 false, .aliasWrite .a 0 4096 0 true 0 0 false, .aliasWrite .a 0 0 64 true 0 0 false,
   .mergeEntryFlush .a 48 0 [] false, .mergeEntryFlush .a 0 4 [] false, .eccOperandRewrite .a 48 0 0 false,
   .eccOperandRewrite .a 0 4096 0 false, .eccOperandRewrite .a 0 0 64 false, .dramRefresh .a 8 false, .dramTempPoll .a 8 0 true false,
   .dramWriteDrain .a 8 [] (some 0), .dramThrottle .a 8 0 0 0 0, .dramThrottle .a 0 16 0 0 0, .dramActivateWindowEnd .a 8, .dramEcc .a 0 0 8 0 [],
   .threadReady .a 256 0 none false [], .threadReady .a 0 32 none false [], .timesliceExpire .a 8, .eventPost .a 128 0 false [], .schedQueueFull .a 128]

theorem test_ill_formed_steps : ((illRest ++ illMemory).all fun i => !i.wf) = true := by decide

/-! What single commands do, with the numbers of the manual. -/

/-- The next state of a command; the state itself where the command stops. -/
def next (i : Instr) (s : State) : State :=
  match exec i s with
  | .next t => t
  | _ => s

/-- The record that a command leaves first in the completion ring of function 0. -/
def record (i : Instr) (s : State) : Option Completion := tfind (next i s).f0.mail.cq 0

/-- A BAR0 access off a word boundary changes nothing (R40). -/
theorem test_misaligned_register : exec (.registerWrite .f0 false 0x102 (zeros 4)) up = .next up := rfl

/-- A consumer index more than 64 behind is discarded with DB_ERR.BAD_VALUE (R43). -/
theorem test_cq_cons_bad : (next (.cqCons .f0 65471) up).f0.dbErr = 8 ∧ (next (.cqCons .f0 65471) up).f0.cqCons = 0 ∧
    (next (.cqCons .f0 65472) up).f0.cqCons = 65472 := by decide +kernel

/-- A doorbell of a busy slot sets SLOT_BUSY and names the slot (R42). -/
theorem test_doorbell_busy : (next (.doorbell .f0 4) (withF0 fun x => { x with busy := 16 })).f0.dbErr = 1 ∧
    (next (.doorbell .f0 4) (withF0 fun x => { x with busy := 16 })).f0.lastSlot = 4 := by decide +kernel

/-- Object 512 does not exist at 48 kHz: BAD_FIELD at slot offset 32 (R52, R144). -/
theorem test_object_range : (record (.objQuery { ask with body := fill 4 [(0, 2, 512)] }) up).map (fun r => (r.status, r.detail)) = some (258, 32) ∧
    (record (.objQuery { ask with body := fill 4 [(0, 2, 511)] }) up).map (fun r => (r.status, r.respLen)) = some (0, 32) := by decide +kernel

/-- `OBJ_ENABLE` enables its objects and no other (R144). -/
theorem test_enable : ((next (.objEnable (cmd .f0 8 [(0, 2, 5), (2, 2, 2), (4, 1, 1)])) up).la.scene.objs.objs.filter fun p => p.2.enabled).map Prod.fst = [5, 6] := by
  decide +kernel

/-- The manual's example of a scheduled swap at 48 kHz (R55), and the meridian of the twelfth sample (R362). -/
theorem test_counts : countOf 48000 1712000000000250000 = 82176000000012 ∧ countOf 48000 1712000000000249999 = 82176000000011 ∧
    countTns 48000 12 = 250000 := by decide

/-- The manual's example of a swap under a reserve (R183, R197): E is 2 050 samples; bank 5's image. -/
theorem test_equal_total : equalTotal [2047 * 1024 + 512, 20 * 1024] 0 = 2050 ∧ imageSize 48 48 2048 = 408672 := by decide +kernel

/-- The manual's example of an array channel (R379): 31 + (157.5 + 5)/64 samples, 34 settling frames, at R = 64 and N = 64. -/
theorem test_group_delay : groupDelay 64 5 = 31 + 325 / 128 ∧ settleFrames 64 5 = 34 ∧ ({ ratio := 64, n := 64 } : MicClock).locked 2 = true := by
  decide +kernel

/-- The manual's example of a stuck bit (R446): a hit, a scrub, the second hit. -/
theorem test_ecc_hits :
    let s := next (.eccCorrection .a 17 2000 9 13) (next (.eccScrub .a) (next (.eccCorrection .a 17 2000 9 13) up))
    s.la.ecc.table.map EccHit.hits = [2] ∧ s.la.ecc.corrAshlar = 2 := by decide +kernel

/-- The manual's example of a doubled refresh rate (R462): the six postponed refreshes are issued. -/
theorem test_mr4 : let s := withA fun x => { x with dramc := { x.dramc with chans := [(3, { postponed := 6 })] } }
    ((next (.dramTempPoll .a 3 5 true false) s).la.dch 3).issued = 6 ∧ ((next (.dramTempPoll .a 3 5 true false) s).la.dch 3).doubled = true := by
  decide +kernel

/-- binary32 numbers (R47): 0.5, -2, and a NaN that is none. -/
theorem test_f32 : f32Val 0x3F000000 = some (1 / 2) ∧ f32Val 0xC0000000 = some (-2) ∧ f32Val 0x7FC00000 = none := by
  decide +kernel

/-- Writes that wait in the queues of channel 0 of leaf A. -/
def writesQueued (n : Nat) : State := withA fun x => { x with dramc := { x.dramc with
  chans := [(0, { queues := [(0, List.replicate 8 { write := true }), (1, List.replicate 8 { bank := 1, write := true }),
    (2, List.replicate n { bank := 2, write := true })] })] } }

/-- The ninth postponed refresh is issued (R461); the twenty-fourth waiting write drains (R459). -/
theorem test_dram : ((next (.dramRefresh .a 0 true) (withA fun x => { x with dramc := { x.dramc with chans := [(0, { postponed := 8 })] } })).la.dch 0).issued = 1 ∧
    ((next (.dramWriteDrain .a 0 [{ bank := 3, write := true }] (some 0)) (writesQueued 6)).la.dch 0).writes = 23 ∧
    ((next (.dramWriteDrain .a 0 [{ bank := 3, write := true }] (some 0)) (writesQueued 7)).la.dch 0).writes = 0 := by
  decide +kernel

/-- A read of a burst that a queued write holds promotes the write to the head, and it is issued first (R460). -/
theorem test_read_waits :
    let s := next (.dramWriteDrain .a 0 [{ row := 1 }, { row := 2, col := 3, write := true }, { row := 2, col := 3, qos := 15 }] (some 0)) up
    (s.la.dch 0).queue 0 = [{ row := 2, col := 3, write := true }, { row := 1 }, { row := 2, col := 3, qos := 15 }] ∧
    ((next (.dramWriteDrain .a 0 [] (some 1)) s).la.dch 0).queue 0 = [{ row := 1 }, { row := 2, col := 3, qos := 15 }] := by
  decide +kernel

/-- A queue of 64 entries refuses the software's post (R477). -/
theorem test_queue_full :
    let s := withA fun x => { x with sched := { x.sched with queues := [(0, { entries := List.replicate 64 0 })] } }
    ((next (.eventPost .a 0 9 false []) s).la.sched.que 0).refused = 1 ∧ ((next (.eventPost .a 0 9 true []) s).la.sched.que 0).held = [9] := by
  decide +kernel

/-- Alias SET and CLEAR writes change only the strobed bytes (R438). -/
theorem test_alias : (next (.aliasWrite .a 0 1 2 true 1 0xFFFF false) up).la.ecc.word 0 1 2 = 0xFF ∧
    (next (.aliasWrite .a 0 1 2 false 2 0xFFFF false) up).la.ecc.word 0 1 2 = 0 := by decide +kernel

/-- Power: the supply, the release of a leaf, its boot, and the first `SYS_CAPS` (R482 to R485). -/
theorem test_power_up :
    let s := next (.bootReady .a 60 []) (next (.leafResetRelease .a) (next .supplyGood State.reset))
    s.la.run = 2 ∧ s.la.boot.slot = 0 ∧ s.lb.run = 0 ∧ s.lb.pwr = 2 := by decide +kernel

/-- The supply fails: every leaf is off (R482). -/
theorem test_supply_fail : (next .supplyFail up).la.pwr = 0 ∧ (next .supplyFail up).f0.capsDone = false := by decide +kernel

/-- The key of a module reset (R44). -/
theorem test_mod_reset : (next (.modResetModule 0xA5C30001) up).la.run = 0 ∧ (next (.modResetModule 0xA5C20001) up).la.run = 2 ∧
    (next (.modResetModule 0xA5C20001) up).f2.dbErr = 8 := by decide +kernel

/-- A claim that the other leaf still holds waits; a withdrawal does not (R20). -/
theorem test_claims :
    let g : Nat → State := fun k => { up with red := { up.red with a := { claim := 12, grant := some { claim := k } } } }
    (next (.claimGrant .a) (g 8)).red.a.claim = 12 ∧ (next (.claimGrant .a) (g 0)).red.a.claim = 0 := by decide +kernel

/-- The active leaf of a twin fails: the standby is granted the active claim (R418). -/
theorem test_liveness : (next (.livenessMissing .a) twinUp).red.b.grant = some { claim := 12, cause := 7 } ∧
    (next (.livenessMissing .a) twinUp).red.a.claim = 0 := by decide +kernel

/-- `COP_MUTE` waits for the next load strobe (R402). -/
theorem test_cop_mute : (next (.copMute (cmd .f2 8 [(0, 4, 1), (4, 1, 1), (6, 2, 1)])) up).cop.staged.length = 1 := by decide +kernel

/-- A module without coping outputs does not know the coping commands (R52). -/
theorem test_cop_absent :
    (tfind (next (.copQuery (cmd .f2 4 [])) { up with variant := .zl4824tn }).f2.mail.cq 0).map Completion.status = some sNotPresent := by decide +kernel

/-- The eighth refused sample makes a discontinuity (R351). -/
theorem test_discontinuity :
    let t : TimeBase := { source := 2, acquiring := false, state := 0, run := 7 }
    (((next (.wclkSample .a 1 10001) (withTb t)).la.tb 1).pending, ((next (.wclkSample .a 1 10001) (withTb { t with run := 6 })).la.tb 1).pending) = (true, false) := by
  decide +kernel

/-- PLL: the fourth good window locks (R368). -/
theorem test_pll_lock : ((next (.pllLockWindow .a 2 2 true) (withA fun x => { x with clk := { x.clk with audio := { good := 3 } } })).la.clk.pll 2).locked = true ∧
    ((next (.pllLockWindow .a 2 3 true) (withA fun x => { x with clk := { x.clk with audio := { good := 3 } } })).la.clk.pll 2).locked = false := by
  decide +kernel

/-- A clip that plays is paused where it is, and cannot be paused again while it fades (R285). -/
theorem test_pause : ((next (.clipPause (cmd .f0 8 [])) (playing 2)).la.scene.player 0).state = 3 ∧
    (record (.clipPause (cmd .f0 8 [])) (playing 3)).map Completion.status = some sBadState := by decide +kernel

/-- Ports: a lost signal takes the link down (R318). -/
theorem test_los : ((next (.sfpLos .a 0) (withPort { link := true, mode := 1 })).la.port 0).link = false := by decide +kernel

/-- The first 16-bit lane of a PAUSE frame stops every priority (R320). -/
theorem test_pause_frame :
    ((next (.netRxFrame .a 0 (frame 60 0x0180C2000001 0x8808 [0, 1, 0, 255] ++ zeros 4) true false 0) linked).la.port 0).stopped = 255 := by decide +kernel

/-- A host frame takes the descriptors it needs (R323). -/
theorem test_host_frame :
    ((next (.netRxFrame .a 0 (frame 60 0xFFFFFFFFFFFF 0x88B5 [] ++ zeros 4) true false 0) linked).la.scene.ring 4).frames = 1 := by decide +kernel

/-- The render tick of an empty scene takes the next sample (R89). -/
theorem test_meridian_counts : (next (.meridian .a [] []) up).la.clk.dom.sample = 1 ∧ (next (.meridian .a [] []) silentA).la.clk.dom.sample = 0 := by
  decide +kernel

/-- A side domain ticks on through the silent interval of a restart (R272): 0.5 ms are 24 samples at
48 kHz. -/
theorem test_restart_side :
    let r : Restart := { first := 1, rate := 4, tb := 0, silent := true }
    let x := (next (.renderRestart .a 800000) (withA fun x => { x with clk := { x.clk with restart := some r, side1 := { rate := 2 } } })).la
    x.clk.side1.sample = 24 ∧ x.clk.dom.rate = 4 ∧ x.clk.cycles = 800000 ∧ x.clk.restart = none := by
  decide +kernel

/-- A step takes the front command; an empty queue idles. -/
theorem test_step (c : Instr) (rest : List Instr) : step { up with pending := c :: rest } = exec c { up with pending := rest } ∧
    step up = .next up := ⟨rfl, by simp only [step, up]; rfl⟩

end Sys2Proof.Tests
end

section
/-! SUPPORT. What no command disturbs (`State.Kept`): every command of the table answers a next state, and that
state is kept. -/

namespace Sys2Proof.Machine

/-- Function-level resets of all three functions keep the state. -/
theorem flrAll_kept {z s : State} (h : State.Kept z s) : State.Kept z (((s.flrFn .f0).flrFn .f1).flrFn .f2) :=
  State.flrFn_kept .f2 (State.flrFn_kept .f1 (State.flrFn_kept .f0 h))


theorem reset_windowsOk : State.reset.windowsOk = true := by decide

theorem reset_ringsOk : State.reset.ringsOk = true := by decide

/-- A branch between two answers answers a next state where both sides do. -/
theorem next_ite {p : Prop} [Decidable p] {a b : Res} {P : State → Prop} (ha : ∃ t, a = .next t ∧ P t)
    (hb : ∃ t, b = .next t ∧ P t) : ∃ t, (if p then a else b) = .next t ∧ P t := by
  split <;> assumption

theorem State.Kept.copPlinth {s0 s : State} (h : State.Kept s0 s) (x : Coping) (y : Plinth) :
    State.Kept s0 { s with cop := x, plinth := y } := ⟨h.1, h.2, h.3, h.4, h.5, h.6⟩

theorem State.Kept.signalIf {z s : State} (p : Prop) [Decidable p] (f : FnId) (v : Nat) (h : State.Kept z s) :
    State.Kept z (if p then s.signal f v else s) := .ite p (State.signal_kept f v h) h

theorem doorbell_kept (f : FnId) (v : BitVec 32) (s : State) :
    Goes (.doorbell f v) s (State.Kept s) :=
  ⟨_, rfl, ringDoorbell_kept f v (.refl s)⟩

theorem tbSnapLo_kept (f : FnId) (cycles : Nat) (s : State) :
    Goes (.tbSnapLo f cycles) s (State.Kept s) := by
  have hs : ∀ lo hi tk, State.Kept s (s.modFn f fun x => { x with tbLo := lo, tbHi := hi, tick := tk }) :=
    fun _ _ _ => State.Kept.modFn (.refl s) f _ fun _ => rfl
  refine ⟨_, rfl, .ite _ (.refl s) ?_⟩
  split
  · exact hs _ _ _
  · exact .ite _ (hs _ _ _) (hs _ _ _)

theorem cqCons_kept (f : FnId) (v : BitVec 32) (s : State) :
    Goes (.cqCons f v) s (State.Kept s) :=
  ⟨_, rfl, writeCqCons_kept f v (.refl s)⟩

theorem eqCons_kept (f : FnId) (v : BitVec 32) (s : State) :
    Goes (.eqCons f v) s (State.Kept s) :=
  ⟨_, rfl, writeEqCons_kept f v (.refl s)⟩

theorem posCommit_kept (f : FnId) (v : BitVec 32) (s : State) :
    Goes (.posCommit f v) s (State.Kept s) :=
  ⟨_, rfl, writePosCommit_kept f v (.refl s)⟩

theorem clearHalt_kept (f : FnId) (v : BitVec 32) (s : State) :
    Goes (.clearHalt f v) s (State.Kept s) :=
  ⟨_, rfl, writeDmaCtrl_kept f v (.refl s)⟩

theorem modResetModule_kept (v : BitVec 32) (s : State) :
    Goes (.modResetModule v) s (State.Kept s) :=
  ⟨_, rfl, writeModReset_kept _ (.refl s)⟩

theorem modResetLeaf_kept (v : BitVec 32) (s : State) :
    Goes (.modResetLeaf v) s (State.Kept s) :=
  ⟨_, rfl, writeModReset_kept _ (.refl s)⟩

theorem modResetCoping_kept (v : BitVec 32) (s : State) :
    Goes (.modResetCoping v) s (State.Kept s) :=
  ⟨_, rfl, writeModReset_kept _ (.refl s)⟩

theorem registerWrite_kept (f : FnId) (bar2 : Bool) (off : Nat) (bytes : List Byte) (s : State) :
    Goes (.registerWrite f bar2 off bytes) s (State.Kept s) :=
  ⟨_, rfl, .ite _ (.refl s) (.ite _ (writeBar2_kept f off bytes (.refl s))
    (.ite _ (State.Kept.foldl (.refl s) _ _ fun _ _ h => writeBar0_kept f _ _ h) (.refl s)))⟩

theorem commandValidated_kept (f : FnId) (s : State) :
    Goes (.commandValidated f) s (State.Kept s) :=
  ⟨_, rfl, validateNext_kept f (.refl s)⟩

theorem timedCommandApply_kept (f : FnId) (s : State) :
    Goes (.timedCommandApply f) s (State.Kept s) :=
  ⟨_, rfl, applyFirst_kept none f (.refl s)⟩

theorem noteEventApply_kept (l : LeafId) (s : State) :
    Goes (.noteEventApply l) s (State.Kept s) :=
  ⟨_, rfl, State.eachScene_kept l _ (fun _ _ h => State.noteStep_kept l h) (.refl s)⟩

theorem completionPost_kept (f : FnId) (s : State) :
    Goes (.completionPost f) s (State.Kept s) := by
  refine ⟨_, rfl, ?_⟩
  split
  · exact .refl s
  · split
    · next hfree =>
      refine State.putCompletion_kept f _ ?_ (State.Kept.modMail (.refl s) f _ fun _ => rfl)
      simpa [Fn.cqFree] using hfree
    · exact .refl s

theorem eventsLost_kept (f : FnId) (s : State) :
    Goes (.eventsLost f) s (State.Kept s) :=
  ⟨_, rfl, State.reportLost_kept f (.refl s)⟩

theorem intModerationTimer_kept (f : FnId) (s : State) :
    Goes (.intModerationTimer f) s (State.Kept s) :=
  ⟨_, rfl, .ite _ (.refl s)
    (State.Kept.signalIf _ f _ (State.Kept.signalIf _ f _ (State.Kept.modMail (.refl s) f _ fun _ => rfl)))⟩

theorem rateLimitedReport_kept (f : FnId) (code subject key : Nat) (s : State) :
    Goes (.rateLimitedReport f code subject key) s (State.Kept s) := by
  refine ⟨_, rfl, ?_⟩
  split
  · exact .refl s
  · exact .ite _ (State.Kept.modMail (.refl s) f _ fun _ => rfl)
      (State.Kept.modMail (State.postRep_kept f _ (.refl s)) f _ fun _ => rfl)

theorem functionLevelReset_kept (f : FnId) (s : State) :
    Goes (.functionLevelReset f) s (State.Kept s) :=
  ⟨_, rfl, State.flrFn_kept f (.refl s)⟩

theorem linkHotReset_kept (s : State) :
    Goes (.linkHotReset) s (State.Kept s) :=
  ⟨_, rfl, .ite _ (State.train_kept (flrAll_kept (.refl s))) (flrAll_kept (.refl s))⟩

theorem busMasterDisable_kept (f : FnId) (s : State) :
    Goes (.busMasterDisable f) s (State.Kept s) :=
  ⟨_, rfl, State.haltDma_kept f 2 (State.Kept.modMail (.refl s) f _ fun _ => rfl)⟩

theorem powerStateChange_kept (f : FnId) (d3 : Bool) (s : State) :
    Goes (.powerStateChange f d3) s (State.Kept s) :=
  ⟨_, rfl, .ite _ (State.Kept.modMail (.refl s) f _ fun _ => rfl)
    (State.flushPba_kept f (State.Kept.modMail (.refl s) f _ fun _ => rfl))⟩

theorem dmaTransferDone_kept (f : FnId) (data : List Byte) (s : State) :
    Goes (.dmaTransferDone f data) s (State.Kept s) :=
  ⟨_, rfl, transferDone_kept f data (.refl s)⟩

theorem dmaHalt_kept (f : FnId) (cause : Nat) (s : State) :
    Goes (.dmaHalt f cause) s (State.Kept s) :=
  ⟨_, rfl, State.haltDma_kept f _ (.refl s)⟩

theorem meridian_kept (l : LeafId) (overruns : List (Nat × Nat)) (residues : List (Nat × Nat × Nat)) (s : State) :
    Goes (.meridian l overruns residues) s (State.Kept s) :=
  ⟨_, rfl, State.meridian_kept l overruns residues (.refl s)⟩

theorem posCommitApply_kept (f : FnId) (s : State) :
    Goes (.posCommitApply f) s (State.Kept s) :=
  ⟨_, rfl, .ite _ (applyCommit_kept f (drainAll_kept f (.refl s))) (.refl s)⟩

theorem gainSolverBlock_kept (l : LeafId) (s : State) :
    Goes (.gainSolverBlock l) s (State.Kept s) :=
  ⟨_, rfl, State.eachScene_kept l _ (fun _ _ h => .ite _ h (State.solverReports_kept l _ (h.setLeaf l _))) (.refl s)⟩

theorem objXfadeEnd_kept (l : LeafId) (i : Nat) (s : State) :
    Goes (.objXfadeEnd l i) s (State.Kept s) :=
  ⟨_, rfl, State.eachScene_kept l _ (fun _ _ h => h.modLeaf l _) (.refl s)⟩

theorem scnClearReturn_kept (l : LeafId) (s : State) :
    Goes (.scnClearReturn l) s (State.Kept s) :=
  ⟨_, rfl, State.eachScene_kept l _ (fun _ _ h => h.modLeaf l _) (.refl s)⟩

theorem bedRemoveEnd_kept (l : LeafId) (base : Nat) (s : State) :
    Goes (.bedRemoveEnd l base) s (State.Kept s) :=
  ⟨_, rfl, State.eachScene_kept l _ (fun _ _ h => h.modLeaf l _) (.refl s)⟩

theorem admFrame_kept (l : LeafId) (id : Nat) (fr : AdmFrame) (s : State) :
    Goes (.admFrame l id fr) s (State.Kept s) :=
  ⟨_, rfl, .ite _ (State.asGuest_kept l _ (fun _ _ h => State.onLeaf_kept l _ h) (.refl s)) (State.onLeaf_kept l _ (.refl s))⟩

theorem swapFadeEnd_kept (l : LeafId) (bank : Nat) (s : State) :
    Goes (.swapFadeEnd l bank) s (State.Kept s) :=
  ⟨_, rfl, State.eachScene_kept l _ (fun _ _ h => State.leafStep_kept l _ h) (.refl s)⟩

theorem delayFadeEnd_kept (l : LeafId) (feed : Nat) (s : State) :
    Goes (.delayFadeEnd l feed) s (State.Kept s) :=
  ⟨_, rfl, State.eachScene_kept l _ (fun _ _ h => h.modLeaf l _) (.refl s)⟩

theorem feedSlewUpdate_kept (l : LeafId) (feed : Nat) (w : Int) (s : State) :
    Goes (.feedSlewUpdate l feed w) s (State.Kept s) :=
  ⟨_, rfl, State.eachScene_kept l _ (fun _ _ h => h.modLeaf l _) (.refl s)⟩

theorem selectionFadeEnd_kept (l : LeafId) (kind point : Nat) (s : State) :
    Goes (.selectionFadeEnd l kind point) s (State.Kept s) :=
  ⟨_, rfl, State.eachScene_kept l _ (fun _ _ h => State.leafStep_kept l _ h) (.refl s)⟩

theorem meterFrameEnd_kept (l : LeafId) (s : State) :
    Goes (.meterFrameEnd l) s (State.Kept s) :=
  ⟨_, rfl, State.eachScene_kept l _ (fun _ _ h => h.modLeaf l _) (.refl s)⟩

theorem renderSilenceStart_kept (l : LeafId) (s : State) :
    Goes (.renderSilenceStart l) s (State.Kept s) :=
  ⟨_, rfl, State.Kept.modLeaf (.refl s) l _⟩

theorem renderRestart_kept (l : LeafId) (cycles : Nat) (s : State) :
    Goes (.renderRestart l cycles) s (State.Kept s) := by
  refine ⟨_, rfl, ?_⟩
  dsimp only
  split
  · exact .refl s
  · refine .ite _ (.refl s) (State.Kept.foldl ?_ _ _ fun _ f h => .ite _ (State.recount_kept f h) h)
    exact State.asGuest_kept l _ (fun _ _ h => State.leafStep_kept l _ h)
      (State.leafStep_kept l _ (State.passTime_kept l cycles (.refl s)))

theorem bridgeRatioWindow_kept (l : LeafId) (ch : Nat) (ratio : Rat) (fill : Int) (s : State) :
    Goes (.bridgeRatioWindow l ch ratio fill) s (State.Kept s) :=
  ⟨_, rfl, State.eachScene_kept l _ (fun _ _ h => .ite _ h
    (.ite _ (State.reportOn_kept _ l _ (h.modLeaf l _)) (h.modLeaf l _))) (.refl s)⟩

theorem clipLoopEnd_kept (l : LeafId) (player : Nat) (s : State) :
    Goes (.clipLoopEnd l player) s (State.Kept s) :=
  ⟨_, rfl, State.eachScene_kept l _ (fun _ _ h => h.modLeaf l _) (.refl s)⟩

theorem clipEndPassed_kept (l : LeafId) (player : Nat) (s : State) :
    Goes (.clipEndPassed l player) s (State.Kept s) :=
  ⟨_, rfl, State.eachScene_kept l _ (fun _ _ h => State.leafStep_kept l _ h) (.refl s)⟩

theorem clipFadeEnd_kept (l : LeafId) (player : Nat) (s : State) :
    Goes (.clipFadeEnd l player) s (State.Kept s) :=
  ⟨_, rfl, State.eachScene_kept l _ (fun _ _ h => h.modLeaf l _) (.refl s)⟩

theorem voiceMatrixEval_kept (l : LeafId) (s : State) :
    Goes (.voiceMatrixEval l) s (State.Kept s) :=
  ⟨_, rfl, State.eachScene_kept l _ (fun _ _ h => h.modLeaf l _) (.refl s)⟩

theorem voiceEnd_kept (l : LeafId) (voice : Nat) (s : State) :
    Goes (.voiceEnd l voice) s (State.Kept s) :=
  ⟨_, rfl, State.eachScene_kept l _ (fun _ _ h => h.modLeaf l _) (.refl s)⟩

theorem stealMigrate_kept (l : LeafId) (shadow : Nat) (s : State) :
    Goes (.stealMigrate l shadow) s (State.Kept s) :=
  ⟨_, rfl, State.eachScene_kept l _ (fun _ _ h => h.modLeaf l _) (.refl s)⟩

theorem ucFadeEnd_kept (l : LeafId) (att : Nat) (s : State) :
    Goes (.ucFadeEnd l att) s (State.Kept s) :=
  ⟨_, rfl, State.eachScene_kept l _ (fun _ _ h => h.modLeaf l _) (.refl s)⟩

theorem ucPassAbandon_kept (l : LeafId) (att course pass : Nat) (s : State) :
    Goes (.ucPassAbandon l att course pass) s (State.Kept s) :=
  ⟨_, rfl, State.eachScene_kept l _ (fun _ _ h => .ite _ h
    (State.reportOn_kept _ l _ ((h.modLeaf l _).modLeaf l _))) (.refl s)⟩

theorem measSlotEnd_kept (l : LeafId) (s : State) :
    Goes (.measSlotEnd l) s (State.Kept s) :=
  ⟨_, rfl, State.eachScene_kept l _ (fun _ _ h => h.modLeaf l _) (.refl s)⟩

theorem measAnalysisDone_kept (l : LeafId) (s : State) :
    Goes (.measAnalysisDone l) s (State.Kept s) :=
  ⟨_, rfl, State.runStep_kept l _ (fun _ _ h => State.leafStep_kept l _ h) (.refl s)⟩

theorem measReturnEnd_kept (l : LeafId) (s : State) :
    Goes (.measReturnEnd l) s (State.Kept s) :=
  ⟨_, rfl, State.runStep_kept l _ (fun _ _ h => h.modLeaf l _) (.refl s)⟩

theorem measDesignDone_kept (l : LeafId) (s : State) :
    Goes (.measDesignDone l) s (State.Kept s) :=
  ⟨_, rfl, State.runStep_kept l _ (fun _ _ h => State.leafStep_kept l _ h) (.refl s)⟩

theorem measInstallSwap_kept (l : LeafId) (s : State) :
    Goes (.measInstallSwap l) s (State.Kept s) :=
  ⟨_, rfl, State.runStep_kept l _ (fun _ _ h => State.leafStep_kept l _ h) (.refl s)⟩

theorem trackingUpdate_kept (l : LeafId) (errs : List Rat) (s : State) :
    Goes (.trackingUpdate l errs) s (State.Kept s) :=
  ⟨_, rfl, State.eachScene_kept l _ (fun _ _ h => State.trackStep_kept l errs h) (.refl s)⟩

theorem trkStarved_kept (l : LeafId) (s : State) :
    Goes (.trkStarved l) s (State.Kept s) :=
  ⟨_, rfl, State.eachScene_kept l _ (fun _ _ h => State.leafStep_kept l _ h) (.refl s)⟩

theorem netRxFrame_kept (l : LeafId) (port : Nat) (frame : List Byte) (fcsOk coded : Bool) (stamp : Nat) (s : State) :
    Goes (.netRxFrame l port frame fcsOk coded stamp) s (State.Kept s) := by
  refine next_ite ⟨_, rfl, .refl s⟩ ?_
  have h1 := fun g => State.modPort_kept l port g (.refl s)
  refine next_ite ⟨_, rfl, State.modPort_kept l port _ (h1 _)⟩ ⟨_, rfl, ?_⟩
  split
  · exact State.pauseFrame_kept l port _ (h1 _)
  · exact State.modPort_kept l port _ (h1 _)
  · exact h1 _
  · exact h1 _
  · exact State.control_kept l port _ (h1 _)
  · have media : ∀ s0 t x i, State.Kept s0 t → State.Kept s0
        (if (x : Leaf × Bool).2 = true then (t.setLeaf l x.1).leafEvent l 0x0AF2 2 i (le8 port) 255 2 else t.setLeaf l x.1) :=
      fun _ _ _ i h => .ite _ (State.leafEvent_kept l _ _ i _ _ _ _ (h.setLeaf l _)) (h.setLeaf l _)
    exact .ite _ (State.asGuest_kept l _ (fun _ _ h => media _ _ _ _ h) (h1 _)) (media _ _ _ _ (h1 _))
  · exact .ite _ (State.deliver_kept l port _ _ _ _ _ (h1 _)) (State.modPort_kept l port _ (h1 _))

theorem hostRingPoll_kept (l : LeafId) (ring : Nat) (desc : List Byte) (s : State) :
    Goes (.hostRingPoll l ring desc) s (State.Kept s) :=
  ⟨_, rfl, .ite _ (.refl s) (State.modRing_kept l ring _ (.refl s))⟩

theorem netTxFrame_kept (l : LeafId) (ring : Nat) (frame : List Byte) (s : State) :
    Goes (.netTxFrame l ring frame) s (State.Kept s) := by
  refine ⟨_, rfl, .ite _ (.refl s) ?_⟩
  split
  · exact .refl s
  · next n whole _ =>
    have stamped : ∀ p : Prop, [Decidable p] → State.Kept s (if p then (s.fresh "txTime").2 else s) := fun p _ =>
      .ite p (State.Kept.fresh (.refl s) _) (.refl s)
    refine .ite _ (.refl s) (State.ringReturn_kept l ring n (State.Kept.foldl ?_ _ _ fun _ _ h => ?_))
    · exact .ite _ (State.Kept.foldl (stamped _) _ _ fun _ _ h => .ite _ (State.portSend_kept _ _ _ _ _ h) h) (stamped _)
    · exact State.hostWrite_kept l _ _ (.ite _ (State.hostWrite_kept l _ _ h) h)

theorem netRingPending_kept (l : LeafId) (ring : Nat) (s : State) :
    Goes (.netRingPending l ring) s (State.Kept s) :=
  ⟨_, rfl, State.ringEvent_kept l ring (.refl s)⟩

theorem netLinkChange_kept (l : LeafId) (port : Nat) (up : Bool) (s : State) :
    Goes (.netLinkChange l port up) s (State.Kept s) :=
  ⟨_, rfl, .ite _ (.refl s) (.ite _ (State.linkDown_kept l port (.refl s)) (.ite _ (.refl s)
    (State.linkEvent_kept l port (State.modPort_kept l port _ (.refl s)))))⟩

theorem sfpLos_kept (l : LeafId) (port : Nat) (s : State) :
    Goes (.sfpLos l port) s (State.Kept s) :=
  ⟨_, rfl, .ite _ (.refl s) (State.linkDown_kept l port (State.modPort_kept l port _ (.refl s)))⟩

theorem sfpModabs_kept (l : LeafId) (port : Nat) (page : List Byte) (s : State) :
    Goes (.sfpModabs l port page) s (State.Kept s) :=
  ⟨_, rfl, .ite _ (.refl s) (State.modPort_kept l port _ (.refl s))⟩

theorem netFecFallback_kept (l : LeafId) (port : Nat) (s : State) :
    Goes (.netFecFallback l port) s (State.Kept s) :=
  ⟨_, rfl, .ite _ (.refl s) (State.modPort_kept l port _ (.refl s))⟩

theorem netLegLost_kept (l : LeafId) (stream leg : Nat) (s : State) :
    Goes (.netLegLost l stream leg) s (State.Kept s) :=
  ⟨_, rfl, State.eachScene_kept l _ (fun _ _ h => .ite _ (State.leafEvent_kept l _ _ _ _ _ _ _ (h.modLeaf l _)) h) (.refl s)⟩

theorem arpResolved_kept (l : LeafId) (stream leg mac : Nat) (s : State) :
    Goes (.arpResolved l stream leg mac) s (State.Kept s) :=
  ⟨_, rfl, State.eachScene_kept l _ (fun _ _ h => h.modLeaf l _) (.refl s)⟩

theorem mediaTxDiscard_kept (l : LeafId) (port : Nat) (s : State) :
    Goes (.mediaTxDiscard l port) s (State.Kept s) := by
  refine ⟨_, rfl, ?_⟩
  dsimp only
  split
  · exact .refl s
  · exact .ite _ (.refl s) (State.reportOn_kept _ l _ (State.modPort_kept l port _ (.refl s)))

theorem egressPacketComplete_kept (l : LeafId) (stream : Nat) (s : State) :
    Goes (.egressPacketComplete l stream) s (State.Kept s) :=
  ⟨_, rfl, .ite _ (State.releaseTx_kept l true stream (.refl s)) (State.releaseTx_kept l false stream (.refl s))⟩

theorem heartbeatRx_kept (l : LeafId) (s : State) :
    Goes (.heartbeatRx l) s (State.Kept s) :=
  ⟨_, rfl, .ite _ (State.Kept.modRed (.refl s) l _) (.refl s)⟩

theorem twinVerdict_kept (l : LeafId) (s : State) :
    Goes (.twinVerdict l) s (State.Kept s) := by
  refine ⟨_, rfl, ?_⟩
  dsimp only
  split
  · next own peer _ _ =>
    have judged : ∀ (p : Prop) [Decidable p] (g : RedLeaf → RedLeaf),
        State.Kept s ((if p then s.judge own peer l else s).modRed l g) := fun p _ g =>
      State.Kept.modRed (.ite p (State.judge_kept own peer l (.refl s)) (.refl s)) l g
    exact .ite _ (.refl s) (State.releaseAll_kept l (.ite _ ((judged _ _).modLeaf l _) (judged _ _)))
  · exact .refl s

theorem gateDeadline_kept (l : LeafId) (s : State) :
    Goes (.gateDeadline l) s (State.Kept s) := by
  refine ⟨_, rfl, ?_⟩
  dsimp only
  split
  · exact .refl s
  · have judged : ∀ (r : Red) (g : RedLeaf → RedLeaf), State.Kept s (({ s with red := r } : State).modRed l g) := fun r g =>
      State.Kept.modRed (State.Kept.red (.refl s) r) l g
    exact .ite _ (.refl s) (State.releaseAll_kept l (State.reportOn_kept _ l _
      (.ite _ ((judged _ _).modLeaf l _) (judged _ _))))

theorem tieFlitCrcFail_kept (l : LeafId) (s : State) :
    Goes (.tieFlitCrcFail l) s (State.Kept s) :=
  ⟨_, rfl, State.tieDown_kept l 0 (.refl s)⟩

theorem heartbeatMissing_kept (l : LeafId) (s : State) :
    Goes (.heartbeatMissing l) s (State.Kept s) :=
  ⟨_, rfl, State.tieDown_kept l 1 (.refl s)⟩

theorem tieLinkUp_kept (s : State) :
    Goes (.tieLinkUp) s (State.Kept s) :=
  ⟨_, rfl, .ite _ (.refl s) (.ite _ (State.modEvent_kept _ _ _ _ _ _ _ (State.Kept.red (.refl s) _))
    (State.Kept.red (.refl s) _))⟩

theorem livenessMissing_kept (l : LeafId) (s : State) :
    Goes (.livenessMissing l) s (State.Kept s) :=
  ⟨_, rfl, .ite _ (State.leafFails_kept l 3 (.refl s)) (.refl s)⟩

theorem claimGrant_kept (l : LeafId) (s : State) :
    Goes (.claimGrant l) s (State.Kept s) :=
  ⟨_, rfl, State.applyGrant_kept l (.refl s)⟩

theorem checkpointSend_kept (l : LeafId) (s : State) :
    Goes (.checkpointSend l) s (State.Kept s) :=
  ⟨_, rfl, .ite _ (State.Kept.modRed (.refl s) l.other _) (.refl s)⟩

theorem journalEntry_kept (l : LeafId) (s : State) :
    Goes (.journalEntry l) s (State.Kept s) :=
  ⟨_, rfl, State.Kept.modRed (.refl s) l _⟩

theorem splitTakeoverRestore_kept (l : LeafId) (s : State) :
    Goes (.splitTakeoverRestore l) s (State.Kept s) :=
  ⟨_, rfl, State.splitRestore_kept rerun l (fun c d _ _ h => rerun_kept c d h) (.refl s)⟩

theorem twinCopyDone_kept (s : State) :
    Goes (.twinCopyDone) s (State.Kept s) := by
  refine ⟨_, rfl, ?_⟩
  split
  · exact .refl s
  · have copied : ∀ r : Red, State.Kept s { (s.fresh "checkpointBytes").2 with red := r } := fun r =>
      State.Kept.red (State.Kept.fresh (.refl s) _) r
    exact .ite _ (.refl s) (.ite _ (copied _) ((copied _).modLeaf _ _))

theorem twinRestart_kept (cycles : Nat) (s : State) :
    Goes (.twinRestart cycles) s (State.Kept s) := by
  refine ⟨_, rfl, ?_⟩
  dsimp only
  split
  · exact .refl s
  · next e _ =>
    refine .ite _ (.refl s) (State.notify_kept _ _ (State.syncEvent_kept _ _ _ _ _ (State.final_kept _ _ _ _ _ _
      (State.rejoin_kept _ ?_))))
    have zeroed := fun c x n => State.leaveGroups_kept e.source.other (State.noteReports_kept e.source n
      ((State.leafStep_kept e.source (endSwaps c) (.refl s)).setLeaf e.source x))
    refine .ite _ ?_ (State.loseFn_kept .f1 ?_)
    all_goals
      refine State.Kept.red (State.restoreClaim_kept _ _ _ _ (State.restoreClaim_kept _ _ _ _ ?_)) _
      exact ((State.Kept.red ((zeroed _ _ _).modLeaf _ _) _).modRed .a _).modRed .b _

theorem servoSample_kept (l : LeafId) (tb : Nat) (theta : Int) (s : State) :
    Goes (.servoSample l tb theta) s (State.Kept s) :=
  ⟨_, rfl, .ite _ (.refl s) (State.tbSample_kept l tb _ (.refl s))⟩

theorem ptpAnnounceTimeout_kept (l : LeafId) (tb : Nat) (s : State) :
    Goes (.ptpAnnounceTimeout l tb) s (State.Kept s) :=
  ⟨_, rfl, .ite _ (.refl s) (State.leafStep_kept l _ (.refl s))⟩

theorem ptpSyncTimeout_kept (l : LeafId) (tb : Nat) (s : State) :
    Goes (.ptpSyncTimeout l tb) s (State.Kept s) :=
  ⟨_, rfl, .ite _ (.refl s) (State.leafStep_kept l _ (.refl s))⟩

theorem clkDiscontinuityDecision_kept (l : LeafId) (tb : Nat) (s : State) :
    Goes (.clkDiscontinuityDecision l tb) s (State.Kept s) :=
  ⟨_, rfl, .ite _ (.refl s) (State.decideTb_kept l tb (.refl s))⟩

theorem wclkSample_kept (l : LeafId) (tb : Nat) (theta : Int) (s : State) :
    Goes (.wclkSample l tb theta) s (State.Kept s) :=
  ⟨_, rfl, .ite _ (.refl s) (State.tbSample_kept l tb _ (.refl s))⟩

theorem wclkStop_kept (l : LeafId) (tb : Nat) (s : State) :
    Goes (.wclkStop l tb) s (State.Kept s) :=
  ⟨_, rfl, .ite _ (.refl s) (State.leafStep_kept l _ (.refl s))⟩

theorem wclkRateWindow_kept (l : LeafId) (tb edges : Nat) (s : State) :
    Goes (.wclkRateWindow l tb edges) s (State.Kept s) := by
  have told := fun g => State.leafStep_kept l g (.refl s)
  exact next_ite ⟨_, rfl, .refl s⟩ (next_ite ⟨_, rfl, State.Kept.modLeaf (.refl s) l _⟩
    ⟨_, rfl, .ite _ (told _) (.ite _ (.ite _ (told _) (State.shareTb_kept l tb _ _ (told _))) (State.leafStep_kept l _ (told _)))⟩)

theorem vcxoUpdate_kept (l : LeafId) (family : Nat) (phase : Int) (s : State) :
    Goes (.vcxoUpdate l family phase) s (State.Kept s) := by
  have servo : ∀ (p : Prop) [Decidable p] (g : Leaf → Leaf) (b : List Byte),
      State.Kept s (if p then s.modLeaf l g else (s.modLeaf l g).leafEvent l 0x0BF5 2 4294967295 b) := fun p _ g b =>
    .ite p (State.Kept.modLeaf (.refl s) l g) (State.leafEvent_kept l _ _ _ b _ _ _ (State.Kept.modLeaf (.refl s) l g))
  exact next_ite ⟨_, rfl, .refl s⟩ ⟨_, rfl, .ite _ (State.leafEvent_kept l _ _ _ _ _ _ _ (servo _ _ _))
    (.ite _ (servo _ _ _) (State.Kept.cop (servo _ _ _) _))⟩

theorem pllLockWindow_kept (l : LeafId) (pll diff : Nat) (refOk : Bool) (s : State) :
    Goes (.pllLockWindow l pll diff refOk) s (State.Kept s) :=
  next_ite ⟨_, rfl, .refl s⟩ (next_ite ⟨_, rfl, State.Kept.modLeaf (.refl s) l _⟩
    ⟨_, rfl, .ite _ (State.leafEvent_kept l _ _ _ _ _ _ _ (State.Kept.modLeaf (.refl s) l _)) (State.Kept.modLeaf (.refl s) l _)⟩)

theorem pllGateEnd_kept (l : LeafId) (pll : Nat) (s : State) :
    Goes (.pllGateEnd l pll) s (State.Kept s) :=
  ⟨_, rfl, .ite _ (.refl s) (State.Kept.modLeaf (.refl s) l _)⟩

theorem micFrameEnd_kept (l : LeafId) (ch : Nat) (bits : List Bool) (s : State) :
    Goes (.micFrameEnd l ch bits) s (State.Kept s) := by
  have fed := fun x => State.Kept.setLeaf (.refl s) l x
  refine next_ite ⟨_, rfl, .refl s⟩ ⟨_, rfl, ?_⟩
  split
  · exact fed _
  · exact State.reportOn_kept _ l _ (fed _)
  · exact State.reportOn_kept _ l _ (fed _)

theorem copingLoadStrobe_kept (s : State) :
    Goes (.copingLoadStrobe) s (State.Kept s) := by
  refine ⟨_, rfl, .ite _ (.refl s) ?_⟩
  split <;> exact .ite _ (.refl s) (State.copStrobe_kept (.refl s))

theorem copSlewUpdate_kept (out : Nat) (s : State) :
    Goes (.copSlewUpdate out) s (State.Kept s) := by
  refine ⟨_, rfl, ?_⟩
  split
  · exact .refl s
  · exact .ite _ (.refl s) (State.Kept.cop (.refl s) _)

theorem copSpanFadeEnd_kept (out : Nat) (s : State) :
    Goes (.copSpanFadeEnd out) s (State.Kept s) :=
  ⟨_, rfl, .ite _ (.refl s) (State.Kept.cop (.refl s) _)⟩

theorem copStrobeLoss_kept (s : State) :
    Goes (.copStrobeLoss) s (State.Kept s) := by
  refine ⟨_, rfl, ?_⟩
  split
  · exact .refl s
  · exact .ite _ (.refl s) (State.modEvent_kept _ _ _ _ _ _ _ (State.Kept.cop (.refl s) _))

theorem copMonitorWindow_kept (out : Nat) (dc rms : Int) (ohms : Nat) (limit : Bool) (s : State) :
    Goes (.copMonitorWindow out dc rms ohms limit) s (State.Kept s) :=
  next_ite ⟨_, rfl, .refl s⟩ ⟨_, rfl, State.Kept.foldl (State.Kept.foldl (State.Kept.cop (.refl s) _) _ _
    fun _ _ h => State.modEvent_kept _ _ _ _ _ _ _ h) _ _ fun _ _ h => State.modEvent_kept _ _ _ _ _ _ _ h⟩

theorem supplyGood_kept (s : State) :
    Goes (.supplyGood) s (State.Kept s) :=
  ⟨_, rfl, .ite _ (.refl s) (State.train_kept (State.Kept.plinth
    (.ite _ ((State.Kept.modLeaf (.refl s) .a _).modLeaf .b _) (State.Kept.modLeaf (.refl s) .a _)) _))⟩

theorem supplyFail_kept (s : State) :
    Goes (.supplyFail) s (State.Kept s) :=
  ⟨_, rfl, rfl, rfl, fun _ => reset_windowsOk, fun _ => reset_ringsOk, ⟨[], (List.append_nil _).symm⟩, Nat.le_refl _⟩

theorem leafRailFault_kept (l : LeafId) (cause : Nat) (s : State) :
    Goes (.leafRailFault l cause) s (State.Kept s) :=
  ⟨_, rfl, .ite _ (.refl s) (State.modEvent_kept _ _ _ _ _ _ _ (State.Kept.modLeaf (State.resetLeaf_kept l (.refl s)) l _))⟩

theorem plinthOvertemp_kept (s : State) :
    Goes (.plinthOvertemp) s (State.Kept s) :=
  ⟨_, rfl, .ite _ (State.resetModule_kept (.refl s)) (.refl s)⟩

theorem leafResetRelease_kept (l : LeafId) (s : State) :
    Goes (.leafResetRelease l) s (State.Kept s) :=
  ⟨_, rfl, .ite _ (.refl s) (State.notify_kept s 0 (State.Kept.setLeaf (.refl s) l _))⟩

theorem bootReady_kept (l : LeafId) (ms : Nat) (fails : List TestWord) (s : State) :
    Goes (.bootReady l ms fails) s (State.Kept s) := by
  refine ⟨_, rfl, ?_⟩
  dsimp only
  refine .ite _ (.refl s) ?_
  split
  · exact State.bootFail_kept l 3 0 (.refl s)
  · have rejected := fun ps : List (EccRepair × Nat) => State.Kept.foldl (.refl s) ps
      (fun s p => s.repairRejected l p.1.bank p.2 p.1.index) fun _ _ h => State.repairRejected_kept l _ _ _ h
    split
    · exact State.bootFail_kept l 8 5 (rejected _)
    · exact State.notify_kept _ _ (State.events_kept _ _ (State.Kept.modLeaf (State.Kept.foldl (rejected _) _ _
        fun _ _ h => State.weakEvent_kept l _ _ h) l _))

theorem sysBootFail_kept (l : LeafId) (step cause : Nat) (s : State) :
    Goes (.sysBootFail l step cause) s (State.Kept s) :=
  ⟨_, rfl, .ite _ (.refl s) (State.bootFail_kept l step cause (.refl s))⟩

theorem eccCorrection_kept (l : LeafId) (bank row slot pos : Nat) (s : State) :
    Goes (.eccCorrection l bank row slot pos) s (State.Kept s) := by
  have counted := fun g => State.modEcc_kept l g (.refl s)
  refine ⟨_, rfl, .ite _ (counted _) (.ite _ (counted _) (.ite _ (.refl s) ?_))⟩
  dsimp only
  split
  · split
    · exact State.modEcc_kept l _ (counted _)
    · exact State.report_kept l _ _ _ _ _ _ (State.modEcc_kept l _ (counted _))
  · have put := fun g g' => State.modEcc_kept l g (counted g')
    exact .ite _ (put _ _) (.ite _ (State.reportOn_kept _ l _ (put _ _)) (.ite _ (State.markWeak_kept l _ (put _ _)) (put _ _)))

theorem eccScrub_kept (l : LeafId) (s : State) :
    Goes (.eccScrub l) s (State.Kept s) :=
  ⟨_, rfl, State.modEcc_kept l _ (.refl s)⟩

theorem eccUncorrectable_kept (l : LeafId) (access course bank row slot : Nat) (feeds : List Nat) (again : Bool) (s : State) :
    Goes (.eccUncorrectable l access course bank row slot feeds again) s (State.Kept s) :=
  ⟨_, rfl, State.eccUncorrectable_kept _ l access course bank row slot feeds again
    (fun f n _ _ h => State.haltDma_kept f n h) (.refl s)⟩

theorem courseRestart_kept (l : LeafId) (course : Nat) (s : State) :
    Goes (.courseRestart l course) s (State.Kept s) :=
  ⟨_, rfl, .ite _ (.refl s) (State.Kept.modLeaf (.refl s) l _)⟩

theorem repeatEntryExpire_kept (l : LeafId) (i : Nat) (s : State) :
    Goes (.repeatEntryExpire l i) s (State.Kept s) := by
  refine ⟨_, rfl, ?_⟩
  dsimp only
  split
  · exact .refl s
  · exact .ite _ (State.modEcc_kept l _ (.refl s)) (.refl s)

theorem fieldRepairWrite_kept (l : LeafId) (s : State) :
    Goes (.fieldRepairWrite l) s (State.Kept s) := by
  refine ⟨_, rfl, ?_⟩
  dsimp only
  split
  · exact .refl s
  · have rejected := fun g b c i => State.repairRejected_kept l b c i (State.modEcc_kept l g (.refl s))
    refine .ite _ (.ite _ (State.endRepair_kept l _ (rejected _ _ _ _)) (rejected _ _ _ _)) ?_
    split
    · exact .ite _ (State.endRepair_kept l _ (rejected _ _ _ _)) (rejected _ _ _ _)
    · have done := fun g g' => State.modEcc_kept l g (State.modEcc_kept l g' (.refl s))
      exact .ite _ (State.endRepair_kept l _ (done _ _)) (done _ _)

theorem bankHandover_kept (l : LeafId) (bank owner : Nat) (s : State) :
    Goes (.bankHandover l bank owner) s (State.Kept s) :=
  ⟨_, rfl, .ite _ (.refl s) (State.modEcc_kept l _ (.refl s))⟩

theorem aliasWrite_kept (l : LeafId) (bank row slot : Nat) (set : Bool) (strobes : BitVec 8) (mask : BitVec 64) (bad : Bool) (s : State) :
    Goes (.aliasWrite l bank row slot set strobes mask bad) s (State.Kept s) :=
  ⟨_, rfl, .ite _ (.refl s) (.ite _ (State.eccEvent_kept l _ _ _ _ _ (State.modEcc_kept l _ (.refl s)))
    (State.modEcc_kept l _ (State.modEcc_kept l _ (.refl s))))⟩

theorem mergeEntryFlush_kept (l : LeafId) (bank i : Nat) (writes : List NarrowWrite) (bad : Bool) (s : State) :
    Goes (.mergeEntryFlush l bank i writes bad) s (State.Kept s) := by
  have written := fun g => State.modEcc_kept l g (.refl s)
  refine ⟨_, rfl, .ite _ (.refl s) ?_⟩
  dsimp only
  split
  · exact written _
  · exact .ite _ (State.modEcc_kept l _ (State.eccEvent_kept l _ _ _ _ _ (written _))) (State.modEcc_kept l _ (written _))

theorem busDecerr_kept (l : LeafId) (master unit addr : Nat) (s : State) :
    Goes (.busDecerr l master unit addr) s (State.Kept s) :=
  ⟨_, rfl, State.busDecerr_kept _ l master unit addr (fun f n _ _ h => State.haltDma_kept f n h) (.refl s)⟩

theorem dramRefresh_kept (l : LeafId) (ch : Nat) (busy : Bool) (s : State) :
    Goes (.dramRefresh l ch busy) s (State.Kept s) :=
  ⟨_, rfl, .ite _ (.refl s) (State.Kept.modLeaf (.refl s) l _)⟩

theorem dramTempPoll_kept (l : LeafId) (ch mr4 : Nat) (above beyond : Bool) (s : State) :
    Goes (.dramTempPoll l ch mr4 above beyond) s (State.Kept s) := by
  have read := fun g => State.Kept.modLeaf (.refl s) l g
  have rated : ∀ (p q : Prop) [Decidable p] [Decidable q] (g g' g'' : Leaf → Leaf) (n : Nat), State.Kept s
      (if p then ((s.modLeaf l g).modLeaf l g').dramTemp l ch n 1
        else if q then ((s.modLeaf l g).modLeaf l g'').dramTemp l ch 0 1 else s.modLeaf l g) := fun p q _ _ g g' g'' n =>
    .ite p (State.dramTemp_kept l ch n 1 ((read g).modLeaf l g'))
      (.ite q (State.dramTemp_kept l ch 0 1 ((read g).modLeaf l g'')) (read g))
  exact ⟨_, rfl, .ite _ (.refl s) (.ite _ (State.dramTemp_kept l ch 0 3 (rated _ _ _ _ _ _)) (rated _ _ _ _ _ _))⟩

theorem dramWriteDrain_kept (l : LeafId) (ch : Nat) (reqs : List DramReq) (issues : Option Nat) (s : State) :
    Goes (.dramWriteDrain l ch reqs issues) s (State.Kept s) :=
  ⟨_, rfl, .ite _ (.refl s) (State.Kept.modLeaf (.refl s) l _)⟩

theorem dramThrottle_kept (l : LeafId) (ch bank row master unit : Nat) (s : State) :
    Goes (.dramThrottle l ch bank row master unit) s (State.Kept s) :=
  ⟨_, rfl, .ite _ (.refl s) (State.reportOn_kept _ l _ (State.Kept.modLeaf (.refl s) l _))⟩

theorem dramEcc_kept (l : LeafId) (master unit ch addr : Nat) (users : List (Nat × Nat)) (s : State) :
    Goes (.dramEcc l master unit ch addr users) s (State.Kept s) :=
  ⟨_, rfl, State.dramEcc_kept _ l master unit ch addr users (fun f n _ _ h => State.haltDma_kept f n h) (.refl s)⟩

theorem threadReady_kept (l : LeafId) (t prio : Nat) (only : Option Nat) (cancelled : Bool) (as : List SchedAct) (s : State) :
    Goes (.threadReady l t prio only cancelled as) s (State.Kept s) :=
  ⟨_, rfl, State.Kept.modLeaf (.refl s) l _⟩

theorem timesliceExpire_kept (l : LeafId) (core : Nat) (s : State) :
    Goes (.timesliceExpire l core) s (State.Kept s) :=
  ⟨_, rfl, State.Kept.modLeaf (.refl s) l _⟩

theorem delayTick_kept (l : LeafId) (as : List SchedAct) (s : State) :
    Goes (.delayTick l as) s (State.Kept s) :=
  ⟨_, rfl, State.Kept.modLeaf (.refl s) l _⟩

theorem eventPost_kept (l : LeafId) (q word : Nat) (hw : Bool) (as : List SchedAct) (s : State) :
    Goes (.eventPost l q word hw as) s (State.Kept s) :=
  ⟨_, rfl, State.Kept.modLeaf (.refl s) l _⟩

theorem schedQueueFull_kept (l : LeafId) (q : Nat) (s : State) :
    Goes (.schedQueueFull l q) s (State.Kept s) :=
  ⟨_, rfl, .ite _ (.refl s) (State.report_kept l _ _ _ _ _ _ (State.Kept.modLeaf (.refl s) l _))⟩

theorem busMasterEnable_kept (f : FnId) (s : State) :
    Goes (.busMasterEnable f) s (State.Kept s) :=
  ⟨_, rfl, State.flushPba_kept f (State.Kept.modMail (.refl s) f _ fun _ => rfl)⟩

theorem pcieLinkDown_kept (s : State) :
    Goes (.pcieLinkDown) s (State.Kept s) :=
  ⟨_, rfl, State.Kept.plinth (.refl s) _⟩

theorem copingRailFault_kept (s : State) :
    Goes (.copingRailFault) s (State.Kept s) :=
  ⟨_, rfl, .ite _ (State.Kept.copPlinth (.refl s) _ _) (.refl s)⟩

theorem copingResetRelease_kept (s : State) :
    Goes (.copingResetRelease) s (State.Kept s) :=
  ⟨_, rfl, .ite _ (State.Kept.copPlinth (.refl s) _ _) (.refl s)⟩

theorem copingFoldBack_kept (hot : Bool) (s : State) :
    Goes (.copingFoldBack hot) s (State.Kept s) :=
  ⟨_, rfl, .ite _ (State.Kept.cop (.refl s) _) (.refl s)⟩

theorem ptpAnnounceRx_kept (l : LeafId) (tb : Nat) (m : PtpAnnounce) (s : State) :
    Goes (.ptpAnnounceRx l tb m) s (State.Kept s) :=
  ⟨_, rfl, .ite _ (.refl s) (State.leafStep_kept l _ (.refl s))⟩

theorem ptpDelayRespRx_kept (l : LeafId) (tb path : Nat) (s : State) :
    Goes (.ptpDelayRespRx l tb path) s (State.Kept s) :=
  ⟨_, rfl, .ite _ (.refl s) (State.Kept.modLeaf (.refl s) l _)⟩

theorem ptpMessageInterval_kept (l : LeafId) (tb : Nat) (s : State) :
    Goes (.ptpMessageInterval l tb) s (State.Kept s) := by
  have stamped := fun g => State.Kept.modLeaf (State.Kept.fresh (.refl s) "txTime") l g
  have sync := fun g m => State.ptpSend_kept l tb true false m (stamped g)
  exact next_ite ⟨_, rfl, .refl s⟩ ⟨_, rfl, .ite _
    (State.ptpSend_kept l tb false false _ (.ite _ (State.ptpSend_kept l tb false false _ (sync _ _)) (sync _ _)))
    (.ite _ (.ite _ (State.ptpSend_kept l tb true true _ (stamped _)) (sync _ _)) (.refl s))⟩

theorem wclkReturn_kept (l : LeafId) (tb : Nat) (s : State) :
    Goes (.wclkReturn l tb) s (State.Kept s) :=
  ⟨_, rfl, .ite _ (.refl s) (State.Kept.modLeaf (.refl s) l _)⟩

theorem pauseQuantaExpire_kept (l : LeafId) (port : Nat) (s : State) :
    Goes (.pauseQuantaExpire l port) s (State.Kept s) :=
  ⟨_, rfl, .ite _ (.refl s) (State.resumePort_kept l port (.refl s))⟩

theorem checkpointReceived_kept (l : LeafId) (s : State) :
    Goes (.checkpointReceived l) s (State.Kept s) := by
  refine ⟨_, rfl, ?_⟩
  split
  · exact .refl s
  · refine .ite _ (.refl s) (State.notify_kept _ _ ?_)
    have received := fun g => State.Kept.modRed (.refl s) l g
    have settled : ∀ g, State.Kept s (match (s.modRed l g).red.split with
      | none => s.modRed l g
      | some c =>
        if ((s.modRed l g).red.of l.other).ckpt.isNone then s.modRed l g
        else
          let s := { s.modRed l g with red := { (s.modRed l g).red with split := none, mode := 2 } }
          let co := if s.red.copingScene = 0 then s.red.sceneA else s.red.sceneA.other
          let n : LeafId → Nat := fun k => if k = co then s.red.activeClaim else s.red.standbyClaim
          (s.moveClaims (n .a) (n .b) 0 c.tag).final c false sOk 0 0) := by
      intro g
      split
      · exact received g
      · exact .ite _ (received g) (State.final_kept _ _ _ _ _ _ (State.moveClaims_kept _ _ _ _ (State.Kept.red (received g) _)))
    split
    · exact settled _
    · exact .ite _ (State.handBack_kept _ l (settled _)) (settled _)

theorem dramActivateWindowEnd_kept (l : LeafId) (ch : Nat) (s : State) :
    Goes (.dramActivateWindowEnd l ch) s (State.Kept s) :=
  ⟨_, rfl, .ite _ (.refl s) (State.Kept.modLeaf (.refl s) l _)⟩

theorem eccOperandRewrite_kept (l : LeafId) (bank row slot : Nat) (hard : Bool) (s : State) :
    Goes (.eccOperandRewrite l bank row slot hard) s (State.Kept s) := by
  have edited := fun g => State.modEcc_kept l g (.refl s)
  refine ⟨_, rfl, .ite _ (.refl s) (.ite _ (edited _) ?_)⟩
  dsimp only
  split
  · exact edited _
  · exact .ite _ (edited _) (State.markWeak_kept l _ (edited _))

theorem testComplete_kept (l : LeafId) (res : TestResult) (s : State) :
    Goes (.testComplete l res) s (State.Kept s) := by
  refine ⟨_, rfl, ?_⟩
  split
  · exact .refl s
  · have taken := fun g => State.Kept.modLeaf (.refl s) l g
    refine State.notify_kept _ _ ?_
    split
    · exact State.final_kept _ _ _ _ _ _ ((taken _).modLeaf l _)
    · have found := fun (ws : List TestWord) g g' => State.Kept.foldl ((taken g).modLeaf l g') ws _ fun _ w h =>
        State.Kept.ite (within 48 55 w.bank = true) (State.repairRejected_kept l w.bank 0 w.row h) (State.enterWeak_kept l w h)
      have ended := fun ws g g' c a b d e r => State.final_kept c a b d e r (found ws g g')
      exact .ite _ ((ended _ _ _ _ _ _ _ _ _).modLeaf l _) (ended _ _ _ _ _ _ _ _ _)
    · exact State.final_kept _ _ _ _ _ _ ((taken _).modLeaf l _)
    · exact State.final_kept _ _ _ _ _ _ ((taken _).modLeaf l _)

theorem fwSlotVerified_kept (l : LeafId) (s : State) :
    Goes (.fwSlotVerified l) s (State.Kept s) := by
  refine ⟨_, rfl, ?_⟩
  split
  · exact .refl s
  · exact .ite _ (.refl s) (.ite _ (State.final_kept _ _ _ _ _ _ (State.Kept.modLeaf (.refl s) l _))
      (State.final_kept _ _ _ _ _ _ (State.Kept.modLeaf (.refl s) l _)))

theorem sfpModabsHigh_kept (l : LeafId) (port : Nat) (s : State) :
    Goes (.sfpModabsHigh l port) s (State.Kept s) :=
  ⟨_, rfl, .ite _ (.refl s) (State.modPort_kept l port _ (.refl s))⟩


/-- A row of the mailboxes keeps the state where its chapter does. -/
theorem issued_kept {sp : Spec} (hs : sp.Keeps) (c : Cmd) (s : State) : State.Kept s (issue sp drainDue c s) :=
  issue_kept sp hs drainDue (fun c _ _ h => drainDue_kept c h) c (.refl s)

theorem specSysCancelAll_keeps : (specSysCancel undoCmd).Keeps := specSysCancel_keeps _ fun c _ _ h => undoCmd_kept c h

/-- Every command answers a next state, and that state is kept. -/
theorem exec_kept (i : Instr) (s : State) : Goes i s (State.Kept s) := by
  cases i with
  | doorbell f v => exact doorbell_kept f v s
  | tbSnapLo f cycles => exact tbSnapLo_kept f cycles s
  | cqCons f v => exact cqCons_kept f v s
  | eqCons f v => exact eqCons_kept f v s
  | posCommit f v => exact posCommit_kept f v s
  | clearHalt f v => exact clearHalt_kept f v s
  | modResetModule v => exact modResetModule_kept v s
  | modResetLeaf v => exact modResetLeaf_kept v s
  | modResetCoping v => exact modResetCoping_kept v s
  | registerWrite f bar2 off bytes => exact registerWrite_kept f bar2 off bytes s
  | sysCaps c => exact ⟨_, rfl, issued_kept specSysCaps_keeps c s⟩
  | sysCancel c => exact ⟨_, rfl, issued_kept specSysCancelAll_keeps c s⟩
  | sysBootLoad c => exact ⟨_, rfl, issued_kept specSysBootLoad_keeps c s⟩
  | sysFwUpdate c => exact ⟨_, rfl, issued_kept specSysFwUpdate_keeps c s⟩
  | scnConfig c => exact ⟨_, rfl, issued_kept specScnConfig_keeps c s⟩
  | scnClear c => exact ⟨_, rfl, issued_kept specScnClearAll_keeps c s⟩
  | objConfig c => exact ⟨_, rfl, issued_kept specObjConfigAll_keeps c s⟩
  | objEnable c => exact ⟨_, rfl, issued_kept specObjEnable_keeps c s⟩
  | objSetPos c => exact ⟨_, rfl, issued_kept specObjSetPos_keeps c s⟩
  | objBed c => exact ⟨_, rfl, issued_kept specObjBedAll_keeps c s⟩
  | objAdmMap c => exact ⟨_, rfl, issued_kept specObjAdmMap_keeps c s⟩
  | objQuery c => exact ⟨_, rfl, issued_kept specObjQuery_keeps c s⟩
  | laySpeaker c => exact ⟨_, rfl, issued_kept specLaySpeaker_keeps c s⟩
  | laySegment c => exact ⟨_, rfl, issued_kept specLaySegment_keeps c s⟩
  | layCommit c => exact ⟨_, rfl, issued_kept specLayCommit_keeps c s⟩
  | layQuery c => exact ⟨_, rfl, issued_kept specLayQuery_keeps c s⟩
  | rndConfig c => exact ⟨_, rfl, issued_kept specRndConfig_keeps c s⟩
  | rndObjQuery c => exact ⟨_, rfl, issued_kept specRndObjQuery_keeps c s⟩
  | outFeedConfig c => exact ⟨_, rfl, issued_kept specOutFeedConfig_keeps c s⟩
  | outBankLoad c => exact ⟨_, rfl, issued_kept specOutBankLoadAll_keeps c s⟩
  | outBankSwap c => exact ⟨_, rfl, issued_kept specOutBankSwapAll_keeps c s⟩
  | outSwapReserve c => exact ⟨_, rfl, issued_kept specOutSwapReserve_keeps c s⟩
  | outSceneDelay c => exact ⟨_, rfl, issued_kept specOutSceneDelay_keeps c s⟩
  | outFeedQuery c => exact ⟨_, rfl, issued_kept specOutFeedQuery_keeps c s⟩
  | outBankQuery c => exact ⟨_, rfl, issued_kept specOutBankQuery_keeps c s⟩
  | measTarget c => exact ⟨_, rfl, issued_kept specMeasTarget_keeps c s⟩
  | measStart c => exact ⟨_, rfl, issued_kept specMeasStart_keeps c s⟩
  | measAbort c => exact ⟨_, rfl, issued_kept specMeasAbort_keeps c s⟩
  | measQuery c => exact ⟨_, rfl, issued_kept specMeasQuery_keeps c s⟩
  | measResult c => exact ⟨_, rfl, issued_kept specMeasResult_keeps c s⟩
  | trkConfig c => exact ⟨_, rfl, issued_kept specTrkConfig_keeps c s⟩
  | trkBaseline c => exact ⟨_, rfl, issued_kept specTrkBaseline_keeps c s⟩
  | trkQuery c => exact ⟨_, rfl, issued_kept specTrkQuery_keeps c s⟩
  | voxConfig c => exact ⟨_, rfl, issued_kept specVoxConfig_keeps c s⟩
  | voxPool c => exact ⟨_, rfl, issued_kept specVoxPool_keeps c s⟩
  | voxGroup c => exact ⟨_, rfl, issued_kept specVoxGroup_keeps c s⟩
  | voxPatchLoad c => exact ⟨_, rfl, issued_kept specVoxPatchLoad_keeps c s⟩
  | voxWaveLoad c => exact ⟨_, rfl, issued_kept specVoxWaveLoad_keeps c s⟩
  | noteEvents c => exact ⟨_, rfl, issued_kept specNoteEvents_keeps c s⟩
  | noteUmp c => exact ⟨_, rfl, issued_kept specNoteUmp_keeps c s⟩
  | voxChannelMap c => exact ⟨_, rfl, issued_kept specVoxChannelMap_keeps c s⟩
  | voxQuery c => exact ⟨_, rfl, issued_kept specVoxQuery_keeps c s⟩
  | clipLoad c => exact ⟨_, rfl, issued_kept specClipLoad_keeps c s⟩
  | clipCue c => exact ⟨_, rfl, issued_kept specClipCue_keeps c s⟩
  | clipPlay c => exact ⟨_, rfl, issued_kept specClipPlay_keeps c s⟩
  | clipPause c => exact ⟨_, rfl, issued_kept specClipPause_keeps c s⟩
  | clipStop c => exact ⟨_, rfl, issued_kept specClipStop_keeps c s⟩
  | clipQuery c => exact ⟨_, rfl, issued_kept specClipQuery_keeps c s⟩
  | rteDomain c => exact ⟨_, rfl, issued_kept specRteDomain_keeps c s⟩
  | rteSource c => exact ⟨_, rfl, issued_kept specRteSource_keeps c s⟩
  | rteEgress c => exact ⟨_, rfl, issued_kept specRteEgress_keeps c s⟩
  | rteBus c => exact ⟨_, rfl, issued_kept specRteBus_keeps c s⟩
  | rteBridge c => exact ⟨_, rfl, issued_kept specRteBridge_keeps c s⟩
  | rteQuery c => exact ⟨_, rfl, issued_kept specRteQuery_keeps c s⟩
  | mtrConfig c => exact ⟨_, rfl, issued_kept specMtrConfig_keeps c s⟩
  | mtrRead c => exact ⟨_, rfl, issued_kept specMtrRead_keeps c s⟩
  | ucLoad c => exact ⟨_, rfl, issued_kept specUcLoad_keeps c s⟩
  | ucAttach c => exact ⟨_, rfl, issued_kept specUcAttach_keeps c s⟩
  | ucParam c => exact ⟨_, rfl, issued_kept specUcParam_keeps c s⟩
  | ucQuery c => exact ⟨_, rfl, issued_kept specUcQuery_keeps c s⟩
  | netPort c => exact ⟨_, rfl, issued_kept specNetPort_keeps c s⟩
  | netRing c => exact ⟨_, rfl, issued_kept specNetRing_keeps c s⟩
  | netFilter c => exact ⟨_, rfl, issued_kept specNetFilter_keeps c s⟩
  | netRxStream c => exact ⟨_, rfl, issued_kept specNetRxStream_keeps c s⟩
  | netTxStream c => exact ⟨_, rfl, issued_kept specNetTxStream_keeps c s⟩
  | netQuery c => exact ⟨_, rfl, issued_kept specNetQuery_keeps c s⟩
  | netStreamQuery c => exact ⟨_, rfl, issued_kept specNetStreamQuery_keeps c s⟩
  | clkTbSource c => exact ⟨_, rfl, issued_kept specClkTbSource_keeps c s⟩
  | clkServo c => exact ⟨_, rfl, issued_kept specClkServo_keeps c s⟩
  | clkTbAction c => exact ⟨_, rfl, issued_kept specClkTbAction_keeps c s⟩
  | clkVcxo c => exact ⟨_, rfl, issued_kept specClkVcxo_keeps c s⟩
  | clkPll c => exact ⟨_, rfl, issued_kept specClkPll_keeps c s⟩
  | clkTbQuery c => exact ⟨_, rfl, issued_kept specClkTbQuery_keeps c s⟩
  | clkPllQuery c => exact ⟨_, rfl, issued_kept specClkPllQuery_keeps c s⟩
  | micClock c => exact ⟨_, rfl, issued_kept specMicClock_keeps c s⟩
  | micEnable c => exact ⟨_, rfl, issued_kept specMicEnable_keeps c s⟩
  | micConfig c => exact ⟨_, rfl, issued_kept specMicConfig_keeps c s⟩
  | micRead c => exact ⟨_, rfl, issued_kept specMicRead_keeps c s⟩
  | micQuery c => exact ⟨_, rfl, issued_kept specMicQuery_keeps c s⟩
  | copOutConfig c => exact ⟨_, rfl, issued_kept specCopOutConfig_keeps c s⟩
  | copCvConfig c => exact ⟨_, rfl, issued_kept specCopCvConfig_keeps c s⟩
  | copMute c => exact ⟨_, rfl, issued_kept specCopMute_keeps c s⟩
  | copQuery c => exact ⟨_, rfl, issued_kept specCopQuery_keeps c s⟩
  | redMode c => exact ⟨_, rfl, issued_kept specRedMode_keeps c s⟩
  | redRestore c => exact ⟨_, rfl, issued_kept specRedRestore_keeps c s⟩
  | redSwap c => exact ⟨_, rfl, issued_kept specRedSwap_keeps c s⟩
  | redConfig c => exact ⟨_, rfl, issued_kept specRedConfig_keeps c s⟩
  | redQuery c => exact ⟨_, rfl, issued_kept specRedQuery_keeps c s⟩
  | tstBist c => exact ⟨_, rfl, issued_kept specTstBist_keeps c s⟩
  | tstMarch c => exact ⟨_, rfl, issued_kept specTstMarch_keeps c s⟩
  | tstDramSweep c => exact ⟨_, rfl, issued_kept specTstDramSweep_keeps c s⟩
  | tstDramFreq c => exact ⟨_, rfl, issued_kept specTstDramFreq_keeps c s⟩
  | diagConfig c => exact ⟨_, rfl, issued_kept specDiagConfig_keeps c s⟩
  | diagRepair c => exact ⟨_, rfl, issued_kept specDiagRepair_keeps c s⟩
  | diagTraceRead c => exact ⟨_, rfl, issued_kept specDiagTraceRead_keeps c s⟩
  | diagMemQuery c => exact ⟨_, rfl, issued_kept specDiagMemQuery_keeps c s⟩
  | commandValidated f => exact commandValidated_kept f s
  | timedCommandApply f => exact timedCommandApply_kept f s
  | noteEventApply l => exact noteEventApply_kept l s
  | completionPost f => exact completionPost_kept f s
  | eventsLost f => exact eventsLost_kept f s
  | intModerationTimer f => exact intModerationTimer_kept f s
  | rateLimitedReport f code subject key => exact rateLimitedReport_kept f code subject key s
  | functionLevelReset f => exact functionLevelReset_kept f s
  | linkHotReset => exact linkHotReset_kept s
  | busMasterDisable f => exact busMasterDisable_kept f s
  | powerStateChange f d3 => exact powerStateChange_kept f d3 s
  | dmaTransferDone f data => exact dmaTransferDone_kept f data s
  | dmaHalt f cause => exact dmaHalt_kept f cause s
  | meridian l overruns residues => exact meridian_kept l overruns residues s
  | posCommitApply f => exact posCommitApply_kept f s
  | gainSolverBlock l => exact gainSolverBlock_kept l s
  | objXfadeEnd l i => exact objXfadeEnd_kept l i s
  | scnClearReturn l => exact scnClearReturn_kept l s
  | bedRemoveEnd l base => exact bedRemoveEnd_kept l base s
  | admFrame l id fr => exact admFrame_kept l id fr s
  | swapFadeEnd l bank => exact swapFadeEnd_kept l bank s
  | delayFadeEnd l feed => exact delayFadeEnd_kept l feed s
  | feedSlewUpdate l feed w => exact feedSlewUpdate_kept l feed w s
  | selectionFadeEnd l kind point => exact selectionFadeEnd_kept l kind point s
  | meterFrameEnd l => exact meterFrameEnd_kept l s
  | renderSilenceStart l => exact renderSilenceStart_kept l s
  | renderRestart l cycles => exact renderRestart_kept l cycles s
  | bridgeRatioWindow l ch ratio fill => exact bridgeRatioWindow_kept l ch ratio fill s
  | clipLoopEnd l player => exact clipLoopEnd_kept l player s
  | clipEndPassed l player => exact clipEndPassed_kept l player s
  | clipFadeEnd l player => exact clipFadeEnd_kept l player s
  | voiceMatrixEval l => exact voiceMatrixEval_kept l s
  | voiceEnd l voice => exact voiceEnd_kept l voice s
  | stealMigrate l shadow => exact stealMigrate_kept l shadow s
  | ucFadeEnd l att => exact ucFadeEnd_kept l att s
  | ucPassAbandon l att course pass => exact ucPassAbandon_kept l att course pass s
  | measSlotEnd l => exact measSlotEnd_kept l s
  | measAnalysisDone l => exact measAnalysisDone_kept l s
  | measReturnEnd l => exact measReturnEnd_kept l s
  | measDesignDone l => exact measDesignDone_kept l s
  | measInstallSwap l => exact measInstallSwap_kept l s
  | trackingUpdate l errs => exact trackingUpdate_kept l errs s
  | trkStarved l => exact trkStarved_kept l s
  | netRxFrame l port frame fcsOk coded stamp => exact netRxFrame_kept l port frame fcsOk coded stamp s
  | hostRingPoll l ring desc => exact hostRingPoll_kept l ring desc s
  | netTxFrame l ring frame => exact netTxFrame_kept l ring frame s
  | netRingPending l ring => exact netRingPending_kept l ring s
  | netLinkChange l port up => exact netLinkChange_kept l port up s
  | sfpLos l port => exact sfpLos_kept l port s
  | sfpModabs l port page => exact sfpModabs_kept l port page s
  | netFecFallback l port => exact netFecFallback_kept l port s
  | netLegLost l stream leg => exact netLegLost_kept l stream leg s
  | arpResolved l stream leg mac => exact arpResolved_kept l stream leg mac s
  | mediaTxDiscard l port => exact mediaTxDiscard_kept l port s
  | egressPacketComplete l stream => exact egressPacketComplete_kept l stream s
  | heartbeatRx l => exact heartbeatRx_kept l s
  | twinVerdict l => exact twinVerdict_kept l s
  | gateDeadline l => exact gateDeadline_kept l s
  | tieFlitCrcFail l => exact tieFlitCrcFail_kept l s
  | heartbeatMissing l => exact heartbeatMissing_kept l s
  | tieLinkUp => exact tieLinkUp_kept s
  | livenessMissing l => exact livenessMissing_kept l s
  | claimGrant l => exact claimGrant_kept l s
  | checkpointSend l => exact checkpointSend_kept l s
  | journalEntry l => exact journalEntry_kept l s
  | splitTakeoverRestore l => exact splitTakeoverRestore_kept l s
  | twinCopyDone => exact twinCopyDone_kept s
  | twinRestart cycles => exact twinRestart_kept cycles s
  | servoSample l tb theta => exact servoSample_kept l tb theta s
  | ptpAnnounceTimeout l tb => exact ptpAnnounceTimeout_kept l tb s
  | ptpSyncTimeout l tb => exact ptpSyncTimeout_kept l tb s
  | clkDiscontinuityDecision l tb => exact clkDiscontinuityDecision_kept l tb s
  | wclkSample l tb theta => exact wclkSample_kept l tb theta s
  | wclkStop l tb => exact wclkStop_kept l tb s
  | wclkRateWindow l tb edges => exact wclkRateWindow_kept l tb edges s
  | vcxoUpdate l family phase => exact vcxoUpdate_kept l family phase s
  | pllLockWindow l pll diff refOk => exact pllLockWindow_kept l pll diff refOk s
  | pllGateEnd l pll => exact pllGateEnd_kept l pll s
  | micFrameEnd l ch bits => exact micFrameEnd_kept l ch bits s
  | copingLoadStrobe => exact copingLoadStrobe_kept s
  | copSlewUpdate out => exact copSlewUpdate_kept out s
  | copSpanFadeEnd out => exact copSpanFadeEnd_kept out s
  | copStrobeLoss => exact copStrobeLoss_kept s
  | copMonitorWindow out dc rms ohms limit => exact copMonitorWindow_kept out dc rms ohms limit s
  | supplyGood => exact supplyGood_kept s
  | supplyFail => exact supplyFail_kept s
  | leafRailFault l cause => exact leafRailFault_kept l cause s
  | plinthOvertemp => exact plinthOvertemp_kept s
  | leafResetRelease l => exact leafResetRelease_kept l s
  | bootReady l ms fails => exact bootReady_kept l ms fails s
  | sysBootFail l step cause => exact sysBootFail_kept l step cause s
  | eccCorrection l bank row slot pos => exact eccCorrection_kept l bank row slot pos s
  | eccScrub l => exact eccScrub_kept l s
  | eccUncorrectable l access course bank row slot feeds again => exact eccUncorrectable_kept l access course bank row slot feeds again s
  | courseRestart l course => exact courseRestart_kept l course s
  | repeatEntryExpire l i => exact repeatEntryExpire_kept l i s
  | fieldRepairWrite l => exact fieldRepairWrite_kept l s
  | bankHandover l bank owner => exact bankHandover_kept l bank owner s
  | aliasWrite l bank row slot set strobes mask bad => exact aliasWrite_kept l bank row slot set strobes mask bad s
  | mergeEntryFlush l bank i writes bad => exact mergeEntryFlush_kept l bank i writes bad s
  | busDecerr l master unit addr => exact busDecerr_kept l master unit addr s
  | dramRefresh l ch busy => exact dramRefresh_kept l ch busy s
  | dramTempPoll l ch mr4 above beyond => exact dramTempPoll_kept l ch mr4 above beyond s
  | dramWriteDrain l ch reqs issues => exact dramWriteDrain_kept l ch reqs issues s
  | dramThrottle l ch bank row master unit => exact dramThrottle_kept l ch bank row master unit s
  | dramEcc l master unit ch addr users => exact dramEcc_kept l master unit ch addr users s
  | threadReady l t prio only cancelled as => exact threadReady_kept l t prio only cancelled as s
  | timesliceExpire l core => exact timesliceExpire_kept l core s
  | delayTick l as => exact delayTick_kept l as s
  | eventPost l q word hw as => exact eventPost_kept l q word hw as s
  | schedQueueFull l q => exact schedQueueFull_kept l q s
  | busMasterEnable f => exact busMasterEnable_kept f s
  | pcieLinkDown => exact pcieLinkDown_kept s
  | copingRailFault => exact copingRailFault_kept s
  | copingResetRelease => exact copingResetRelease_kept s
  | copingFoldBack hot => exact copingFoldBack_kept hot s
  | ptpAnnounceRx l tb m => exact ptpAnnounceRx_kept l tb m s
  | ptpDelayRespRx l tb path => exact ptpDelayRespRx_kept l tb path s
  | ptpMessageInterval l tb => exact ptpMessageInterval_kept l tb s
  | wclkReturn l tb => exact wclkReturn_kept l tb s
  | pauseQuantaExpire l port => exact pauseQuantaExpire_kept l port s
  | checkpointReceived l => exact checkpointReceived_kept l s
  | dramActivateWindowEnd l ch => exact dramActivateWindowEnd_kept l ch s
  | eccOperandRewrite l bank row slot hard => exact eccOperandRewrite_kept l bank row slot hard s
  | testComplete l res => exact testComplete_kept l res s
  | fwSlotVerified l => exact fwSlotVerified_kept l s
  | sfpModabsHigh l port => exact sfpModabsHigh_kept l port s

end Sys2Proof.Machine

section
open Sys2Proof Sys2Proof.Machine

/-- Settles O6: no command disturbs the queue's rest, the variant, what has been sent and the count of free
values (`exec_kept`), and a step takes the front command off the queue before it carries it out. -/
theorem stepTakesOneCommand : Obligations.StepTakesOneCommand := by
  unfold Obligations.StepTakesOneCommand
  intro s t h
  cases hq : s.pending with
  | nil =>
    have e : s = t := by
      have e : step s = .next s := by simp only [step, hq]
      rw [e] at h
      exact Host.Outcome.next.inj h
    subst e
    exact ⟨hq, rfl, ⟨[], (List.append_nil _).symm⟩, Nat.le_refl _⟩
  | cons c rest =>
    obtain ⟨u, hu, k⟩ := exec_kept c { s with pending := rest }
    have e : step s = .next u := by simp only [step, hq]; exact hu
    rw [e] at h
    cases h
    exact ⟨k.pending, k.variant, k.sent, k.count⟩

/-- Settles O7: by the case split over the commands (`exec_kept`); a write to BAR0 that is no aligned run of
words takes the last branch of `execRegisterWrite`. -/
theorem nothingStops : Obligations.NothingStops := by
  unfold Obligations.NothingStops
  refine ⟨fun i s => (exec_kept i s).imp fun _ h => h.1, fun f off bytes s h => ?_⟩
  show execRegisterWrite f false off bytes s = .next s
  simp [execRegisterWrite, h]
end
end

section
/-! SUPPORT. The rows of the mailboxes, and what turns a command away. -/

namespace Sys2Proof.Machine

/-- What a row of the mailboxes means: its command, issued by its chapter. -/
def RowIssues (r : Spec × (Cmd → Instr)) : Prop := ∀ c s, exec (r.2 c) s = .next (issue r.1 drainDue c s)

theorem mailRows0_issue : ∀ r ∈ mailRows0, RowIssues r := by
  unfold mailRows0
  repeat refine List.forall_mem_cons.2 ⟨fun _ _ => rfl, ?_⟩
  exact List.forall_mem_nil _

theorem mailRows1_issue : ∀ r ∈ mailRows1, RowIssues r := by
  unfold mailRows1
  repeat refine List.forall_mem_cons.2 ⟨fun _ _ => rfl, ?_⟩
  exact List.forall_mem_nil _

theorem mailRows2_issue : ∀ r ∈ mailRows2, RowIssues r := by
  unfold mailRows2
  repeat refine List.forall_mem_cons.2 ⟨fun _ _ => rfl, ?_⟩
  exact List.forall_mem_nil _

theorem mailRows3_issue : ∀ r ∈ mailRows3, RowIssues r := by
  unfold mailRows3
  repeat refine List.forall_mem_cons.2 ⟨fun _ _ => rfl, ?_⟩
  exact List.forall_mem_nil _

/-- Every row of the mailboxes issues its command by its chapter. -/
theorem mailRows_issue : ∀ r ∈ mailRows, RowIssues r := by
  intro r h
  simp only [mailRows, List.mem_append] at h
  obtain ((h | h) | h) | h := h
  · exact mailRows0_issue r h
  · exact mailRows1_issue r h
  · exact mailRows2_issue r h
  · exact mailRows3_issue r h

/-- What a host write error leaves of a function, or records in it (R42). -/
def Fn.slots (x : Fn) : BitVec 32 × BitVec 4 × Nat × List Host.Cell := (x.busy, x.dbErr, x.lastSlot, x.mail.win)

theorem State.slots_signal (s : State) (f : FnId) (v : Nat) : ((s.signal f v).fn f).slots = (s.fn f).slots := by
  unfold State.signal
  dsimp only
  split
  · rw [State.fn_send]
  · rw [State.fn_modMail_same]; rfl

theorem State.slots_raise (s : State) (f : FnId) (cause : Nat) : ((s.raise f cause).fn f).slots = (s.fn f).slots := by
  unfold State.raise
  dsimp only
  split
  · rw [State.fn_setFn_same]; rfl
  · rw [State.slots_signal, State.fn_setFn_same]; rfl

theorem State.slots_dbErrorSlot (s : State) (f : FnId) (i slot : Nat) : ((s.dbErrorSlot f i slot).fn f).slots =
    ((s.fn f).busy, (s.fn f).dbErr ||| BitVec.ofNat 4 (2 ^ i), slot % 32, (s.fn f).mail.win) := by
  unfold State.dbErrorSlot State.dbError
  rw [State.slots_raise, State.fn_modFn_same, State.fn_modFn_same]
  rfl

/-- A write into a busy slot and its doorbell (R42). -/
theorem State.slots_busySlot (s : State) (f : FnId) (slot : Nat) :
    (((s.dbErrorSlot f 1 slot).dbErrorSlot f 0 slot).fn f).slots =
      ((s.fn f).busy, (s.fn f).dbErr ||| 3, slot % 32, (s.fn f).mail.win) := by
  have h := State.slots_dbErrorSlot s f 1 slot
  simp only [Fn.slots, Prod.mk.injEq] at h
  obtain ⟨hbusy, herr, -, hwin⟩ := h
  rw [State.slots_dbErrorSlot, hbusy, herr, hwin, BitVec.or_assoc]
  rfl

/-- The state with a command in its slot, journalled and traced, before its validation (R49, R422, R480). -/
def State.enters (s : State) (sp : Spec) (c : Cmd) : State :=
  ((s.books sp c).journal (taken sp s c)).traceCmd c.fn (taken sp s c).target 14 (taken sp s c).tag

theorem State.enters_alike (s : State) (sp : Spec) (c : Cmd) : s.Alike (s.enters sp c) :=
  State.traceCmd_alike _ _ _ _ (State.journal_alike _ (s.books_alike sp c))

theorem State.fn_enters (s : State) (sp : Spec) (c : Cmd) : (s.enters sp c).fn c.fn = (s.books sp c).fn c.fn := by
  simp [State.enters]

section
variable {s : State} {sp : Spec} {c : Cmd} (drain : Cmd → State → State)

theorem issue_unreachable (h : s.reachable c.fn = false) : issue sp drain c s = s := by
  unfold issue
  exact if_pos (by simp [h])

theorem issue_roView (hr : s.reachable c.fn = true) (h : s.roView c.fn = true) :
    issue sp drain c s = s.dbError c.fn 2 := by
  unfold issue
  dsimp only
  rw [if_neg (by simp [hr]), if_pos h]

theorem issue_busySlot (hr : s.reachable c.fn = true) (hv : s.roView c.fn = false)
    (h : bit (s.fn c.fn).busy.toNat (c.slot % 32) = true) :
    issue sp drain c s = (s.dbErrorSlot c.fn 1 (c.slot % 32)).dbErrorSlot c.fn 0 (c.slot % 32) := by
  unfold issue
  dsimp only
  rw [if_neg (by simp [hr]), if_neg (by simp [hv]), if_pos h]

/-- A command whose slot is free is accepted with its bytes in the slot (R48, R49): it completes at once on an
unserved function, and a takeover, a fence or an earlier command holds it back (R38, R39, R54). -/
theorem issue_freeSlot (hr : s.reachable c.fn = true) (hv : s.roView c.fn = false)
    (h : bit (s.fn c.fn).busy.toNat (c.slot % 32) = false) :
    issue sp drain c s =
      if s.unserved c.fn = true then (s.books sp c).final (taken sp s c) false sNotActive 0 0
      else if (!s.takingOver c.fn && (s.fn c.fn).mail.fence.isNone && (s.fn c.fn).mail.accepted.isEmpty) = true then
        validate (some sp) drain (taken sp s c) (s.enters sp c)
      else (s.enters sp c).modMail c.fn fun m => { m with accepted := m.accepted ++ [taken sp s c] } := by
  have hb := s.books_alike sp c
  have hunserved := hb.unserved c.fn hb.takeover
  have hover := (s.enters_alike sp c).takingOver c.fn
  have hfence : ((s.enters sp c).fn c.fn).mail.fence = (s.fn c.fn).mail.fence := by rw [State.fn_enters, State.fn_books]
  have hfirst : ((s.enters sp c).fn c.fn).mail.accepted = (s.fn c.fn).mail.accepted := by rw [State.fn_enters, State.fn_books]
  have accepts : issue sp drain c s =
        if (s.books sp c).unserved c.fn = true then (s.books sp c).final (taken sp s c) false sNotActive 0 0
        else if (true && !(s.enters sp c).takingOver c.fn && ((s.enters sp c).fn c.fn).mail.fence.isNone &&
            ((s.enters sp c).fn c.fn).mail.accepted.isEmpty) = true then
          validate (some sp) drain (taken sp s c) (s.enters sp c)
        else (s.enters sp c).modMail c.fn fun m => { m with accepted := m.accepted ++ [taken sp s c] } := by
    unfold issue
    dsimp only
    rw [if_neg (by simp [hr]), if_neg (by simp [hv]), if_neg (by simp [h])]
    rfl
  rw [accepts, hunserved, hover, hfence, hfirst, Bool.true_and]

/-- A command that something holds back waits behind the accepted ones (R39, R54). -/
theorem issue_heldBack (hr : s.reachable c.fn = true) (hv : s.roView c.fn = false)
    (h : bit (s.fn c.fn).busy.toNat (c.slot % 32) = false) (hs : s.unserved c.fn = false)
    (held : s.takingOver c.fn = true ∨ (s.fn c.fn).mail.fence ≠ none ∨ (s.fn c.fn).mail.accepted ≠ []) :
    issue sp drain c s = (s.enters sp c).modMail c.fn fun m => { m with accepted := m.accepted ++ [taken sp s c] } := by
  rw [issue_freeSlot drain hr hv h, if_neg (by simp [hs]), if_neg]
  rcases held with hover | hfence | hfirst
  · simp [hover]
  · simp [hfence]
  · simp [hfirst]

end

/-- Bit `i` of a word with bit `i` set. -/
theorem bit_or_twoPow (x : BitVec 32) {i : Nat} (h : i < 32) : bit (x ||| BitVec.ofNat 32 (2 ^ i)).toNat i = true := by
  have hi : (x ||| BitVec.ofNat 32 (2 ^ i)).toNat.testBit i = true := by
    have hlt : 2 ^ i < 2 ^ 32 := Nat.pow_lt_pow_right (by decide) h
    rw [BitVec.toNat_or, Nat.testBit_or, BitVec.toNat_ofNat, Nat.mod_eq_of_lt hlt, Nat.testBit_two_pow_self, Bool.or_true]
  rw [Nat.testBit_eq_decide_div_mod_eq] at hi
  simpa [bit] using hi

end Sys2Proof.Machine

section
open Sys2Proof Sys2Proof.Machine

/-- Settles O9, for every row at once: each is its command issued by its chapter (`mailRows_issue`), and `issue`
takes one branch for each reason (R31, R37 to R39, R42, R49, R52, R54, R82). -/
theorem mailboxRowsRefuse : Obligations.MailboxRowsRefuse := by
  unfold Obligations.MailboxRowsRefuse
  intro r hrow s c
  have hx := mailRows_issue r hrow c s
  refine ⟨fun h => ?_, fun hr h => ?_, fun hr hv h => ?_, fun hr hv h hu => ?_, fun h => ?_, fun hr hv h hs held => ?_⟩
  · rw [hx, issue_unreachable drainDue h]
  · rw [hx, issue_roView drainDue hr h]
  · refine ⟨_, hx, ?_⟩
    have hslots := State.slots_busySlot s c.fn (c.slot % 32)
    simp only [Fn.slots, Prod.mk.injEq, Nat.mod_mod] at hslots
    obtain ⟨hbusy, herr, hlast, hwin⟩ := hslots
    rw [issue_busySlot drainDue hr hv h]
    exact ⟨herr, hlast, hbusy, hwin⟩
  · rw [hx, issue_freeSlot drainDue hr hv h, if_pos hu]
  · have hi := issue_clear drainDue h
    dsimp only at hi ⊢
    refine ⟨fun hq => ?_, fun hq hp => ?_, fun hq hp hrefs hchan => ?_⟩
    · rw [hx, hi, if_pos hq]
    · rw [hx, hi, if_neg (by simp [hq]), if_pos hp]
    · have hmail : ((s.takes r.1 c).fn c.fn).mail.bme = (s.fn c.fn).mail.bme ∧
          ((s.takes r.1 c).fn c.fn).mail.halted = (s.fn c.fn).mail.halted := by rw [State.fn_takes, State.fn_books]; exact ⟨rfl, rfl⟩
      rw [hx, hi, if_neg (by simp [hq]), if_neg (by simp [hp]), if_pos]
      exact ⟨by simpa using hrefs, by rw [hmail.1, hmail.2]; exact hchan⟩
  · refine ⟨_, hx, ?_⟩
    dsimp only
    rw [issue_heldBack drainDue hr hv h hs held, State.fn_modMail_same, State.fn_enters, State.fn_books]
    exact ⟨rfl, bit_or_twoPow _ (Nat.mod_lt _ (by decide)), rfl⟩
end
end

section
/-! SUPPORT. What taking back a command, an event and a completion leave of the functions and the leaves. -/

namespace Sys2Proof.Machine

/-! Taking back a command touches no function (R63). -/

/-- Two states have the same functions. -/
def State.SameFns (z s : State) : Prop := ∀ g, s.fn g = z.fn g

theorem State.SameFns.refl (s : State) : s.SameFns s := fun _ => rfl

theorem State.SameFns.modLeaf {z s : State} (h : z.SameFns s) (l : LeafId) (f : Leaf → Leaf) : z.SameFns (s.modLeaf l f) :=
  fun g => (State.fn_modLeaf s l f g).trans (h g)

theorem State.SameFns.send {z s : State} (h : z.SameFns s) (o : Output) : z.SameFns (s.send o) :=
  fun g => (State.fn_send s o g).trans (h g)

theorem State.SameFns.red {z s : State} (h : z.SameFns s) (r : Red) : z.SameFns { s with red := r } :=
  fun g => (by cases g <;> rfl : ({ s with red := r } : State).fn g = s.fn g).trans (h g)

theorem State.SameFns.ite {z a b : State} (p : Prop) [Decidable p] (ha : z.SameFns a) (hb : z.SameFns b) :
    z.SameFns (if p then a else b) := by split <;> assumption

theorem State.SameFns.foldl {α : Type} {z s : State} (h : z.SameFns s) (l : List α) (f : State → α → State)
    (hf : ∀ t a, z.SameFns t → z.SameFns (f t a)) : z.SameFns (l.foldl f s) := by
  induction l generalizing s with
  | nil => exact h
  | cons a r ih => exact ih (hf s a h)

theorem State.SameFns.asGuest {z s : State} (h : z.SameFns s) (l : LeafId) (g : State → State)
    (hg : ∀ t, z.SameFns t → z.SameFns (g t)) : z.SameFns (s.asGuest l g) := by
  unfold State.asGuest
  split
  · exact h
  · exact State.SameFns.modLeaf (State.SameFns.red (hg _ (State.SameFns.modLeaf (State.SameFns.red h _) l _)) _) l _

theorem State.SameFns.portSend {z s : State} (h : z.SameFns s) (l : LeafId) (p queue : Nat) (frame : List Byte) (stream : Nat) :
    z.SameFns (s.portSend l p queue frame stream) :=
  .ite _ (.ite _ (h.modLeaf l _) h) (.ite _ (h.modLeaf l _) (h.send _))

theorem State.SameFns.setJoined {z s : State} (h : z.SameFns s) (l : LeafId) (i p : Nat) (gs : List Nat) :
    z.SameFns (s.setJoined l i p gs) :=
  State.SameFns.foldl (State.SameFns.foldl (h.modLeaf l _) _ _ fun _ _ k => k.portSend l p 4 _ 0) _ _
    fun _ _ k => k.portSend l p 4 _ 0

theorem settleRx_sameFns (c : Cmd) (s : State) : s.SameFns (settleRx c s) := by
  have settle : ∀ (t : State) (l : LeafId), s.SameFns t → s.SameFns (t.settleGroups l (u8 c.body 0)) := fun _ l h =>
    State.SameFns.foldl h _ _ fun _ p k => State.SameFns.setJoined k l _ p _
  exact (State.SameFns.refl s).foldl _ _ fun _ p h => .ite _ (h.asGuest p.1 _ fun t k => settle t p.1 k) (settle _ p.1 h)

/-- A change on the leaves that serve a function touches no function. -/
theorem onLeafList_sameFns (ls : List (LeafId × Bool)) (f : LeafId × Bool → Leaf → Leaf) (s : State) :
    s.SameFns (ls.foldl (fun s p => s.modLeaf p.1 (f p)) s) :=
  (State.SameFns.refl s).foldl _ _ fun _ p h => h.modLeaf p.1 _

/-- Taking back what a command had staged touches no function. -/
def Spec.UndoesLeaves (sp : Spec) : Prop := ∀ (c : Cmd) (s : State), s.SameFns (sp.undo c s)

theorem specSysBootLoad_undoesLeaves : specSysBootLoad.UndoesLeaves := by
  intro c s
  exact State.SameFns.modLeaf (.refl s) (targetLeaf c) _

theorem specSysFwUpdate_undoesLeaves : specSysFwUpdate.UndoesLeaves := by
  intro c s
  exact State.SameFns.modLeaf (.refl s) (targetLeaf c) _

theorem specs0_undo : ∀ sp ∈ specs0, sp.UndoesLeaves := by
  unfold specs0
  repeat' first
    | exact List.forall_mem_nil _
    | refine List.forall_mem_cons.2 ⟨?_, ?_⟩
    | exact fun _ s => State.SameFns.refl s
    | exact fun _ s => onLeafList_sameFns _ _ s
    | exact specSysBootLoad_undoesLeaves
    | exact specSysFwUpdate_undoesLeaves

theorem specs1_undo : ∀ sp ∈ specs1, sp.UndoesLeaves := by
  unfold specs1
  repeat' first
    | exact List.forall_mem_nil _
    | refine List.forall_mem_cons.2 ⟨?_, ?_⟩
    | exact fun _ s => State.SameFns.refl s
    | exact fun _ s => onLeafList_sameFns _ _ s

theorem specs2_undo : ∀ sp ∈ specs2, sp.UndoesLeaves := by
  unfold specs2
  repeat' first
    | exact List.forall_mem_nil _
    | refine List.forall_mem_cons.2 ⟨?_, ?_⟩
    | exact fun _ s => State.SameFns.refl s
    | exact fun _ s => onLeafList_sameFns _ _ s
    | exact settleRx_sameFns

theorem specs3_undo : ∀ sp ∈ specs3, sp.UndoesLeaves := by
  unfold specs3
  repeat' first
    | exact List.forall_mem_nil _
    | refine List.forall_mem_cons.2 ⟨?_, ?_⟩
    | exact fun _ s => State.SameFns.refl s

theorem undoCmd_sameFns (c : Cmd) (s : State) : s.SameFns (undoCmd c s) := by
  unfold undoCmd
  split
  · exact .refl s
  · next sp hsp =>
    have hmem := List.mem_of_find?_eq_some hsp
    simp only [specTable, List.mem_append] at hmem
    obtain ((h | h) | h) | h := hmem
    · exact specs0_undo sp h c s
    · exact specs1_undo sp h c s
    · exact specs2_undo sp h c s
    · exact specs3_undo sp h c s

/-! Events and interrupts. -/

/-- The record of a function without what events and interrupts write: its event ring, its causes, and what is
held for moderation or behind a mask (R44, R67, R68). -/
def Fn.commands (x : Fn) : Fn :=
  { x with
    eqProd := 0, eqLost := 0, intStatus := 0,
    mail := { x.mail with
      eq := [], seqE := 0, lostSince := 0, lostFirst := 0, lostDue := false, unsignalled := 0, modRun := false,
      modCq := false, modEq := false, pba := 0 } }

/-- Two states differ at most in what events and interrupts write of their functions, and in what has been sent. -/
structure State.Notes (z s : State) : Prop where
  fn : ∀ g, (s.fn g).commands = (z.fn g).commands
  leaf : ∀ l, s.leaf l = z.leaf l

theorem State.Notes.refl (s : State) : s.Notes s := ⟨fun _ => rfl, fun _ => rfl⟩

theorem State.Notes.setFn {z s : State} (h : z.Notes s) (f : FnId) (x : Fn) (hx : x.commands = (s.fn f).commands) :
    z.Notes (s.setFn f x) := by
  refine ⟨fun g => ?_, fun l => by rw [State.leaf_setFn]; exact h.leaf l⟩
  by_cases e : g = f
  · subst e; rw [State.fn_setFn_same, hx]; exact h.fn g
  · rw [State.fn_setFn_ne _ _ _ _ e]; exact h.fn g

theorem State.Notes.modFn {z s : State} (h : z.Notes s) (f : FnId) (g : Fn → Fn)
    (hg : ∀ x, (g x).commands = x.commands) : z.Notes (s.modFn f g) := h.setFn f _ (hg _)

theorem State.Notes.modMail {z s : State} (h : z.Notes s) (f : FnId) (g : Mail → Mail)
    (hg : ∀ x : Fn, ({ x with mail := g x.mail } : Fn).commands = x.commands) : z.Notes (s.modMail f g) := h.modFn f _ hg

theorem State.Notes.ite {z a b : State} (p : Prop) [Decidable p] (ha : z.Notes a) (hb : z.Notes b) :
    z.Notes (if p then a else b) := by split <;> assumption

theorem State.Notes.signal {z s : State} (h : z.Notes s) (f : FnId) (v : Nat) : z.Notes (s.signal f v) :=
  .ite _ ⟨fun g => by rw [State.fn_send]; exact h.fn g, fun l => by rw [State.leaf_send]; exact h.leaf l⟩
    (h.modMail f _ fun _ => rfl)

theorem State.Notes.raise {z s : State} (h : z.Notes s) (f : FnId) (cause : Nat) : z.Notes (s.raise f cause) :=
  have set := h.setFn f ((s.fn f).setCause cause) rfl
  .ite _ set (set.signal f _)

theorem State.Notes.signalIf {z s : State} (h : z.Notes s) (p : Prop) [Decidable p] (f : FnId) (v : Nat) :
    z.Notes (if p then s.signal f v else s) := .ite p (h.signal f v) h

theorem State.Notes.raiseRecord {z s : State} (h : z.Notes s) (f : FnId) (cause : Nat) : z.Notes (s.raiseRecord f cause) := by
  have set := h.setFn f ((s.fn f).setCause cause) rfl
  refine .ite _ set (.ite _ (set.signal f _) (.ite _ ?_ (set.modMail f _ fun _ => rfl)))
  exact State.Notes.signalIf (State.Notes.signalIf (set.modMail f _ fun _ => rfl) _ f _) _ f _

theorem State.Notes.putEvent {z s : State} (h : z.Notes s) (f : FnId) (e : Event) : z.Notes (s.putEvent f e) := by
  have put := fun g hg => State.Notes.raiseRecord (h.modFn f g hg) f 1
  refine .ite _ (State.Notes.raise (put _ ?_) f 2) (put _ ?_) <;> exact fun _ => rfl

theorem State.Notes.dropEvent {z s : State} (h : z.Notes s) (f : FnId) : z.Notes (s.dropEvent f) := by
  refine State.Notes.raise (h.modFn f _ ?_) f 3
  exact fun _ => rfl

theorem State.Notes.reportLost {z s : State} (h : z.Notes s) (f : FnId) : z.Notes (s.reportLost f) :=
  .ite _ (State.Notes.putEvent (h.modMail f _ fun _ => rfl) f _) h

theorem State.Notes.event {z s : State} (h : z.Notes s) (f : FnId) (e : Event) : z.Notes (s.event f e) :=
  .ite _ h (.ite _ ((h.reportLost f).putEvent f e) ((h.reportLost f).dropEvent f))

theorem State.Notes.notifyFn {z s : State} (h : z.Notes s) (f : FnId) (old tag : Nat) : z.Notes (s.notifyFn f old tag) :=
  .ite _ h (.ite _ ((h.raise f 6).event f _) (((h.raise f 6).event f _).event .f2 _))

theorem State.Notes.notify {z s : State} (h : z.Notes s) (old : State) (tag : Nat) : z.Notes (s.notify old tag) := by
  unfold State.notify
  simp only [List.foldl_cons, List.foldl_nil]
  exact ((h.notifyFn .f0 _ tag).notifyFn .f1 _ tag).notifyFn .f2 _ tag

/-! Completions. -/

/-- What posting a completion leaves of a function: that `SYS_CAPS` has been read, the commands that wait for
their sample, and the bulk channel (R3, R55, R79). -/
def Fn.standing (x : Fn) : Bool × List Pend × List DmaJob := (x.capsDone, x.mail.queued, x.mail.dma)

theorem Fn.standing_of_commands {x y : Fn} (h : x.commands = y.commands) : x.standing = y.standing := by
  have q := congrArg Fn.standing h
  exact q

/-- What posting a completion leaves of a state: what stands in its functions, and the trace masks. -/
structure State.Stands (z s : State) : Prop where
  fn : ∀ g, (s.fn g).standing = (z.fn g).standing
  mask : ∀ l, (s.leaf l).sched.mask = (z.leaf l).sched.mask

theorem State.Stands.refl (s : State) : s.Stands s := ⟨fun _ => rfl, fun _ => rfl⟩

theorem State.Stands.trans {a b c : State} (h : a.Stands b) (k : b.Stands c) : a.Stands c :=
  ⟨fun g => (k.fn g).trans (h.fn g), fun l => (k.mask l).trans (h.mask l)⟩

theorem State.Notes.stands {z s : State} (h : z.Notes s) : z.Stands s :=
  ⟨fun g => Fn.standing_of_commands (h.fn g), fun l => by rw [h.leaf]⟩

theorem State.Stands.modFn {z s : State} (h : z.Stands s) (f : FnId) (g : Fn → Fn)
    (hg : ∀ x, (g x).standing = x.standing) : z.Stands (s.modFn f g) := by
  refine ⟨fun k => ?_, fun l => by rw [State.leaf_modFn]; exact h.mask l⟩
  by_cases e : k = f
  · subst e; rw [State.fn_modFn_same, hg]; exact h.fn k
  · rw [State.fn_modFn_ne _ _ _ _ e]; exact h.fn k

theorem State.Stands.modMail {z s : State} (h : z.Stands s) (f : FnId) (g : Mail → Mail)
    (hg : ∀ x : Fn, ({ x with mail := g x.mail } : Fn).standing = x.standing) : z.Stands (s.modMail f g) := h.modFn f _ hg

theorem State.Stands.ite {z a b : State} (p : Prop) [Decidable p] (ha : z.Stands a) (hb : z.Stands b) :
    z.Stands (if p then a else b) := by split <;> assumption

theorem State.Stands.foldl {α : Type} {z s : State} (h : z.Stands s) (l : List α) (f : State → α → State)
    (hf : ∀ t a, z.Stands t → z.Stands (f t a)) : z.Stands (l.foldl f s) := by
  induction l generalizing s with
  | nil => exact h
  | cons a r ih => exact ih (hf s a h)

theorem Leaf.mask_trace (x : Leaf) (r : Trace) : (x.trace r).sched.mask = x.sched.mask := by
  unfold Leaf.trace
  split <;> rfl

theorem State.Stands.modLeaf {z s : State} (h : z.Stands s) (l : LeafId) (g : Leaf → Leaf)
    (hg : ∀ x, (g x).sched.mask = x.sched.mask) : z.Stands (s.modLeaf l g) := by
  refine ⟨fun k => by rw [State.fn_modLeaf]; exact h.fn k, fun k => Eq.trans ?_ (h.mask k)⟩
  cases k <;> cases l <;> first | rfl | exact hg _

theorem State.Stands.traceCmd {z s : State} (h : z.Stands s) (f : FnId) (target kind tag : Nat) :
    z.Stands (s.traceCmd f target kind tag) := by
  unfold State.traceCmd
  dsimp only
  split
  · exact h
  · exact h.modLeaf _ _ fun _ => Leaf.mask_trace _ _

theorem State.Stands.putCompletion {z s : State} (h : z.Stands s) (f : FnId) (w : Waiting) : z.Stands (s.putCompletion f w) := by
  have slot : z.Stands (if w.release then
      (s.modMail f fun m => { m with win := mwrite winDefault m.win (w.record.slot * 512 + 32) w.resp }).freeSlot f w.record.slot
    else s) := .ite _ ((h.modMail f _ fun _ => rfl).modFn f _ fun _ => rfl) h
  have record := fun x hx => State.Stands.modFn slot f x hx
  refine State.Stands.trans (State.Stands.traceCmd ?_ f w.unit 16 w.record.tag) ((State.Notes.refl _).raiseRecord f 0).stands
  refine .ite _ (State.Stands.modMail (record _ ?_) f _ ?_) (record _ ?_) <;> exact fun _ => rfl

theorem State.Stands.post {z s : State} (h : z.Stands s) (f : FnId) (w : Waiting) : z.Stands (s.post f w) :=
  .ite _ (h.putCompletion f w) (h.modMail f _ fun _ => rfl)

theorem State.Stands.final {z s : State} (h : z.Stands s) (c : Cmd) (released : Bool) (status detail at_ : Nat) (resp : List Byte) :
    z.Stands (s.final c released status detail at_ resp) :=
  .ite _ h (State.Stands.post (.ite _ (h.modMail c.fn _ fun _ => rfl) h) c.fn _)

/-- The window of a function after a completion record that finds a free entry (R50, R65). -/
theorem State.win_putCompletion (s : State) (f : FnId) (w : Waiting) (h : w.release = true) :
    ((s.putCompletion f w).fn f).mail.win = mwrite winDefault (s.fn f).mail.win (w.record.slot * 512 + 32) w.resp := by
  have signalled : ∀ t : State, ((t.raiseRecord f 0).fn f).mail.win = (t.fn f).mail.win := fun t => by
    have q := congrArg (fun x : Fn => x.mail.win) (((State.Notes.refl t).raiseRecord f 0).fn f)
    exact q
  unfold State.putCompletion
  dsimp only
  rw [signalled, State.fn_traceCmd, if_pos h]
  split <;> simp [State.freeSlot]

/-- A final completion that nothing holds back writes its response into the slot (R50, R64). -/
theorem State.win_final (s : State) (c : Cmd) (status detail at_ : Nat) (resp : List Byte)
    (hfloor : (s.fn c.fn).mail.floor < c.acc) (hlate : c.acc ∉ (s.fn c.fn).mail.late)
    (hwaiting : (s.fn c.fn).mail.waiting = []) (hroom : 0 < (s.fn c.fn).cqFree) :
    ((s.final c false status detail at_ resp).fn c.fn).mail.win =
      mwrite winDefault (s.fn c.fn).mail.win (c.slot * 512 + 32) resp := by
  unfold State.final
  dsimp only
  rw [if_neg (by omega), if_neg (by simpa using hlate)]
  unfold State.post
  rw [if_pos (by simp [hwaiting, hroom]), State.win_putCompletion _ _ _ rfl]
  simp

end Sys2Proof.Machine
end

section
/-! SUPPORT. What a ready mailbox command comes to: its chapter's effect, and the answer in its slot. -/

namespace Sys2Proof.Machine

/-! Nothing due waits in front of a command. -/

theorem firstDue_of_later (next : Nat) (bound : Option Nat) (m : Mail) (h : ∀ p ∈ m.queued, next < p.count) :
    firstDue next bound m = none := by
  unfold firstDue
  dsimp only
  generalize m.queued = q at h
  induction q with
  | nil => rfl
  | cons p r ih =>
    have hp : p.due next = false := by
      have := h p List.mem_cons_self
      simp only [Pend.due, decide_eq_false_iff_not]
      omega
    rw [List.foldl_cons, if_pos (by simp [hp])]
    exact ih fun q hq => h q (List.mem_cons_of_mem _ hq)

/-- A queue whose commands all wait for a later sample than the coming one stays as it is (R53, R55). -/
theorem drainDue_of_later (c : Cmd) (s : State) (h : ∀ p ∈ (s.fn c.fn).mail.queued, (s.fnDom c.fn).nextCount < p.count) :
    drainDue c s = s := by
  have first : applyFirst (some c.acc) c.fn s = s := by
    unfold applyFirst
    split
    · rfl
    · rw [firstDue_of_later _ _ _ h]
  unfold drainDue
  induction List.range (s.fn c.fn).mail.queued.length with
  | nil => rfl
  | cons a r ih => rw [List.foldl_cons, first, ih]

theorem drainDue_of_empty (c : Cmd) (s : State) (h : (s.fn c.fn).mail.queued = []) : drainDue c s = s :=
  drainDue_of_later c s (by simp [h])

/-! The state that a command meets. -/

theorem State.Alike.servers {s t : State} (h : s.Alike t) (f : FnId) : t.servers f = s.servers f := by
  have hlost : ∀ l, (t.red.of l).lost = (s.red.of l).lost := fun l => by
    cases l
    · have q := congrArg (fun r : Red => r.a.lost) h.red; exact q
    · have q := congrArg (fun r : Red => r.b.lost) h.red; exact q
  simp only [State.servers, h.server, h.mode, h.serving, hlost]

theorem State.Alike.claim {s t : State} (h : s.Alike t) (l : LeafId) : (t.red.of l).claim = (s.red.of l).claim := by
  cases l
  · have q := congrArg (fun r : Red => r.a.claim) h.red; exact q
  · have q := congrArg (fun r : Red => r.b.claim) h.red; exact q

theorem State.Alike.testLeaf {s t : State} (h : s.Alike t) (c k : Cmd) (hf : k.fn = c.fn) (ht : k.target = c.target) :
    t.testLeaf k = s.testLeaf c := by
  simp only [State.testLeaf, targetLeaf, hf, ht, h.server]

theorem State.Alike.scene {s t : State} (h : s.Alike t) (l : LeafId) : (t.leaf l).scene = (s.leaf l).scene := by
  have q := congrArg Leaf.scene (h.leaf l); exact q

theorem State.Alike.clk {s t : State} (h : s.Alike t) (l : LeafId) : (t.leaf l).clk = (s.leaf l).clk := by
  have q := congrArg Leaf.clk (h.leaf l); exact q

theorem State.Alike.boot {s t : State} (h : s.Alike t) (l : LeafId) : (t.leaf l).boot = (s.leaf l).boot := by
  have q := congrArg Leaf.boot (h.leaf l); exact q

theorem State.Alike.ecc {s t : State} (h : s.Alike t) (l : LeafId) : (t.leaf l).ecc = (s.leaf l).ecc := by
  have q := congrArg Leaf.ecc (h.leaf l); exact q

theorem State.Alike.run {s t : State} (h : s.Alike t) (l : LeafId) : (t.leaf l).run = (s.leaf l).run := by
  have q := congrArg Leaf.run (h.leaf l); exact q

theorem State.Alike.fnDom {s t : State} (h : s.Alike t) (f : FnId) : t.fnDom f = s.fnDom f := by
  unfold State.fnDom
  rw [h.server]
  split
  · rfl
  · rw [h.clk]

section
variable {s : State} {sp : Spec} {c : Cmd}

/-- The mail of the function that a command meets: as it was but for the window and the acceptance number. -/
theorem State.mail_takes (s : State) (sp : Spec) (c : Cmd) : ((s.takes sp c).fn c.fn).mail =
    { (s.fn c.fn).mail with
      win := mwrite winDefault (s.fn c.fn).mail.win ((taken sp s c).slot * 512) (cmdBytes (taken sp s c)),
      accNo := (taken sp s c).acc } := by
  rw [State.fn_takes, State.fn_books]

theorem State.fnDom_takes (s : State) (sp : Spec) (c : Cmd) (f : FnId) : (s.takes sp c).fnDom f = s.fnDom f :=
  (s.takes_alike sp c).fnDom f

/-- A ready command of a chapter that stages nothing and transfers nothing has its effect at once. -/
theorem State.Ready.issues (h : s.Ready sp c) (hstage : ∀ k t, sp.stage k t = t) (hrefs : ∀ k, sp.refs k = []) :
    issue sp drainDue c s = finish sp (taken sp s c) false false
      (if c.fn = .f2 then 0 else (s.takes sp c).appliedAt c.fn) (s.effect sp c) := by
  have hqueue : ((s.takes sp c).fn c.fn).mail.queued = [] := by rw [State.mail_takes]; exact h.queue
  rw [issue_ready drainDue h (hrefs _) (by rw [hstage]; exact drainDue_of_empty _ _ hqueue) (by rw [hstage])]
  simp only [applyNow, State.effect, hstage]
  rfl

theorem finish_completes (k : Cmd) (at_ : Nat) (e : Eff) (hmode : e.mode = 0) (hout : e.out = none) :
    finish sp k false false at_ e = e.s.final k false e.status e.detail
      (if noEffect e.status then 0 else e.applied.getD at_) e.resp := by
  simp [finish, hmode, hout]

theorem finish_inProgress (k : Cmd) (at_ : Nat) (e : Eff) (hmode : e.mode = 2) : finish sp k false false at_ e = e.s := by
  simp [finish, hmode, State.markLate]

/-- The response that a completion leaves in the slot of a ready command, where the effect has changed nothing of
its mailbox but that `SYS_CAPS` has been read (R50, R65). -/
theorem State.Open.reply (ho : s.Open c.fn) {u : State} {caps : Bool}
    (hu : (u.fn c.fn).commands = ({ (s.takes sp c).fn c.fn with capsDone := caps } : Fn).commands)
    (status detail at_ : Nat) (resp : List Byte) :
    (u.final (taken sp s c) false status detail at_ resp).reply c resp.length = resp := by
  have hmail : ∀ {β : Type} (g : Mail → β), (∀ x : Fn, g x.commands.mail = g x.mail) →
      g (u.fn c.fn).mail = g ((s.takes sp c).fn c.fn).mail := fun g hg => by
    have q := congrArg (fun x : Fn => g x.mail) hu
    exact (hg _).symm.trans (q.trans (hg _))
  have hfloor := hmail Mail.floor fun _ => rfl
  have hlate := hmail Mail.late fun _ => rfl
  have hwaiting := hmail Mail.waiting fun _ => rfl
  have hroom : (u.fn c.fn).cqFree = (s.fn c.fn).cqFree := by
    have q := congrArg Fn.cqFree hu
    refine (show (u.fn c.fn).cqFree = _ from q).trans ?_
    rw [State.fn_takes, State.fn_books]; rfl
  rw [State.mail_takes] at hfloor hlate hwaiting
  have hnext : (taken sp s c).acc = (s.fn c.fn).mail.accNo + 1 := rfl
  have hwin := State.win_final u (taken sp s c) status detail at_ resp
    (Nat.lt_of_le_of_lt (Nat.le_of_eq hfloor) (Nat.lt_succ_of_le ho.floor))
    (fun hmem => by
      have := ho.late _ (hlate ▸ hmem)
      omega)
    (hwaiting.trans ho.waiting) (hroom ▸ ho.room)
  exact (congrArg (fun m => mread winDefault m _ _) hwin).trans (mread_mwrite _ _ _ _)

end

end Sys2Proof.Machine
end

section
/-! SUPPORT. The system, test and diagnostic commands. -/

namespace Sys2Proof.Machine

/-! Fields of a response. -/

theorem length_leBytes (n v : Nat) : (leBytes n v).length = n := by
  induction n generalizing v with
  | zero => rfl
  | succ n ih => simp [leBytes, ih]

/-- A byte behind a field of a record. -/
theorem u8_behind (n v : Nat) (r : List Byte) (i : Nat) : u8 (leBytes n v ++ r) (n + i) = u8 r i := by
  have hlength : (leBytes n v).length ≤ n + i := by rw [length_leBytes]; exact Nat.le_add_right n i
  rw [u8, u8, List.getD_eq_getElem?_getD, List.getElem?_append_right hlength, length_leBytes, Nat.add_sub_cancel_left,
    ← List.getD_eq_getElem?_getD]

theorem u16_behind (n v : Nat) (r : List Byte) (i : Nat) : u16 (leBytes n v ++ r) (n + i) = u16 r i := by
  simp only [u16, Nat.add_assoc, u8_behind]

theorem u8_front (v : Nat) (r : List Byte) : u8 (leBytes 1 v ++ r) 0 = v % 256 := by
  simp [u8, leBytes]

theorem u16_front (v : Nat) (r : List Byte) : u16 (leBytes 2 v ++ r) 0 = v % 65536 := by
  simp only [u16, u8, leBytes, List.cons_append, List.getD_cons_zero, List.getD_cons_succ, BitVec.toNat_ofNat]
  omega

/-- The front of the response of `SYS_CAPS` for the module (R495). -/
theorem capsResp_module (s : State) :
    (capsResp s none).length = 64 ∧ u8 (capsResp s none) 0 = s.variant.code % 256 ∧ u8 (capsResp s none) 1 = 255 := by
  unfold capsResp
  dsimp only
  generalize (Config.fwVer none).toNat = version
  simp only [le8, le32, List.append_assoc]
  refine ⟨by simp only [List.length_append, length_leBytes, zeros, List.length_replicate], u8_front _ _, ?_⟩
  exact (u8_behind 1 _ _ 0).trans (u8_front _ _)

/-- The front of the response of `SYS_CAPS` for a leaf (R495). -/
theorem capsResp_leaf (s : State) (l : LeafId) :
    let r := capsResp s (some l)
    let rate := (s.leaf l).clk.dom.rate
    r.length = 64 ∧ u8 r 0 = s.variant.code % 256 ∧ u8 r 1 = l.num ∧ u8 r 3 = rate % 256 ∧
      u16 r 4 = objCap rate % 65536 := by
  have hnum : l.num % 256 = l.num := by cases l <;> rfl
  unfold capsResp
  dsimp only
  generalize (Config.fwVer (some l)).toNat = version
  simp only [le8, le16, le32, List.append_assoc]
  refine ⟨by simp only [List.length_append, length_leBytes, zeros, List.length_replicate], u8_front _ _, ?_, ?_, ?_⟩
  · exact (u8_behind 1 _ _ 0).trans ((u8_front _ _).trans hnum)
  · exact (u8_behind 1 _ _ 2).trans ((u8_behind 1 _ _ 1).trans ((u8_behind 1 _ _ 0).trans (u8_front _ _)))
  · exact (u16_behind 1 _ _ 3).trans ((u16_behind 1 _ _ 2).trans ((u16_behind 1 _ _ 1).trans ((u16_behind 1 _ _ 0).trans (u16_front _ _))))

/-- The fields of a response of the form of `DIAG_MEM_QUERY` (R498). -/
theorem memResp_fields (a b f i j p q u v w x : Nat) :
    let r := le8 a ++ le8 b ++ le16 f ++ le16 i ++ le16 j ++ le32 p ++ le32 q ++ le32 u ++ le32 v ++ le32 w ++ le32 x
    r.length = 32 ∧ u8 r 0 = a % 256 ∧ u8 r 1 = b % 256 ∧ u16 r 2 = f % 65536 ∧ u32 r 8 = p % 4294967296 ∧
      u32 r 16 = u % 4294967296 ∧ u32 r 20 = v % 4294967296 ∧ u32 r 24 = w % 4294967296 ∧ u32 r 28 = x % 4294967296 := by
  refine ⟨by simp [le8, le16, le32, length_leBytes], ?_, ?_, ?_, ?_, ?_, ?_, ?_, ?_⟩ <;>
    simp [u8, u16, u32, le8, le16, le32, leBytes] <;> omega

section
variable {s : State} {sp : Spec} {c : Cmd}

/-! `SYS_CAPS` and `DIAG_MEM_QUERY` answer a query. -/

/-- A ready command that answers at once: its completion is posted on what its chapter does (R52, R64). -/
theorem State.Ready.answers (h : s.Ready sp c) (hstage : ∀ k t, sp.stage k t = t) (hrefs : ∀ k, sp.refs k = [])
    {e : Eff} (he : s.effect sp c = e) (hmode : e.mode = 0) (hout : e.out = none) :
    ∃ at_, issue sp drainDue c s = e.s.final (taken sp s c) false e.status e.detail at_ e.resp := by
  subst he
  exact ⟨_, (h.issues hstage hrefs).trans (finish_completes _ _ _ hmode hout)⟩

/-- A completion leaves of its function that `SYS_CAPS` has been read, as it was (R3). -/
theorem State.capsDone_final (u : State) (k : Cmd) (f : FnId) (status detail at_ : Nat) (resp : List Byte) :
    ((u.final k false status detail at_ resp).fn f).capsDone = (u.fn f).capsDone :=
  congrArg Prod.fst (((State.Stands.refl u).final k false status detail at_ resp).fn f)

theorem Fn.capsDone_of_commands {x y : Fn} (h : x.commands = y.commands) : x.capsDone = y.capsDone := by
  have q := congrArg Fn.capsDone h
  exact q

/-- The leaf that `SYS_CAPS` describes; none for the module (R3). -/
def State.capsLeaf (s : State) (c : Cmd) : Option LeafId :=
  if c.fn = .f2 then (if c.target = 0 then none else some (targetLeaf c)) else (s.server c.fn).map Prod.fst

/-- The state with `SYS_CAPS` read on a function (R3). -/
def State.capsRead (s : State) (c : Cmd) : State := (s.modFn c.fn fun x => { x with capsDone := true }).notify s c.tag

theorem specSysCaps_effect (s : State) (c : Cmd) :
    let t := s.takes specSysCaps c
    s.effect specSysCaps c = { s := t.capsRead c, resp := capsResp t (t.capsLeaf c) } := rfl

theorem State.capsRead_alike (s : State) (c : Cmd) : s.Alike (s.capsRead c) :=
  State.notify_alike _ ((State.Alike.refl s).modFn c.fn _)

theorem State.commands_capsRead (s : State) (c : Cmd) :
    ((s.capsRead c).fn c.fn).commands = ({ s.fn c.fn with capsDone := true } : Fn).commands := by
  rw [State.capsRead, ((State.Notes.refl _).notify s c.tag).fn c.fn, State.fn_modFn_same]

theorem State.Alike.capsResp {s t : State} (h : s.Alike t) (l : Option LeafId) : capsResp t l = capsResp s l := by
  unfold Machine.capsResp
  rw [h.variant]
  cases l with
  | none => exact Eq.refl _
  | some l => dsimp only; rw [h.clk, h.boot]

theorem length_capsResp (s : State) : ∀ l, (capsResp s l).length = 64
  | none => (capsResp_module s).1
  | some l => (capsResp_leaf s l).1

theorem u8_capsResp_zero (s : State) : ∀ l, u8 (capsResp s l) 0 = s.variant.code % 256
  | none => (capsResp_module s).2.1
  | some l => (capsResp_leaf s l).2.1

theorem sysCaps_goes (h : s.Ready specSysCaps c) : Goes (.sysCaps c) s fun t => (t.fn c.fn).capsDone = true ∧
      (∀ k, (t.leaf k).scene = (s.leaf k).scene ∧ (t.leaf k).clk = (s.leaf k).clk) ∧
      (s.Open c.fn → let r := t.reply c 64
        u8 r 0 = s.variant.code % 256 ∧ (c.fn = .f2 → c.target = 0 → u8 r 1 = 255) ∧
        (∀ p, c.fn ≠ .f2 → s.server c.fn = some p → u8 r 1 = p.1.num ∧ u8 r 3 = (s.leaf p.1).clk.dom.rate % 256 ∧
          u16 r 4 = objCap (s.leaf p.1).clk.dom.rate % 65536)) := by
  refine ⟨_, rfl, ?_⟩
  obtain ⟨at_, hfinal⟩ := h.answers (fun _ _ => rfl) (fun _ => rfl) (specSysCaps_effect s c) rfl rfl
  rw [hfinal]
  have ht := s.takes_alike specSysCaps c
  have halike := ht.trans (State.capsRead_alike _ c)
  have hfn := State.commands_capsRead (s.takes specSysCaps c) c
  rw [ht.capsResp]
  generalize hl : State.capsLeaf _ c = l
  generalize State.capsRead _ c = u at halike hfn
  have hend := State.final_alike (taken specSysCaps s c) false sOk 0 at_ (capsResp s l) halike
  have hcaps := (State.capsDone_final u (taken specSysCaps s c) c.fn sOk 0 at_ (capsResp s l)).trans (Fn.capsDone_of_commands hfn)
  refine ⟨hcaps, fun k => ⟨hend.scene k, hend.clk k⟩, fun ho => ?_⟩
  have hreply := ho.reply hfn 0 0 at_ (capsResp s l)
  rw [length_capsResp] at hreply
  dsimp only
  rw [hreply]
  refine ⟨u8_capsResp_zero s l, fun hf h0 => ?_, fun p hf hp => ?_⟩
  · obtain rfl : none = l := by rw [← hl, State.capsLeaf, if_pos hf, if_pos h0]
    exact (capsResp_module s).2.2
  · obtain rfl : some p.1 = l := by rw [← hl, State.capsLeaf, if_neg hf, ht.server, hp]; rfl
    exact (capsResp_leaf s p.1).2.2

/-- The response of `DIAG_MEM_QUERY` for a leaf's error state (R498). -/
def Ecc.memResp (e : Ecc) : List Byte :=
  let spares : Nat → Nat := fun kind => ((List.range 48).map fun b => (e.freeSpares b kind).length).sum
  le8 e.table.length ++ le8 (e.table.filter EccHit.weak).length ++ le16 e.field.length ++ le16 (spares 0) ++
    le16 (spares 1) ++ le32 e.corrAshlar ++ le32 (e.corrProgram.map Prod.snd).sum ++ le32 e.corrDram ++
    le32 e.uncorr ++ le32 e.overflow ++ le32 e.decerr

theorem specDiagMemQuery_effect (s : State) (c : Cmd) :
    let t := s.takes specDiagMemQuery c
    s.effect specDiagMemQuery c = { s := t, resp := (t.leaf (t.testLeaf (taken specDiagMemQuery s c))).ecc.memResp } := rfl

/-- The leaf that a test or diagnostic command acts on at its validation. -/
theorem State.testLeaf_takes (s : State) (sp : Spec) (c : Cmd) : (s.takes sp c).testLeaf (taken sp s c) = s.testLeaf c :=
  (s.takes_alike sp c).testLeaf c _ rfl rfl

theorem diagMemQuery_goes (h : s.Ready specDiagMemQuery c) (ho : s.Open c.fn) : Goes (.diagMemQuery c) s fun t =>
      let e := (s.leaf (s.testLeaf c)).ecc
      let r := t.reply c 32
      (t.leaf (s.testLeaf c)).ecc = e ∧ u8 r 0 = e.table.length % 256 ∧ u8 r 1 = (e.table.filter EccHit.weak).length % 256 ∧
      u16 r 2 = e.field.length % 65536 ∧ u32 r 8 = e.corrAshlar % 4294967296 ∧ u32 r 16 = e.corrDram % 4294967296 ∧
      u32 r 20 = e.uncorr % 4294967296 ∧ u32 r 24 = e.overflow % 4294967296 ∧ u32 r 28 = e.decerr % 4294967296 := by
  refine ⟨_, rfl, ?_⟩
  obtain ⟨at_, hfinal⟩ := h.answers (fun _ _ => rfl) (fun _ => rfl) (specDiagMemQuery_effect s c) rfl rfl
  rw [hfinal]
  have ht := s.takes_alike specDiagMemQuery c
  rw [State.testLeaf_takes, ht.ecc]
  have hend := State.final_alike (taken specDiagMemQuery s c) false sOk 0 at_ (s.leaf (s.testLeaf c)).ecc.memResp ht
  have hreply := ho.reply (u := s.takes specDiagMemQuery c) (caps := ((s.takes specDiagMemQuery c).fn c.fn).capsDone) rfl
    0 0 at_ (s.leaf (s.testLeaf c)).ecc.memResp
  obtain ⟨hlength, fields⟩ := memResp_fields (s.leaf (s.testLeaf c)).ecc.table.length
    ((s.leaf (s.testLeaf c)).ecc.table.filter EccHit.weak).length (s.leaf (s.testLeaf c)).ecc.field.length _ _ _ _ _ _ _ _
  rw [show (s.leaf (s.testLeaf c)).ecc.memResp.length = 32 from hlength] at hreply
  refine ⟨hend.ecc _, ?_⟩
  dsimp only
  rw [hreply]
  exact fields

/-! `DIAG_CONFIG` and `DIAG_REPAIR`. -/

theorem State.leaf_modLeaf (s : State) (l k : LeafId) (g : Leaf → Leaf) :
    (s.modLeaf l g).leaf k = if k = l then g (s.leaf k) else s.leaf k := by
  cases l <;> cases k <;> rfl

/-- A change that comes to nothing the second time, made on the leaves of a list. -/
theorem State.leaf_foldl_modLeaf (g : Leaf → Leaf) (hg : ∀ x, g (g x) = g x) (ls : List LeafId) (s : State) (k : LeafId) :
    (ls.foldl (fun s l => s.modLeaf l g) s).leaf k = if k ∈ ls then g (s.leaf k) else s.leaf k := by
  induction ls generalizing s with
  | nil => rfl
  | cons l r ih =>
    rw [List.foldl_cons, ih, State.leaf_modLeaf]
    by_cases hl : k = l <;> by_cases hr : k ∈ r <;> simp [hl, hr, hg]

/-- A leaf with the repair mode and the trace mask that `DIAG_CONFIG` sets (R498). -/
def Leaf.configured (b : List Byte) (x : Leaf) : Leaf :=
  { x with ecc := { x.ecc with mode := u8 b 0 }, sched := { x.sched with mask := BitVec.ofNat 32 (u32 b 4) ||| 0x2000 } }

theorem specDiagConfig_effect (s : State) (c : Cmd) :
    let t := s.takes specDiagConfig c
    s.effect specDiagConfig c = {
      s := List.foldl (fun s l => s.modLeaf l (Leaf.configured c.body)) t
        (if c.fn = .f2 then [targetLeaf c] else (t.servers c.fn).map Prod.fst) } := rfl

theorem diagConfig_goes (h : s.Ready specDiagConfig c) : Goes (.diagConfig c) s fun t =>
      ∀ k, k ∈ (if c.fn = .f2 then [targetLeaf c] else (s.servers c.fn).map Prod.fst) →
        (t.leaf k).ecc = { (s.leaf k).ecc with mode := u8 c.body 0 } ∧
        (t.leaf k).sched.mask = (BitVec.ofNat 32 (u32 c.body 4) ||| 0x2000) ∧ (t.leaf k).scene = (s.leaf k).scene := by
  refine ⟨_, rfl, fun k hk => ?_⟩
  obtain ⟨at_, hfinal⟩ := h.answers (fun _ _ => rfl) (fun _ => rfl) (specDiagConfig_effect s c) rfl rfl
  rw [hfinal]
  have ht := s.takes_alike specDiagConfig c
  rw [ht.servers]
  generalize (if c.fn = .f2 then _ else _ : List LeafId) = ls at hk ⊢
  have hset := State.leaf_foldl_modLeaf (Leaf.configured c.body) (fun _ => rfl) ls (s.takes specDiagConfig c) k
  rw [if_pos hk] at hset
  generalize List.foldl _ _ ls = u at hset ⊢
  have hend := State.final_alike (taken specDiagConfig s c) false sOk 0 at_ [] (State.Alike.refl u)
  have hmask := ((State.Stands.refl u).final (taken specDiagConfig s c) false sOk 0 at_ []).mask k
  refine ⟨(hend.ecc k).trans ?_, hmask.trans ?_, (hend.scene k).trans ?_⟩
  · rw [hset, ← ht.ecc]; rfl
  · rw [hset]; rfl
  · rw [hset, ← ht.scene]; rfl

/-- A leaf with a weak word's repair ordered and the command that waits for it (R449, R498). -/
def Leaf.repairing (k : Cmd) (x : Leaf) : Leaf :=
  { x with
    ecc := { x.ecc with table := mapIf (fun h => h.same (u8 k.body 0) (u16 k.body 2) (u8 k.body 1)) (fun h => { h with repair := 2 }) x.ecc.table }
    boot := { x.boot with tests := x.boot.tests ++ [{ op := k.op, cmd := k, fn := k.fn, field := true }] } }

theorem specDiagRepair_effect (hok : (s.effect specDiagRepair c).status = sOk) :
    let k := taken specDiagRepair s c
    s.effect specDiagRepair c = { s := (s.takes specDiagRepair c).modLeaf (s.testLeaf c) (Leaf.repairing k), mode := 2 } := by
  rw [← State.testLeaf_takes s specDiagRepair c]
  unfold State.effect specDiagRepair at hok ⊢
  dsimp only at hok ⊢
  split at hok
  · cases hok
  · next hgo => exact if_neg hgo

theorem diagRepair_goes (h : s.Ready specDiagRepair c) (hok : (s.effect specDiagRepair c).status = sOk) :
    let l := s.testLeaf c
    let b := c.body
    Goes (.diagRepair c) s fun t =>
      (t.leaf l).ecc.table = mapIf (fun h => h.same (u8 b 0) (u16 b 2) (u8 b 1)) (fun h => { h with repair := 2 }) (s.leaf l).ecc.table ∧
      (t.leaf l).boot.tests = (s.leaf l).boot.tests ++ [{ op := 0x0F06, cmd := taken specDiagRepair s c, fn := c.fn, field := true }] ∧
      (t.leaf l).ecc.words = (s.leaf l).ecc.words := by
  refine ⟨_, rfl, ?_⟩
  rw [h.issues (fun _ _ => rfl) (fun _ => rfl), specDiagRepair_effect hok, finish_inProgress _ _ _ rfl]
  dsimp only
  rw [State.leaf_modLeaf_same]
  have ht := s.takes_alike specDiagRepair c
  rw [← ht.ecc, ← ht.boot]
  exact ⟨rfl, rfl, rfl⟩

end

end Sys2Proof.Machine
end

section
/-! SUPPORT. Commands that transfer, commands withdrawn, and the images of the boot. -/

namespace Sys2Proof.Machine

section
variable {s : State} {sp : Spec} {c : Cmd}

/-! A command with a transfer (R53, R79). -/

/-- A command without `when` goes on at once where no queued command and no transfer is in front of it (R53). -/
theorem schedule_at_once (sp : Spec) (k : Cmd) (data : List Byte) (t : State) (huntimed : k.when_ = 0)
    (hdrain : drainDue k t = t) (hturn : (t.fn k.fn).mail.holds k.acc = false) :
    schedule sp drainDue k data t = applyNow sp k false false false data t := by
  unfold schedule
  dsimp only
  rw [hdrain, if_pos huntimed, hturn]
  rfl

/-- A command whose checks pass, on a bulk channel with room for its references, starts its transfer towards the
device or goes on by its `when` (R52, R79). -/
theorem State.Ready.transfers (h : s.Ready sp c) (hchannel : s.Channel c.fn)
    (hroom : (s.fn c.fn).mail.refCount + (sp.refs (taken sp s c)).length ≤ 64) :
    issue sp drainDue c s =
      let k := taken sp s c
      let refs := (sp.refs k).map (refAt k)
      let t := sp.stage k (s.takes sp c)
      if refs ≠ [] ∧ sp.toHost = false then
        t.modMail c.fn fun m => { m with dma := m.dma ++ [{ cmd := k, refs := refs }] }
      else schedule sp drainDue k [] t := by
  have hmail := State.mail_takes s sp c
  rw [issue_clear drainDue h.toClear]
  dsimp only
  rw [h.checks, if_neg (by simp), if_neg (by simp [h.state]), hmail, if_neg (by simp [hchannel.bme, hchannel.running]),
    if_neg]
  rintro ⟨-, hfull⟩
  rw [List.length_map] at hfull
  exact absurd hfull (Nat.not_lt.2 hroom)

theorem State.dma_modMail (t : State) (f : FnId) (j : DmaJob) :
    ((t.modMail f fun m => { m with dma := m.dma ++ [j] }).fn f).mail.dma = (t.fn f).mail.dma ++ [j] := by
  rw [State.fn_modMail_same]

theorem State.queued_modMail (t : State) (f : FnId) (keep : Pend → Bool) :
    ((t.modMail f fun m => { m with queued := m.queued.filter keep }).fn f).mail.queued = (t.fn f).mail.queued.filter keep := by
  rw [State.fn_modMail_same]

/-- The transfer towards the host of a command that answers with data (R79). -/
def Spec.answer (sp : Spec) (k : Cmd) (bytes : List Byte) (detail : Nat) : DmaJob :=
  { cmd := k, refs := (sp.refs k).map (refAt k), out := bytes, toHost := true, detail := detail }

/-- An effect that answers with data starts a transfer towards the host (R79). -/
theorem finish_toHost (k : Cmd) (at_ : Nat) (e : Eff) {bytes : List Byte} (hmode : e.mode = 0) (hout : e.out = some bytes)
    (hok : e.status = sOk) : finish sp k false false at_ e =
      e.s.modMail k.fn fun m => { m with dma := m.dma ++ [sp.answer k bytes e.detail] } := by
  unfold finish
  rw [hmode]
  dsimp only
  rw [hout, hok]
  rfl

/-- The earlier commands of a ready one let it go on past its acceptance (R53). -/
theorem State.Ready.holds_takes (h : s.Ready sp c) :
    ((s.takes sp c).fn c.fn).mail.holds (taken sp s c).acc = false := by
  rw [State.mail_takes]
  exact h.turn

theorem State.Ready.drainDue_takes (h : s.Ready sp c) : drainDue (taken sp s c) (s.takes sp c) = s.takes sp c := by
  apply drainDue_of_empty
  rw [show (taken sp s c).fn = c.fn from rfl, State.mail_takes]
  exact h.queue

theorem specDiagTraceRead_run (t : State) (k : Cmd) :
    let rs := ((t.leaf (t.testLeaf k)).sched.from_ (u32 k.body 0)).take (u32 k.body 4)
    specDiagTraceRead.run k false [] t = { s := t, out := some (rs.flatMap Trace.bytes), detail := rs.length } := rfl

theorem diagTraceRead_goes (h : s.Ready specDiagTraceRead c) (hchannel : s.Channel c.fn) : Goes (.diagTraceRead c) s fun t =>
      let rs := (((s.takes specDiagTraceRead c).leaf (s.testLeaf c)).sched.from_ (u32 c.body 0)).take (u32 c.body 4)
      ∃ j, (t.fn c.fn).mail.dma = (s.fn c.fn).mail.dma ++ [j] ∧ j.toHost = true ∧ j.out = rs.flatMap Trace.bytes ∧
        j.detail = rs.length := by
  refine ⟨_, rfl, ?_⟩
  rw [h.transfers hchannel hchannel.room, ← State.testLeaf_takes s specDiagTraceRead c]
  dsimp only
  rw [if_neg (by simp [specDiagTraceRead]),
    show specDiagTraceRead.stage (taken specDiagTraceRead s c) (s.takes specDiagTraceRead c) = s.takes specDiagTraceRead c from rfl,
    schedule_at_once specDiagTraceRead (taken specDiagTraceRead s c) [] _ h.untimed h.drainDue_takes h.holds_takes]
  unfold applyNow
  rw [specDiagTraceRead_run]
  dsimp only
  rw [finish_toHost _ _ _ rfl rfl rfl]
  refine ⟨specDiagTraceRead.answer (taken specDiagTraceRead s c) _ _, (State.dma_modMail _ c.fn _).trans ?_, rfl, rfl, rfl⟩
  rw [State.mail_takes]
  rfl

/-! `SYS_CANCEL` (R63). -/

/-- The commands that wait for their sample, as the withdrawal of others leaves them. -/
theorem State.Stands.queued {z t : State} (h : z.Stands t) (f : FnId) : (t.fn f).mail.queued = (z.fn f).mail.queued :=
  congrArg (fun x => x.2.1) (h.fn f)

/-- Completing withdrawn commands leaves the queue as it is. -/
theorem queued_withdrawn (ps : List Pend) (t : State) (f : FnId) :
    ((ps.foldl (fun t p => (undoCmd p.cmd t).final p.cmd true sAborted 0 0) t).fn f).mail.queued = (t.fn f).mail.queued := by
  induction ps generalizing t with
  | nil => rfl
  | cons p r ih =>
    rw [List.foldl_cons, ih, ((State.Stands.refl _).final p.cmd true sAborted 0 0 []).queued, undoCmd_sameFns]

/-- The queued commands that `SYS_CANCEL` withdraws: those of a tag that wait for a sample beyond the coming one (R63). -/
def Pend.cancelled (tag next : Nat) (p : Pend) : Bool := p.released && p.cmd.tag == tag && decide (next < p.count)

theorem specSysCancel_run {t : State} {k : Cmd} {p : Pend} (hp : p ∈ (t.fn k.fn).mail.queued)
    (hit : p.cancelled (u32 k.body 0) (t.fnDom k.fn).nextCount = true) :
    let hit := Pend.cancelled (u32 k.body 0) (t.fnDom k.fn).nextCount
    let ps := (t.fn k.fn).mail.queued.filter hit
    (specSysCancel undoCmd).run k false [] t =
      { s := ps.foldl (fun t p => (undoCmd p.cmd t).final p.cmd true sAborted 0 0)
          (t.modMail k.fn fun m => { m with queued := m.queued.filter fun p => !hit p }),
        detail := ps.length } := by
  refine if_neg ?_
  rw [List.isEmpty_iff]
  exact List.ne_nil_of_mem (List.mem_filter.2 ⟨hp, hit⟩)

theorem sysCancel_goes (h : s.Clear (specSysCancel undoCmd) c) (huntimed : c.when_ = 0)
    (hturn : (s.fn c.fn).mail.holds ((s.fn c.fn).mail.accNo + 1) = false)
    (hchecks : checkCommand (specSysCancel undoCmd) (s.takes (specSysCancel undoCmd) c) (taken (specSysCancel undoCmd) s c) = (sOk, 0))
    (hlater : ∀ p ∈ (s.fn c.fn).mail.queued, (s.fnDom c.fn).nextCount < p.count) {p : Pend} (hp : p ∈ (s.fn c.fn).mail.queued)
    (hit : p.cancelled (u32 c.body 0) (s.fnDom c.fn).nextCount = true) :
    Goes (.sysCancel c) s fun t => (t.fn c.fn).mail.queued =
      (s.fn c.fn).mail.queued.filter fun p => !p.cancelled (u32 c.body 0) (s.fnDom c.fn).nextCount := by
  refine ⟨_, rfl, ?_⟩
  have hmail := State.mail_takes s (specSysCancel undoCmd) c
  have hdom := State.fnDom_takes s (specSysCancel undoCmd) c c.fn
  rw [issue_clear drainDue h]
  generalize s.takes (specSysCancel undoCmd) c = t at *
  have hqueued : (t.fn c.fn).mail.queued = (s.fn c.fn).mail.queued := by rw [hmail]
  have hrun := specSysCancel_run (t := t) (k := taken (specSysCancel undoCmd) s c) (hqueued ▸ hp) (hdom ▸ hit)
  dsimp only
  rw [hchecks, if_neg (by simp), if_neg (show ¬((specSysCancel undoCmd).pre t _).1 ≠ sOk from fun hne => hne rfl), if_neg (by simp [specSysCancel]),
    if_neg (by simp [specSysCancel]), if_neg (by simp [specSysCancel])]
  have hdrain := drainDue_of_later (taken (specSysCancel undoCmd) s c) t (hqueued ▸ hdom ▸ hlater)
  have hholds : (t.fn c.fn).mail.holds (taken (specSysCancel undoCmd) s c).acc = false := by rw [hmail]; exact hturn
  rw [show (specSysCancel undoCmd).stage _ t = t from rfl,
    schedule_at_once _ (taken (specSysCancel undoCmd) s c) [] t huntimed hdrain hholds]
  unfold applyNow
  rw [hrun]
  dsimp only
  rw [finish_completes _ _ _ rfl rfl, ((State.Stands.refl _).final _ _ _ _ _ _).queued, queued_withdrawn]
  rw [← hqueued, ← hdom]
  exact State.queued_modMail t c.fn _

/-! The images of the boot (R487, R494, R495). -/

/-- A command towards the device starts its transfer on what it stages (R79). -/
theorem State.Ready.starts (h : s.Ready sp c) (hchannel : s.Channel c.fn)
    (hroom : (s.fn c.fn).mail.refCount + (sp.refs (taken sp s c)).length ≤ 64) (hrefs : sp.refs (taken sp s c) ≠ [])
    (hto : sp.toHost = false) (g : Leaf → Leaf) (l : LeafId) (hstage : ∀ t, sp.stage (taken sp s c) t = t.modLeaf l g) :
    ((issue sp drainDue c s).leaf l = g ((s.takes sp c).leaf l)) ∧
      ((issue sp drainDue c s).fn c.fn).mail.dma.length = (s.fn c.fn).mail.dma.length + 1 := by
  rw [h.transfers hchannel hroom]
  dsimp only
  rw [if_pos ⟨by simpa using hrefs, hto⟩, hstage, State.leaf_modMail, State.leaf_modLeaf_same, State.dma_modMail,
    State.fn_modLeaf, State.mail_takes, List.length_append]
  exact ⟨rfl, rfl⟩

/-- A leaf that waits for the image of a `SYS_BOOT_LOAD` (R488). -/
def Leaf.loading (k : Cmd) (x : Leaf) : Leaf := { x with boot := { x.boot with load := some { cmd := k } } }

/-- A leaf that waits for the image of a `SYS_FW_UPDATE` (R495). -/
def Leaf.updating (k : Cmd) (x : Leaf) : Leaf := { x with boot := { x.boot with update := some { cmd := k, update := true } } }

theorem sysBootLoad_goes (h : s.Ready specSysBootLoad c) (hchannel : s.Channel c.fn) (hroom : (s.fn c.fn).mail.refCount ≤ 62) :
    Goes (.sysBootLoad c) s fun t =>
      (t.leaf (targetLeaf c)).boot.load = some { cmd := taken specSysBootLoad s c } ∧
      (t.fn c.fn).mail.dma.length = (s.fn c.fn).mail.dma.length + 1 := by
  obtain ⟨hleaf, hdma⟩ := h.starts hchannel (Nat.add_le_add_right hroom 2) (by simp [specSysBootLoad]) rfl
    (Leaf.loading (taken specSysBootLoad s c)) (targetLeaf c) fun _ => rfl
  exact ⟨_, rfl, by rw [hleaf]; rfl, hdma⟩

theorem sysFwUpdate_goes (h : s.Ready specSysFwUpdate c) (hchannel : s.Channel c.fn) (hroom : (s.fn c.fn).mail.refCount ≤ 62) :
    Goes (.sysFwUpdate c) s fun t =>
      (t.leaf (targetLeaf c)).boot.update = some { cmd := taken specSysFwUpdate s c, update := true } ∧
      (t.fn c.fn).mail.dma.length = (s.fn c.fn).mail.dma.length + 1 := by
  obtain ⟨hleaf, hdma⟩ := h.starts hchannel (Nat.le_succ_of_le (Nat.add_le_add_right hroom 1)) (by simp [specSysFwUpdate]) rfl
    (Leaf.updating (taken specSysFwUpdate s c)) (targetLeaf c) fun _ => rfl
  exact ⟨_, rfl, by rw [hleaf]; rfl, hdma⟩

theorem State.journalData_plain (t : State) {k : Cmd} (d : List Byte) (h : journalled k = false) : t.journalData k d = t :=
  if_pos (by simp [h])

/-- The last reference of a command without `when` brings its data: the command has its effect (R53, R79). -/
theorem State.Arrives.applies {d : List Byte} (ha : s.Arrives c d) (hsp : specOf c.op = some sp) (hplain : journalled c = false) :
    ∃ u, s.Alike u ∧ transferDone c.fn d s = applyNow sp c false false false d u := by
  obtain ⟨j, rest, r, hdma, rfl, hrefs, hto, hdata, hlen⟩ := ha.job
  refine ⟨s.modMail j.cmd.fn fun m => { m with dma := rest }, (State.Alike.refl s).modMail _ _, ?_⟩
  have hrest : ((s.modMail j.cmd.fn fun m => { m with dma := rest }).fn j.cmd.fn).mail = { (s.fn j.cmd.fn).mail with dma := rest } := by
    rw [State.fn_modMail_same]
  unfold transferDone
  rw [hdma]
  dsimp only
  rw [hrefs]
  dsimp only
  rw [if_neg (by simp [ha.steady, hlen]), hto, if_neg (fun hne => hne rfl), hsp, hdata]
  simp only [Bool.false_eq_true, if_false, List.nil_append]
  rw [State.journalData_plain _ _ hplain]
  refine schedule_at_once sp j.cmd d _ ha.now (drainDue_of_empty _ _ ?_) ?_
  · rw [hrest]
    exact ha.queue
  · have hturn := ha.turn
    rw [hrest]
    rw [Mail.holds, hdma, List.any_cons, Bool.or_eq_false_iff] at hturn
    exact hturn.2

/-- A leaf whose `SYS_BOOT_LOAD` has ended. -/
def Leaf.loaded (x : Leaf) : Leaf := { x with boot := { x.boot with load := none } }

/-- A leaf that no longer waits for the host: it boots an image (R488). -/
def Leaf.bootsImage (d : List Byte) (x : Leaf) : Leaf :=
  { x with boot := { x.boot with waitHost := false, runVer := Config.imageVersion d } }

theorem specSysBootLoad_run {u : State} (d : List Byte) (hrun : (u.leaf (targetLeaf c)).run = 1)
    (hwait : (u.leaf (targetLeaf c)).boot.waitHost = true) :
    let l := targetLeaf c
    specSysBootLoad.run c false d u = if imageOk (u.leaf l).boot.secMin d then
        { s := (u.modLeaf l Leaf.loaded).modLeaf l (Leaf.bootsImage d) }
      else { s := u.modLeaf l Leaf.loaded, status := sBadField, detail := 48 } :=
  if_neg (by simp [hrun, hwait])

theorem sysBootLoad_arrives {d : List Byte} (ha : s.Arrives c d) (hop : c.op = 0x0103) (hrun : (s.leaf (targetLeaf c)).run = 1)
    (hwait : (s.leaf (targetLeaf c)).boot.waitHost = true) :
    let k := targetLeaf c
    let x := (s.leaf k).boot
    Goes (.dmaTransferDone c.fn d) s fun t =>
        let w := (t.leaf k).boot
        w.load = none ∧ (t.leaf k).run = 1 ∧
        (if imageOk x.secMin d then w.waitHost = false ∧ w.runVer = Config.imageVersion d
          else w.waitHost = true ∧ w.runVer = x.runVer) := by
  refine ⟨_, rfl, ?_⟩
  obtain ⟨u, hu, happly⟩ := ha.applies (sp := specSysBootLoad) (by rw [hop]; rfl) (by simp [journalled, hop]; decide)
  rw [happly]
  rw [← hu.run] at hrun
  rw [← hu.boot] at hwait ⊢
  have hend := fun v h1 h2 h3 h4 => State.final_alike (z := v) c false h1 h2 h3 h4 (State.Alike.refl v)
  unfold applyNow
  rw [specSysBootLoad_run d hrun hwait]
  dsimp only
  by_cases himage : imageOk (u.leaf (targetLeaf c)).boot.secMin d = true
  · rw [if_pos himage, if_pos himage, finish_completes _ _ _ rfl rfl, (hend _ _ _ _ _).boot, (hend _ _ _ _ _).run]
    simp [Leaf.loaded, Leaf.bootsImage, hrun]
  · rw [if_neg himage, if_neg himage, finish_completes _ _ _ rfl rfl, (hend _ _ _ _ _).boot, (hend _ _ _ _ _).run]
    simp [Leaf.loaded, hrun, hwait]

/-- A leaf whose spare slot is written with an image that is not verified yet (R495). -/
def Leaf.writesSpare (k : Cmd) (d : List Byte) (x : Leaf) : Leaf :=
  { x with boot := { x.boot.setSlot x.boot.spareSlot false 0 with update := some { cmd := k, data := d, update := true } } }

theorem specSysFwUpdate_run {u : State} (d : List Byte) (hupdate : (u.leaf (targetLeaf c)).boot.update ≠ none) :
    specSysFwUpdate.run c false d u = { s := u.modLeaf (targetLeaf c) (Leaf.writesSpare c d), mode := 2 } :=
  if_neg (by simpa using hupdate)

theorem sysFwUpdate_arrives {d : List Byte} (ha : s.Arrives c d) (hop : c.op = 0x0104)
    (hupdate : (s.leaf (targetLeaf c)).boot.update ≠ none) :
    let k := targetLeaf c
    let x := (s.leaf k).boot
    Goes (.dmaTransferDone c.fn d) s fun t =>
        let w := (t.leaf k).boot
        w.update = some { cmd := c, data := d, update := true } ∧ w.slot = x.slot ∧
        (x.spareSlot = 0 → w.valid0 = false ∧ w.valid1 = x.valid1) ∧ (x.spareSlot ≠ 0 → w.valid1 = false ∧ w.valid0 = x.valid0) := by
  refine ⟨_, rfl, ?_⟩
  obtain ⟨u, hu, happly⟩ := ha.applies (sp := specSysFwUpdate) (by rw [hop]; rfl) (by simp [journalled, hop]; decide)
  rw [happly]
  rw [← hu.boot] at hupdate ⊢
  unfold applyNow
  rw [specSysFwUpdate_run d hupdate]
  dsimp only
  rw [finish_inProgress _ _ _ rfl]
  dsimp only
  rw [State.leaf_modLeaf_same]
  by_cases hspare : (u.leaf (targetLeaf c)).boot.spareSlot = 0 <;> simp [Leaf.writesSpare, Boot.setSlot, hspare]

end

end Sys2Proof.Machine
end

section
/-! SUPPORT. The beginning of a test: the claim of a twin standby, the test's entry on its leaf, and what its command
changes of the leaf besides. -/

namespace Sys2Proof.Machine

section
variable {s : State} {sp : Spec} {c : Cmd}

/-- A leaf with a further test. -/
def Leaf.addTest (k : Cmd) (x : Leaf) : Leaf :=
  { x with boot := { x.boot with tests := x.boot.tests ++ [{ op := k.op, cmd := k, fn := k.fn }] } }

/-- The state in which a test has begun on a leaf: a twin standby has gone to claim 0 (R491). -/
def State.beginTest (s : State) (l : LeafId) (k : Cmd) : State :=
  ((if s.standbyUp l then s.setClaim l 0 0 k.tag else s).modLeaf l (Leaf.addTest k)).notify s k.tag

/-- A test that is not refused begins. -/
theorem startTest_ok {free : State → Cmd → LeafId → Bool} {k : Cmd} {t : State} (hok : (startTest free k t).status = sOk) :
    startTest free k t = { s := t.beginTest (t.testLeaf k) k, mode := 2 } := by
  unfold startTest at hok ⊢
  dsimp only at hok ⊢
  split at hok
  · cases hok
  · next htwin =>
    split at hok
    · cases hok
    · next hbusy =>
      split at hok
      · cases hok
      · next hservice => rw [if_neg htwin, if_neg hbusy, if_neg hservice]; rfl

/-! What a test's beginning leaves of the state. -/

/-- From `s` to `t` a leaf changes by `g`, but for its trace; the other leaf does not change, and a twin standby has
gone to claim 0 (R491). -/
structure State.Tested (s t : State) (l : LeafId) (g : Leaf → Leaf) : Prop where
  leaf : (t.leaf l).bare = (g (s.leaf l)).bare
  other : (t.leaf l.other).bare = (s.leaf l.other).bare
  claim : s.standbyUp l = true → (t.red.of l).claim = 0

theorem State.Tested.alike {t u : State} {l : LeafId} {g : Leaf → Leaf} (h : s.Tested t l g) (hu : t.Alike u) : s.Tested u l g :=
  ⟨(hu.leaf l).trans h.leaf, (hu.leaf l.other).trans h.other, fun k => (hu.claim l).trans (h.claim k)⟩

theorem State.Tested.modLeaf {t : State} {l : LeafId} {g : Leaf → Leaf} (h : s.Tested t l g) (f : Leaf → Leaf)
    (hf : ∀ x, (f x).bare = f x.bare) : s.Tested (t.modLeaf l f) l fun x => f (g x) := by
  refine ⟨?_, ?_, fun k => by rw [State.modLeaf_red]; exact h.claim k⟩
  · rw [State.leaf_modLeaf_same, hf, h.leaf, ← hf]
  · rw [State.leaf_modLeaf_other, h.other]

theorem State.Alike.active {s t : State} (h : s.Alike t) : t.red.active = s.red.active := by
  have q := congrArg Red.active h.red
  exact q

theorem State.Alike.standbyUp {s t : State} (h : s.Alike t) (l : LeafId) : t.standbyUp l = s.standbyUp l := by
  simp only [State.standbyUp, State.twin, h.mode, h.active, h.claim]

theorem State.claimEvent_alike (s : State) (l : LeafId) (old new cause tag : Nat) : s.Alike (s.claimEvent l old new cause tag) :=
  .ite _ (.refl s) (State.modEvent_alike _ _ _ _ _ _ _ (.refl s))

theorem State.leaf_setClaim (s : State) (l k : LeafId) (new cause tag : Nat) :
    ((s.setClaim l new cause tag).leaf k).bare = (s.leaf k).bare := by
  rw [State.setClaim, (State.claimEvent_alike _ l _ new cause tag).leaf k, State.leaf_modRed]

theorem State.claim_setClaim (s : State) (l : LeafId) (new cause tag : Nat) :
    ((s.setClaim l new cause tag).red.of l).claim = new := by
  rw [State.setClaim, (State.claimEvent_alike _ l _ new cause tag).claim l]
  cases l <;> rfl

theorem State.tested_standby (s : State) (l : LeafId) (tag : Nat) :
    s.Tested (if s.standbyUp l then s.setClaim l 0 0 tag else s) l id := by
  by_cases hup : s.standbyUp l = true
  · rw [if_pos hup]
    exact ⟨s.leaf_setClaim l l 0 0 tag, s.leaf_setClaim l _ 0 0 tag, fun _ => s.claim_setClaim l 0 0 tag⟩
  · rw [if_neg hup]
    exact ⟨rfl, rfl, fun k => absurd k hup⟩

/-- A test that begins at a command's validation adds itself to its leaf. -/
theorem State.tested_beginTest (s : State) (sp : Spec) (c : Cmd) (l : LeafId) :
    s.Tested ((s.takes sp c).beginTest l (taken sp s c)) l (Leaf.addTest (taken sp s c)) := by
  have ht := s.takes_alike sp c
  have htest := ((s.takes sp c).tested_standby l (taken sp s c).tag).modLeaf (Leaf.addTest (taken sp s c)) (fun _ => rfl)
  have hbegun := htest.alike (State.notify_alike (tag := (taken sp s c).tag) (s.takes sp c) (.refl _))
  refine ⟨hbegun.leaf.trans ?_, hbegun.other.trans (ht.leaf _), fun hup => hbegun.claim ?_⟩
  · exact congrArg (Leaf.addTest (taken sp s c)) (ht.leaf l)
  · rw [ht.standbyUp, hup]

theorem State.bistLose_alike (s : State) (f : FnId) (k : Cmd) : s.Alike (s.bistLose f k) := by
  unfold State.bistLose
  refine State.Alike.modMail (State.Alike.foldl (.refl s) _ _ ?_) f _
  exact fun _ _ h => State.final_alike _ _ _ _ _ _ h

/-! The banks of a preserving march. -/

/-- Banks handed to the control cores (R434). -/
def Ecc.lend (e : Ecc) (ks : List Nat) : Ecc := ks.foldl (fun e k => e.modBank k fun b => { b with owner := 2 }) e

theorem Ecc.bank_modBank (e : Ecc) (k j : Nat) (f : AshBank → AshBank) :
    (e.modBank k f).bank j = if j = k then f (e.bank k) else e.bank j := tget_tmod _ _ _ _ _

theorem Ecc.owner_lend (ks : List Nat) (e : Ecc) (j : Nat) (h : j ∈ ks ∨ (e.bank j).owner = 2) : ((e.lend ks).bank j).owner = 2 := by
  induction ks generalizing e with
  | nil => exact h.resolve_left (by simp)
  | cons k r ih =>
    refine ih _ ?_
    rw [Ecc.bank_modBank]
    by_cases hk : j = k
    · exact .inr (by rw [if_pos hk])
    · rw [if_neg hk]
      exact h.imp_left fun hmem => (List.mem_cons.1 hmem).resolve_left hk

/-- A leaf whose march has the named banks, with their owners kept in its test (R492). -/
def Leaf.lendTo (k : Cmd) (x : Leaf) : Leaf :=
  { x with
    ecc := x.ecc.lend (marchBanks k)
    boot := { x.boot with
      tests := x.boot.tests.map fun t => if t.op = k.op ∧ t.cmd.acc = k.acc ∧ t.fn = k.fn then
        { t with owners := (marchBanks k).map fun i => (i, (x.ecc.bank i).owner) } else t } }

theorem State.lendBanks_eq (s : State) (l : LeafId) (k : Cmd) : s.lendBanks l k = s.modLeaf l (Leaf.lendTo k) := rfl

/-! What a test's beginning changes of its leaf. -/

/-- From `x` to `y` a leaf has taken up a test of a command: the scene stays, and what else changes is what the kind of
test asks for (R469, R491, R492). -/
structure Leaf.Begins (k : Cmd) (x y : Leaf) : Prop where
  cmds : y.boot.tests.map Test.cmd = x.boot.tests.map Test.cmd ++ [k]
  last : ∃ q, y.boot.tests.getLast? = some q ∧ q.op = k.op ∧ q.fn = k.fn ∧ q.field = false ∧
    (k.op = 0x0F02 → u8 k.body 0 = 0 → u8 k.body 1 = 0 →
      q.owners = (marchBanks k).map (fun i => (i, (x.ecc.bank i).owner)) ∧ ∀ i ∈ marchBanks k, (y.ecc.bank i).owner = 2)
  scene : y.scene = x.scene
  gated : k.op = 0x0F04 → x.testing = false → y.clk.dram.gated = true
  clk : k.op ≠ 0x0F04 → y.clk = x.clk

theorem Leaf.begins_addTest (k : Cmd) (x : Leaf) (hmarch : ¬(k.op = 0x0F02 ∧ u8 k.body 0 = 0 ∧ u8 k.body 1 = 0))
    (hfreq : k.op = 0x0F04 → x.testing = true) : x.Begins k (x.addTest k) where
  cmds := by simp [Leaf.addTest]
  last := ⟨_, List.getLast?_concat, rfl, rfl, rfl, fun h h0 h1 => absurd ⟨h, h0, h1⟩ hmarch⟩
  scene := rfl
  gated h hidle := by simp [hfreq h] at hidle
  clk _ := rfl

theorem Leaf.begins_lendTo (k : Cmd) (x : Leaf) (hop : k.op = 0x0F02) : x.Begins k ((x.addTest k).lendTo k) where
  cmds := by
    simp only [Leaf.addTest, Leaf.lendTo, List.map_append, List.map_map, List.map_cons, List.map_nil]
    congr 1
    exact List.map_congr_left fun t _ => by simp only [Function.comp]; split <;> rfl
  last := by
    refine ⟨{ op := k.op, cmd := k, fn := k.fn, owners := (marchBanks k).map fun i => (i, (x.ecc.bank i).owner) },
      ?_, rfl, rfl, rfl, fun _ _ _ => ⟨rfl, fun i hi => Ecc.owner_lend _ _ i (.inl hi)⟩⟩
    simp [Leaf.addTest, Leaf.lendTo]
  scene := rfl
  gated h := by simp [hop] at h
  clk _ := rfl

theorem Leaf.begins_gatePll (k : Cmd) (x : Leaf) (hop : k.op = 0x0F04) : x.Begins k ((x.addTest k).gatePll 1) where
  cmds := by simp [Leaf.addTest, Leaf.gatePll, Leaf.modPll]
  last := ⟨_, List.getLast?_concat, rfl, rfl, rfl, fun h => by simp [hop] at h⟩
  scene := rfl
  gated _ _ := rfl
  clk h := absurd hop h

/-! The four test commands (R467, R468, R492). -/

/-- From `s` to `t` a test of a command has begun on a leaf. -/
def State.TestBegins (s t : State) (l : LeafId) (k : Cmd) : Prop := ∃ g, s.Tested t l g ∧ (s.leaf l).Begins k (g (s.leaf l))

theorem startTest_takes {free : State → Cmd → LeafId → Bool}
    (hok : (startTest free (taken sp s c) (s.takes sp c)).status = sOk) :
    startTest free (taken sp s c) (s.takes sp c) =
      { s := (s.takes sp c).beginTest (s.testLeaf c) (taken sp s c), mode := 2 } := by
  rw [startTest_ok hok, State.testLeaf_takes]

/-- A command whose effect is that a test begins. -/
def State.Starts (s : State) (sp : Spec) (c : Cmd) : Prop :=
  (s.effect sp c).status = sOk → (s.effect sp c).mode = 2 ∧ s.TestBegins (s.effect sp c).s (s.testLeaf c) (taken sp s c)

theorem State.effect_unstaged (s : State) (c : Cmd) (hstage : ∀ k t, sp.stage k t = t) :
    s.effect sp c = sp.run (taken sp s c) false [] (s.takes sp c) := by
  rw [State.effect, hstage]

theorem specTstBist_run (k : Cmd) (t : State) :
    let e := startTest (fun _ _ _ => false) k t
    let f := t.fnOf (t.testLeaf k)
    specTstBist.run k false [] t =
      if e.mode = 2 ∧ t.unserved f = false ∧ e.s.unserved f = true then { e with s := e.s.bistLose f k } else e := rfl

theorem State.starts_tstBist (s : State) (c : Cmd) : s.Starts specTstBist c := by
  intro hok
  rw [State.effect_unstaged s c fun _ _ => rfl, specTstBist_run] at hok ⊢
  have hstatus : (startTest (fun _ _ _ => false) (taken specTstBist s c) (s.takes specTstBist c)).status = sOk := by
    split at hok <;> exact hok
  have hbegun := s.tested_beginTest specTstBist c (s.testLeaf c)
  have hleaf := Leaf.begins_addTest (taken specTstBist s c) (s.leaf (s.testLeaf c)) (by simp [taken, specTstBist])
    (by simp [taken, specTstBist])
  rw [startTest_takes hstatus]
  dsimp only
  split
  · dsimp only
    exact ⟨rfl, _, hbegun.alike (State.bistLose_alike _ _ _), hleaf⟩
  · dsimp only
    exact ⟨rfl, _, hbegun, hleaf⟩

theorem specTstMarch_run (k : Cmd) (t : State) :
    let mem := u8 k.body 0
    let mode := u8 k.body 1
    let e := startTest (fun _ c _ => u8 c.body 0 == 0 && u8 c.body 1 == 0) k t
    specTstMarch.run k false [] t =
      if mem = 0 ∧ mode = 0 ∧ ((marchBanks k).any fun i => ((t.leaf (t.testLeaf k)).ecc.bank i).owner == 0) = true then
        { s := t, status := sBusy }
      else if e.mode = 2 ∧ mem = 0 ∧ mode = 0 then { e with s := e.s.lendBanks (t.testLeaf k) k } else e := rfl

theorem State.starts_tstMarch (s : State) (c : Cmd) : s.Starts specTstMarch c := by
  intro hok
  rw [State.effect_unstaged s c fun _ _ => rfl, specTstMarch_run] at hok ⊢
  have hbegun := s.tested_beginTest specTstMarch c (s.testLeaf c)
  split at hok
  · cases hok
  · next hfree =>
    rw [if_neg hfree, State.testLeaf_takes]
    have hstatus : (startTest (fun _ c _ => u8 c.body 0 == 0 && u8 c.body 1 == 0) (taken specTstMarch s c)
        (s.takes specTstMarch c)).status = sOk := by split at hok <;> exact hok
    rw [startTest_takes hstatus]
    split
    · dsimp only
      rw [State.lendBanks_eq]
      exact ⟨rfl, _, hbegun.modLeaf (Leaf.lendTo (taken specTstMarch s c)) (fun _ => rfl), Leaf.begins_lendTo _ _ rfl⟩
    · next hdestroys =>
      dsimp only
      exact ⟨rfl, _, hbegun, Leaf.begins_addTest _ _ (fun h => hdestroys ⟨rfl, h.2⟩) (by simp [taken, specTstMarch])⟩

theorem State.starts_tstDramSweep (s : State) (c : Cmd) : s.Starts specTstDramSweep c := by
  intro hok
  have heffect : s.effect specTstDramSweep c =
    startTest (fun _ _ _ => false) (taken specTstDramSweep s c) (s.takes specTstDramSweep c) := rfl
  rw [heffect] at hok ⊢
  rw [startTest_takes hok]
  dsimp only
  exact ⟨rfl, _, s.tested_beginTest specTstDramSweep c _,
    Leaf.begins_addTest _ _ (by simp [taken, specTstDramSweep]) (by simp [taken, specTstDramSweep])⟩

theorem specTstDramFreq_run (k : Cmd) (t : State) :
    let e := startTest (fun _ _ _ => false) k t
    specTstDramFreq.run k false [] t = if e.mode = 2 ∧ (t.leaf (t.testLeaf k)).testing = false then
      { e with s := e.s.modLeaf (t.testLeaf k) fun x => x.gatePll 1 } else e := rfl

theorem State.starts_tstDramFreq (s : State) (c : Cmd) : s.Starts specTstDramFreq c := by
  intro hok
  rw [State.effect_unstaged s c fun _ _ => rfl, specTstDramFreq_run] at hok ⊢
  have hbegun := s.tested_beginTest specTstDramFreq c (s.testLeaf c)
  have htesting : ((s.takes specTstDramFreq c).leaf (s.testLeaf c)).testing = (s.leaf (s.testLeaf c)).testing := by
    rw [Leaf.testing, (s.takes_alike specTstDramFreq c).boot]; rfl
  have hstatus : (startTest (fun _ _ _ => false) (taken specTstDramFreq s c) (s.takes specTstDramFreq c)).status = sOk := by
    split at hok <;> exact hok
  rw [startTest_takes hstatus, State.testLeaf_takes, htesting]
  split
  · dsimp only
    exact ⟨rfl, _, hbegun.modLeaf (fun x => x.gatePll 1) (fun _ => rfl), Leaf.begins_gatePll _ _ rfl⟩
  · next hruns =>
    dsimp only
    exact ⟨rfl, _, hbegun, Leaf.begins_addTest _ _ (by simp [taken, specTstDramFreq]) (fun _ => by simpa using hruns)⟩

/-- What two leaves that differ at most in their traces have in common. -/
theorem Leaf.parts_of_bare {x y : Leaf} (h : x.bare = y.bare) :
    x.boot = y.boot ∧ x.ecc = y.ecc ∧ x.clk = y.clk ∧ x.scene = y.scene := by
  have hboot := congrArg Leaf.boot h
  have hecc := congrArg Leaf.ecc h
  have hclk := congrArg Leaf.clk h
  have hscene := congrArg Leaf.scene h
  exact ⟨hboot, hecc, hclk, hscene⟩

theorem LeafId.eq_or_other (k l : LeafId) : k = l ∨ k = l.other := by
  cases k <;> cases l <;> decide

/-- A test command that is not refused begins its test, whatever its kind (R467, R468, R469, R491, R492). -/
theorem test_goes {row : Instr} (hrow : exec row s = .next (issue sp drainDue c s)) (hstarts : s.Starts sp c)
    (hstage : ∀ k t, sp.stage k t = t) (hrefs : ∀ k, sp.refs k = []) (h : s.Ready sp c) (hok : (s.effect sp c).status = sOk) :
    let b := c.body
    let l := s.testLeaf c
    Goes row s fun t =>
        (t.leaf l).boot.tests.map Test.cmd = (s.leaf l).boot.tests.map Test.cmd ++ [taken sp s c] ∧
        (∃ q, (t.leaf l).boot.tests.getLast? = some q ∧ q.op = sp.op ∧ q.fn = c.fn ∧ q.field = false ∧
          (sp.op = 0x0F02 → u8 b 0 = 0 → u8 b 1 = 0 →
            q.owners = (marchBanks c).map (fun k => (k, ((s.leaf l).ecc.bank k).owner)) ∧
            ∀ k ∈ marchBanks c, ((t.leaf l).ecc.bank k).owner = 2)) ∧
        (t.leaf l.other).boot = (s.leaf l.other).boot ∧ (∀ k, (t.leaf k).scene = (s.leaf k).scene) ∧
        (s.standbyUp l = true → (t.red.of l).claim = 0) ∧
        (sp.op = 0x0F04 → (s.leaf l).testing = false → (t.leaf l).clk.dram.gated = true) ∧
        (sp.op ≠ 0x0F04 → (t.leaf l).clk = (s.leaf l).clk) := by
  obtain ⟨hmode, g, htested, hleaf⟩ := hstarts hok
  refine ⟨_, hrow, ?_⟩
  rw [h.issues hstage hrefs, finish_inProgress _ _ _ hmode]
  generalize (s.effect sp c).s = t at htested
  obtain ⟨hboot, hecc, hclk, hscene⟩ := Leaf.parts_of_bare htested.leaf
  obtain ⟨hother, -, -, hotherScene⟩ := Leaf.parts_of_bare htested.other
  rw [hboot, hecc, hclk]
  refine ⟨hleaf.cmds, hleaf.last, hother, fun k => ?_, htested.claim, hleaf.gated, hleaf.clk⟩
  obtain rfl | rfl := LeafId.eq_or_other k (s.testLeaf c)
  · exact hscene.trans hleaf.scene
  · exact hotherScene

end

end Sys2Proof.Machine
end

section
section
open Sys2Proof Sys2Proof.Machine

/-- Settles O50: each command's clause is what its chapter does of a ready command, read through the completion
that follows it. -/
theorem systemCommands : Obligations.SystemCommands := by
  unfold Obligations.SystemCommands
  intro s c
  refine ⟨sysCaps_goes, ?_, fun hchannel hroom => ⟨fun h => sysBootLoad_goes h hchannel hroom, fun h => sysFwUpdate_goes h hchannel hroom⟩,
    fun d ha => ⟨sysBootLoad_arrives ha, sysFwUpdate_arrives ha⟩, ?_, diagConfig_goes, diagRepair_goes, diagTraceRead_goes,
    diagMemQuery_goes⟩
  · rintro hit h huntimed hturn hchecks hlater ⟨p, hp, hhit⟩
    exact sysCancel_goes h huntimed hturn hchecks hlater hp hhit
  · intro row sp hmem h hok
    simp only [List.mem_cons, Prod.mk.injEq, List.not_mem_nil, or_false] at hmem
    obtain ⟨rfl, rfl⟩ | ⟨rfl, rfl⟩ | ⟨rfl, rfl⟩ | ⟨rfl, rfl⟩ := hmem
    · exact test_goes rfl (s.starts_tstBist c) (fun _ _ => rfl) (fun _ => rfl) h hok
    · exact test_goes rfl (s.starts_tstMarch c) (fun _ _ => rfl) (fun _ => rfl) h hok
    · exact test_goes rfl (s.starts_tstDramSweep c) (fun _ _ => rfl) (fun _ => rfl) h hok
    · exact test_goes rfl (s.starts_tstDramFreq c) (fun _ _ => rfl) (fun _ => rfl) h hok

end
end

section
/-! SUPPORT. The end of a render tick: what a finished sample puts in place, and that nothing after it in the tick
takes it back. -/

namespace Sys2Proof.Machine

/-- What the finished sample puts in place on its leaf: the coping's sample, the fault marks and the media clock's
count (R343, R391, R413). -/
def Leaf.finished (x : Leaf) : CopFeed × Ecc × Nat := (x.cop, x.ecc, x.clk.dom.count)

/-- What the finished sample puts in place for the pair: the leaf's own message, and the message in transit (R412). -/
def Red.finished (r : Red) (l : LeafId) : Nat × Option Msg × Option Msg := (r.mode, (r.of l).own, (r.of l).sent)

/-- A later state `s` still holds what a finished sample of the leaf had put in place in `z`. -/
structure State.Closing (z : State) (l : LeafId) (s : State) : Prop where
  leaf : (s.leaf l).finished = (z.leaf l).finished
  red : s.red.finished l = z.red.finished l

section
variable {z s t : State} {l : LeafId}

theorem State.Closing.refl (s : State) (l : LeafId) : s.Closing l s := ⟨rfl, rfl⟩

theorem State.Closing.trans (h : z.Closing l s) (k : s.Closing l t) : z.Closing l t :=
  ⟨k.leaf.trans h.leaf, k.red.trans h.red⟩

theorem State.Closing.cop (h : z.Closing l s) : (s.leaf l).cop = (z.leaf l).cop := congrArg Prod.fst h.leaf

theorem State.Closing.ecc (h : z.Closing l s) : (s.leaf l).ecc = (z.leaf l).ecc := congrArg (fun p => p.2.1) h.leaf

theorem State.Closing.count (h : z.Closing l s) : (s.leaf l).clk.dom.count = (z.leaf l).clk.dom.count :=
  congrArg (fun p => p.2.2) h.leaf

/-- Events, completions and reports take nothing back. -/
theorem State.Alike.closing (h : s.Alike t) (l : LeafId) : s.Closing l t := by
  constructor
  · have q := congrArg Leaf.finished (h.leaf l)
    exact q
  · have q := congrArg (fun r : Red => r.finished l) h.red
    cases l <;> exact q

theorem State.Closing.alike (h : z.Closing l s) (k : s.Alike t) : z.Closing l t := h.trans (k.closing l)

theorem State.Closing.setLeaf (h : z.Closing l s) {x : Leaf} (hx : x.finished = (s.leaf l).finished) :
    z.Closing l (s.setLeaf l x) :=
  ⟨by rw [State.leaf_setLeaf_same, hx, h.leaf], by rw [State.setLeaf_red, h.red]⟩

theorem State.Closing.modLeaf (h : z.Closing l s) (k : LeafId) {g : Leaf → Leaf} (hg : ∀ x, (g x).finished = x.finished) :
    z.Closing l (s.modLeaf k g) := by
  refine ⟨?_, by rw [State.modLeaf_red, h.red]⟩
  rw [State.leaf_modLeaf]
  split
  · rw [hg, h.leaf]
  · exact h.leaf

theorem State.Closing.foldl {α : Type} (h : z.Closing l s) (as : List α) (g : State → α → State)
    (hg : ∀ t a, z.Closing l t → z.Closing l (g t a)) : z.Closing l (as.foldl g s) :=
  List.foldlRecOn as g h fun t ht a _ => hg t a ht

theorem State.Closing.ite {a b : State} (p : Prop) [Decidable p] (ha : z.Closing l a) (hb : z.Closing l b) :
    z.Closing l (if p then a else b) := by split <;> assumption

/-! Both scenes of a leaf (R423). -/

theorem Leaf.finished_swapGuest (x : Leaf) : x.swapGuest.finished = x.finished := by
  unfold Leaf.swapGuest
  split <;> rfl

theorem State.Closing.flip (h : z.Closing l s) : z.Closing l
    (({ s with red := { s.red with sceneA := s.red.sceneA.other } } : State).modLeaf l Leaf.swapGuest) := by
  have hscene : z.Closing l { s with red := { s.red with sceneA := s.red.sceneA.other } } := by
    constructor
    · cases l <;> exact h.leaf
    · cases l <;> exact h.red
  exact hscene.modLeaf l Leaf.finished_swapGuest

theorem State.Closing.eachScene (h : z.Closing l s) {g : State → State} (hg : ∀ t, z.Closing l t → z.Closing l (g t)) :
    z.Closing l (s.eachScene l g) := by
  unfold State.eachScene State.asGuest
  split
  · exact hg s h
  · exact (hg _ (hg s h).flip).flip

/-! Packets (R337, R415). -/

theorem Leaf.finished_modPort (x : Leaf) (p : Nat) (f : Port → Port) : (x.modPort p f).finished = x.finished := by
  unfold Leaf.modPort
  split <;> rfl

theorem State.Closing.portSend (h : z.Closing l s) (p queue : Nat) (frame : List Byte) (stream : Nat) :
    z.Closing l (s.portSend l p queue frame stream) := by
  have hport : ∀ f, z.Closing l (s.modPort l p f) := fun f => h.modLeaf l fun x => x.finished_modPort p f
  exact .ite _ (.ite _ (hport _) h) (.ite _ (hport _) (h.alike ((State.Alike.refl s).send _)))

theorem State.Closing.releaseTx (h : z.Closing l s) (stream : Nat) : z.Closing l (s.releaseTx l false stream) := by
  have hput : ∀ f, z.Closing l (s.setLeaf l ((s.leaf l).modScene f)) := fun f => h.setLeaf rfl
  unfold State.releaseTx
  dsimp only
  simp only [Bool.false_eq_true, if_false]
  split
  · exact h
  · exact .ite _ h (.ite _ (hput _) ((hput _).foldl _ _ fun _ _ k => k.portSend _ 6 _ stream))

theorem State.Closing.releaseAll (h : z.Closing l s) : z.Closing l (s.releaseAll l) :=
  h.foldl _ _ fun _ i k => k.foldl _ _ fun _ _ k => k.releaseTx i

/-! The time bases' decisions (R355 to R358). -/

theorem Domain.count_afterStep (d : Domain) (theta : Rat) : (d.afterStep theta).count = d.count := by
  unfold Domain.afterStep
  dsimp only
  split <;> rfl

theorem Leaf.finished_modDomain (x : Leaf) (d : Nat) {f : Domain → Domain} (hf : ∀ k, (f k).count = k.count) :
    (x.modDomain d f).finished = x.finished := by
  unfold Leaf.modDomain
  split
  · simp only [Leaf.finished, hf]
  · rfl
  · rfl

theorem Leaf.finished_stepTb (x : Leaf) (i : Nat) (theta : Rat) : (x.stepTb i theta).finished = x.finished := by
  unfold Leaf.stepTb
  refine List.foldlRecOn (motive := fun y : Leaf => y.finished = x.finished) _ _ rfl fun y hy d _ => ?_
  split
  · rw [Leaf.finished_modDomain _ _ fun k => k.count_afterStep theta, hy]
  · exact hy

theorem Leaf.finished_acquireTb (x : Leaf) (i : Nat) (theta : Rat) : (x.acquireTb i theta).finished = x.finished := by
  have hstep := (x.modTb i fun t => { t with fresh := false, plan := none }).finished_stepTb i theta
  unfold Leaf.acquireTb
  dsimp only
  split <;> exact hstep

theorem Leaf.finished_acceptSample (x : Leaf) (i : Nat) (theta : Rat) : (x.acceptSample i theta).x.finished = x.finished :=
  iteInduction (motive := fun e : LEff => e.x.finished = x.finished) (fun _ => rfl) fun _ => rfl

theorem Leaf.finished_resolveTb (x : Leaf) (i action : Nat) (theta : Rat) :
    (x.resolveTb i action theta).x.finished = x.finished := by
  unfold Leaf.resolveTb
  dsimp only
  split
  · exact Leaf.finished_stepTb _ i theta
  · rfl
  · rw [Leaf.finished_acceptSample, Leaf.finished_acquireTb]
  · rfl
  · rfl

theorem State.Closing.leafStep (h : z.Closing l s) {g : Leaf → LEff} (hg : ∀ x, (g x).x.finished = x.finished) :
    z.Closing l (s.leafStep l g) := by
  have hevents := (h.setLeaf (hg _)).foldl (g (s.leaf l)).evs
    (fun s v => s.leafEvent l v.code v.sev v.subject v.payload v.autonomy v.flags v.tag)
    fun t v k => k.alike (State.leafEvent_alike l _ _ _ _ _ _ _ (.refl t))
  unfold State.leafStep
  dsimp only
  split
  · exact hevents
  · exact hevents.foldl _ _ fun t d k => k.alike (State.final_alike d.cmd _ _ _ _ _ (.refl t))

theorem State.Closing.shareTb (h : z.Closing l s) (k : LeafId) (i action : Nat) (theta : Rat) :
    z.Closing l (s.shareTb k i action theta) :=
  h.foldl _ _ fun _ k h => h.modLeaf k fun _ => rfl

theorem State.Closing.planTb (h : z.Closing l s) (i : Nat) : z.Closing l (s.planTb l i) := by
  unfold State.planTb
  split
  · refine .ite _ h (h.leafStep fun x => ?_)
    dsimp only
    split <;> exact x.finished_resolveTb i _ _
  · exact h

theorem State.Closing.decideTb (h : z.Closing l s) (i : Nat) : z.Closing l (s.decideTb l i) := by
  have hdue := h.modLeaf l (g := fun x => x.modTb i fun t => { t with due := false }) fun _ => rfl
  have hevent := fun e : Ev => State.Closing.ite (((s.leaf l).tb i).policy = 0) hdue
    (hdue.alike (State.leafEvent_alike l e.code e.sev e.subject e.payload e.autonomy e.flags 0 (.refl _)))
  exact .ite _ h (.ite _ (hevent _) (.ite _ ((hevent _).shareTb l i _ _)
    ((hevent _).leafStep fun x => x.finished_resolveTb i _ _)))

/-! Reports of faults (R96, R432). -/

theorem State.fresh_alike (s : State) (what : String) : s.Alike (s.fresh what).2 :=
  ⟨rfl, rfl, rfl, rfl, fun k => by cases k <;> rfl⟩

theorem State.faultReports_alike (s : State) (l : LeafId) (n : Nat) (overruns : List (Nat × Nat))
    (residues : List (Nat × Nat × Nat)) : s.Alike (s.faultReports l n overruns residues) := by
  have hreport : ∀ (t : State) (course cycles : Nat), s.Alike t →
      s.Alike (t.leafEvent l 0x09F0 3 course (le32 (n % 4294967296) ++ le32 cycles)) :=
    fun _ _ _ h => State.leafEvent_alike l _ _ _ _ _ _ _ h
  have hcourses := ((State.Alike.refl s).foldl overruns
      (fun t o => if (s.leaf l).ecc.halted.contains o.1 then t else
        t.leafEvent l 0x09F0 3 o.1 (le32 (n % 4294967296) ++ le32 o.2))
      fun t o h => .ite _ h (hreport t o.1 o.2 h)).foldl (s.leaf l).ecc.halted
    (fun t course => (t.fresh "cyclesLeft").2.leafEvent l 0x09F0 3 course
      (le32 (n % 4294967296) ++ le32 ((t.fresh "cyclesLeft").1 % 4294967296)))
    fun t course h => hreport _ course _ (h.trans (t.fresh_alike _))
  exact .ite _ hcourses (hcourses.foldl _ _ fun _ _ h => State.reportOn_alike .f2 l _ h)

end

/-! The stages of the closing. -/

/-- The sample goes to the coping, and a flagged one is counted (R391, R431). -/
def State.delivers (s : State) (l : LeafId) (n : Nat) (flag : Bool) : State :=
  (s.modLeaf l fun x => { x with copPrev := x.cop, cop := { sample := n, vals := s.copDeliver l n } }).modRed l
    fun r => { r with flags := if flag then min 4294967295 (r.flags + 1) else r.flags }

/-- In twin mode the leaf's message of a sample goes to the peer (R412). -/
def State.tells (s : State) (l : LeafId) (m : Msg) : State :=
  if s.twin then s.modRed l fun r => { r with own := some m, sent := some m } else s

/-- What `State.closeSample` does first: the sample goes to the coping and its message to the peer. -/
def State.handsOff (s : State) (l : LeafId) (n stamp : Nat) (overruns : List (Nat × Nat))
    (residues : List (Nat × Nat × Nat)) : State :=
  let x : Leaf := { s.leaf l with copPrev := (s.leaf l).cop, cop := { sample := n, vals := s.copDeliver l n } }
  let flag := x.selfFlag overruns residues
  (s.delivers l n flag).tells l (x.message n stamp flag)

/-- What `State.closeSample` does up to the clearing of the marks: the sample is handed off, its faults are reported,
and its packets are released (R96, R412, R415). -/
def State.released (s : State) (l : LeafId) (n stamp : Nat) (overruns : List (Nat × Nat))
    (residues : List (Nat × Nat × Nat)) : State :=
  ((s.handsOff l n stamp overruns residues).faultReports l n overruns residues).eachScene l fun s => s.releaseAll l

/-- A leaf without the marks of a sample's faults (R413). -/
def Leaf.unmarked (x : Leaf) : Leaf :=
  { x with ecc := { x.ecc with once := [], quietOsc := [], quietClip := [], flag := false } }

/-- A leaf whose media clock stands at a count (R343). -/
def Leaf.atCount (x : Leaf) (c : Nat) : Leaf := x.modDomain 0 fun d => { d with count := c, minNext := 0 }

theorem State.closeSample_eq (s : State) (l : LeafId) (n c stamp : Nat) (overruns : List (Nat × Nat))
    (residues : List (Nat × Nat × Nat)) :
    s.closeSample l n c stamp overruns residues =
      (List.range 4).foldl (fun s i => (s.planTb l i).decideTb l i)
        ((((s.released l n stamp overruns residues).modLeaf l Leaf.unmarked).eachScene l
          fun s => s.modLeaf l fun x => x.modScene fun sc => sc.advancePlayers n).modLeaf l fun x => x.atCount c) := by
  cases l <;> rfl

theorem State.leaf_tells (s : State) (l k : LeafId) (m : Msg) : (s.tells l m).leaf k = s.leaf k := by
  unfold State.tells
  split
  · exact State.leaf_modRed _ _ _ _
  · rfl

theorem State.cop_handsOff (s : State) (l : LeafId) (n stamp : Nat) (overruns : List (Nat × Nat))
    (residues : List (Nat × Nat × Nat)) :
    ((s.handsOff l n stamp overruns residues).leaf l).cop = { sample := n, vals := s.copDeliver l n } := by
  rw [State.handsOff, State.leaf_tells, State.delivers, State.leaf_modRed, State.leaf_modLeaf_same]

/-- The leaf's message of sample `n` is sent in twin mode (R412). -/
def Red.Sends (r : Red) (l : LeafId) (n : Nat) : Prop :=
  r.mode = 1 → ∃ m, (r.of l).own = some m ∧ (r.of l).sent = some m ∧ m.sample = n

theorem State.sends_tells (s : State) (l : LeafId) (m : Msg) : (s.tells l m).red.Sends l m.sample := by
  unfold State.tells
  split
  · exact fun _ => ⟨m, by rw [State.modRed, Red.of_set_same], by rw [State.modRed, Red.of_set_same], rfl⟩
  · next htwin => exact fun hmode => absurd (beq_iff_eq.2 hmode) htwin

theorem State.Closing.sends {z s : State} {l : LeafId} {n : Nat} (h : z.Closing l s) (hz : z.red.Sends l n) :
    s.red.Sends l n := by
  have hred := h.red
  simp only [Red.finished, Prod.mk.injEq] at hred
  obtain ⟨hmode, hown, hsent⟩ := hred
  simpa only [Red.Sends, hmode, hown, hsent] using hz

theorem State.closing_released (s : State) (l : LeafId) (n stamp : Nat) (overruns : List (Nat × Nat))
    (residues : List (Nat × Nat × Nat)) :
    (s.handsOff l n stamp overruns residues).Closing l (s.released l n stamp overruns residues) :=
  ((State.faultReports_alike _ l n overruns residues).closing l).eachScene fun _ k => k.releaseAll

/-- After the marks are cleared the closing sets the count, and before and after that nothing takes back what it has
put in place. -/
theorem State.closing_closeSample (s : State) (l : LeafId) (n c stamp : Nat) (overruns : List (Nat × Nat))
    (residues : List (Nat × Nat × Nat)) : ∃ advanced,
      ((s.released l n stamp overruns residues).modLeaf l Leaf.unmarked).Closing l advanced ∧
      (advanced.modLeaf l fun x => x.atCount c).Closing l (s.closeSample l n c stamp overruns residues) := by
  rw [State.closeSample_eq]
  refine ⟨_, ?_, (State.Closing.refl _ l).foldl _ _ fun _ i k => (k.planTb i).decideTb i⟩
  exact (State.Closing.refl _ l).eachScene fun _ k => k.modLeaf l fun _ => rfl

/-- What stands on a leaf when the closing of sample `n` at count `c` is done (R343, R391, R412, R413). -/
structure State.Closed (s : State) (l : LeafId) (n c : Nat) : Prop where
  count : (s.leaf l).clk.dom.count = c
  sample : (s.leaf l).cop.sample = n
  held : (s.leaf l).cop.held = false
  once : (s.leaf l).ecc.once = []
  quietOsc : (s.leaf l).ecc.quietOsc = []
  quietClip : (s.leaf l).ecc.quietClip = []
  flag : (s.leaf l).ecc.flag = false
  sends : s.red.Sends l n

theorem State.closeSample_closed (s : State) (l : LeafId) (n c stamp : Nat) (overruns : List (Nat × Nat))
    (residues : List (Nat × Nat × Nat)) : (s.closeSample l n c stamp overruns residues).Closed l n c := by
  have hreleased := s.closing_released l n stamp overruns residues
  obtain ⟨advanced, hadvanced, hdecided⟩ := s.closing_closeSample l n c stamp overruns residues
  have hcop := calc
    ((s.closeSample l n c stamp overruns residues).leaf l).cop
    _ = (advanced.leaf l).cop := by rw [hdecided.cop, State.leaf_modLeaf_same]; rfl
    _ = ((s.released l n stamp overruns residues).leaf l).cop := by rw [hadvanced.cop, State.leaf_modLeaf_same]; rfl
    _ = { sample := n, vals := s.copDeliver l n } := by rw [hreleased.cop, State.cop_handsOff]
  have hecc := calc
    ((s.closeSample l n c stamp overruns residues).leaf l).ecc
    _ = (advanced.leaf l).ecc := by rw [hdecided.ecc, State.leaf_modLeaf_same]; rfl
    _ = ((s.released l n stamp overruns residues).leaf l).unmarked.ecc := by rw [hadvanced.ecc, State.leaf_modLeaf_same]
  exact {
    count := by rw [hdecided.count, State.leaf_modLeaf_same]; rfl
    sample := by rw [hcop]
    held := by rw [hcop]
    once := by rw [hecc]; rfl
    quietOsc := by rw [hecc]; rfl
    quietClip := by rw [hecc]; rfl
    flag := by rw [hecc]; rfl
    sends := by
      refine hdecided.sends ?_
      rw [State.modLeaf_red]
      refine hadvanced.sends ?_
      rw [State.modLeaf_red]
      exact hreleased.sends (State.sends_tells _ _ _) }

/-! The tick. -/

theorem State.setLeaf_leaf (s : State) (l : LeafId) : s.setLeaf l (s.leaf l) = s := by cases l <;> rfl

theorem State.modLeaf_fallSilent (s : State) (l : LeafId) (h : (s.leaf l).fallSilent = s.leaf l) :
    s.modLeaf l Leaf.fallSilent = s := by
  rw [State.modLeaf, h, State.setLeaf_leaf]

theorem Leaf.fallSilent_none {x : Leaf} (h : x.clk.restart = none) : x.fallSilent = x := by
  simp only [Leaf.fallSilent, h]

theorem Leaf.fallSilent_silent {x : Leaf} {r : Restart} (h : x.clk.restart = some r) (hsilent : r.silent = true) :
    x.fallSilent = x := by
  have hrestart : { r with silent := true } = r := by rw [← hsilent]
  unfold Leaf.fallSilent
  rw [h]
  dsimp only
  split
  · rfl
  · rw [hrestart, ← h]

theorem State.meridian_idle {s : State} {l : LeafId} (h : s.renders l = false) (overruns : List (Nat × Nat))
    (residues : List (Nat × Nat × Nat)) : s.meridian l overruns residues = s := by
  simp only [State.meridian, h, Bool.not_false, if_true]

/-- A leaf in the silent interval of a restart of its own renders nothing (R272). -/
theorem State.meridian_silent {s : State} {l : LeafId} {r : Restart} (h : (s.leaf l).clk.restart = some r)
    (hsilent : r.silent = true) (hown : r.joint = false) (overruns : List (Nat × Nat)) (residues : List (Nat × Nat × Nat)) :
    s.meridian l overruns residues = s := by
  have hnow : (s.leaf l).silentNow = true := by simp only [Leaf.silentNow, h, hsilent, hown, Bool.not_false, Bool.and_true]
  unfold State.meridian
  rw [s.modLeaf_fallSilent l (Leaf.fallSilent_silent h hsilent)]
  simp only [hnow, if_true, ite_self]

/-- A tick of a rendering leaf without a restart renders a sample, closes it, and makes it the latest (R85, R94). -/
theorem State.meridian_renders {s : State} {l : LeafId} (h : s.renders l = true) (hnone : (s.leaf l).clk.restart = none)
    (overruns : List (Nat × Nat)) (residues : List (Nat × Nat × Nat)) :
    ∃ u ov res, s.meridian l overruns residues =
      (State.closeSample u l (s.leaf l).next (s.leaf l).clk.dom.nextCount (s.leaf l).nextTns ov res).modLeaf l fun y =>
        { y with clk := { y.clk with dom := { y.clk.dom with sample := (s.leaf l).next } } } := by
  have hnow : (s.leaf l).silentNow = false := by simp only [Leaf.silentNow, hnone]
  unfold State.meridian
  rw [s.modLeaf_fallSilent l (Leaf.fallSilent_none hnone), h]
  simp only [hnow, Bool.not_true, Bool.false_eq_true, if_false]
  exact ⟨_, _, _, rfl⟩

end Sys2Proof.Machine
end

section
section
open Sys2Proof Sys2Proof.Machine

/-- Settles O57: on a leaf that does not render or is silent the tick is the identity; on a rendering leaf what the
closing of the sample puts in place (`State.closeSample_closed`) stands when the sample becomes the latest. -/
theorem meridianSteps : Obligations.MeridianSteps := by
  unfold Obligations.MeridianSteps
  intro l s overruns residues
  refine ⟨fun h => congrArg Host.Outcome.next (State.meridian_idle h overruns residues),
    fun r h hsilent hown => congrArg Host.Outcome.next (State.meridian_silent h hsilent hown overruns residues),
    fun h hnone => ⟨_, rfl, ?_⟩⟩
  obtain ⟨u, ov, res, htick⟩ := State.meridian_renders h hnone overruns residues
  have hclosed := u.closeSample_closed l (s.leaf l).next (s.leaf l).clk.dom.nextCount (s.leaf l).nextTns ov res
  rw [htick, State.leaf_modLeaf_same, State.modLeaf_red]
  exact ⟨rfl, hclosed.count, hclosed.sample, hclosed.held, hclosed.once, hclosed.quietOsc, hclosed.quietClip, hclosed.flag,
    hclosed.sends⟩

end
end
